-- ==== Sys2Proof/Word.lean ====
section
/-! DEFINITION. Word types, index types and the sparse table type of the model. -/
namespace Sys2Proof

abbrev Byte := BitVec 8
abbrev Half := BitVec 16
abbrev W32 := BitVec 32
abbrev Word := BitVec 64
/-- A 128-bit value: a chain digest, a page table entry, a queue descriptor (R65, R138, R157). -/
abbrev W128 := BitVec 128
/-- Bytes 16 to 63 of a manifest, as one number (R67). -/
abbrev Body := BitVec 384

/-- Context number, 0 to 127 (R50). -/
abbrev CtxId := Fin 128
/-- Partition, 0 or 1 (R12). -/
abbrev Part := Fin 2
/-- Logical device, 0 to 15 (R299). -/
abbrev LdId := Fin 16
/-- Queue index, 0 to 1,023 (R65). -/
abbrev QIdx := Fin 1024
/-- Memory stack, 0 to 31 (R20). -/
abbrev StackId := Fin 32
/-- Hub, 0 to 7 (R20). -/
abbrev HubId := Fin 8
/-- Tally index, 0 to 4,095 (R73). -/
abbrev TallyIdx := Fin 4096
/-- Isandi port, 0 to 3 (R241). -/
abbrev PortId := Fin 4
/-- Node number (R245). -/
abbrev Node := BitVec 14
/-- Queue-pair number (R266). -/
abbrev Qpn := BitVec 14
/-- Ticket: ctx in 31:25, seq in 24:0 (R64). -/
abbrev Ticket := BitVec 32
/-- Unit identifier: kind in 31:24, index in 15:0 (R30). -/
abbrev UnitId := BitVec 32

/-- A sparse table: pairs of a key and a value, keys rising, a missing key standing for a default value. -/
abbrev Table (α : Type) := List (Nat × α)

end Sys2Proof
end

