-- ==== Sys2Proof/Syntax.lean ====
section
/-! DEFINITION. The commands: one constructor per row of spec/opcode_table.json, in table order, and their operand types. -/
namespace Sys2Proof

/-- The fields of a 64-bit Kecon instruction word besides class and op (R59). -/
structure Ins64 where
  imm  : BitVec 28 := 0
  ib   : Bool := false
  sb   : BitVec 6 := 0
  sa   : BitVec 6 := 0
  sd   : BitVec 6 := 0
  pneg : Bool := false
  pred : BitVec 3 := 0
  len  : Bool := false
  deriving DecidableEq, Repr

/-- The fields of a 128-bit Kecon instruction word besides class and op (R59). -/
structure Ins128 where
  imm64 : Word := 0
  resv  : BitVec 7 := 0
  ord   : Bool := false
  whn   : BitVec 3 := 0
  tl    : BitVec 4 := 0
  tc    : BitVec 4 := 0
  q     : BitVec 4 := 0
  sc    : BitVec 6 := 0
  sb    : BitVec 6 := 0
  sa    : BitVec 6 := 0
  sd    : BitVec 6 := 0
  pneg  : Bool := false
  pred  : BitVec 3 := 0
  len   : Bool := true
  deriving DecidableEq, Repr

/-- A posted instruction: `issue` is its issue by a context (R63, R86); `run` is the work of its engine on the
operation of that ticket once it has launched (R92 and the chapter of the engine). -/
inductive Posted where
  | issue (c : CtxId) (w : Ins128)
  | run (t : Ticket)
  deriving DecidableEq, Repr

/-- Who accesses a register (R387). -/
inductive Agent where
  | core (c : CtxId)
  | host (ld : LdId)
  deriving DecidableEq, Repr

/-- What waits on a full queue: a context's post (R66) or a posting step of an LSTEP (R116). -/
inductive PostWaiter where
  | ctx (c : CtxId)
  | plan (p : Part)
  deriving DecidableEq, Repr

/-- What an access of memory finds (R189, R331). -/
inductive MemError where
  | none
  | corrected
  | uncorrectable
  deriving DecidableEq, Repr

/-- Where a memory error lies: a stack byte offset, an array byte offset of a unit (0 for shared SRAM), or a logical
granule of the cave. -/
inductive ErrorSite where
  | dram (st : StackId) (off : BitVec 36)
  | sram (u : UnitId) (off : Nat)
  | flash (lgran : BitVec 48)
  deriving DecidableEq, Repr

/-- The result of the checks at the end of a step (R331, R333): passed, failed at these units (R348), or passed with an error
that a read met. -/
inductive StepCheck where
  | pass
  | fail (us : List UnitId)
  | sawError (x : ErrorSite) (e : MemError)
  deriving DecidableEq, Repr

/-- A scope of partial reset (R356). -/
inductive ResetScope where
  | tile (u : UnitId)
  | cluster (u : UnitId)
  | partition (p : Part)
  deriving DecidableEq, Repr

/-- Whether the identity flash reports success (R378). -/
inductive FlashResult where
  | done
  | failed
  | powerLost
  deriving DecidableEq, Repr

/-- What the read of a host-ring record gives (R394, R395): a ring in device memory is read from it. -/
inductive RingRead where
  | own
  | hostBytes (b : List Byte)
  | hostPoison
  | hostFail
  deriving DecidableEq, Repr

/-- A register, by BAR0 offset; the share weights of R122 have no offset in the spec and are named. -/
inductive RegTarget where
  | bar (off : BitVec 24)
  | shareWeight (p : Part) (cls : Byte)
  deriving DecidableEq, Repr

/-- The size of a register access (R386). -/
inductive AccessWidth where
  | w4
  | w8
  | other (n : Nat)
  deriving DecidableEq, Repr

/-- A control flit's payload (R243). -/
structure CtlFlit where
  ack : BitVec 10
  nak : Bool
  credits : List Nat
  deriving DecidableEq, Repr

/-- The result of training an Isandi port (R241): lanes 1, 2, 4, 8 or 16, PAM4 or NRZ, credits of each channel. -/
structure PortTraining where
  width : Nat
  pam4  : Bool
  credits : List Nat
  deriving DecidableEq, Repr

/-- An Isandi packet: the header of R245 and its payload bytes. -/
structure Packet where
  off     : BitVec 50 := 0
  dst     : Node := 0
  src     : Node := 0
  vc      : BitVec 2 := 0
  tally   : BitVec 12 := 0
  talEn   : Bool := false
  edition : W32 := 0
  tag     : W32 := 0
  op      : Byte := 0
  status  : Byte := 0
  len     : BitVec 13 := 0
  resv    : BitVec 6 := 0
  arg     : Word := 0
  data    : List Byte := []
  deriving DecidableEq, Repr

/-- An index message at a shard (R160 to R166). -/
structure IndexMsg where
  src      : Node
  tag      : W32
  edition  : W32
  digest   : W128
  geometry : BitVec 38
  holder   : Word
  resv     : BitVec 6 := 0
  deriving DecidableEq, Repr

/-- A shard's answer (R164, R165); `refused` is PROTECT, of a node that may not ask (R381). -/
inductive IndexAnswer where
  | absent
  | valid (geometry : BitVec 38) (holders : List Word)
  | claimedBy (cnode : Node)
  | claimMade
  | claimRefused
  | outcome (code : Byte)
  | moved (edition : W32)
  | refused
  deriving DecidableEq, Repr

/-- A response to an INDEX packet (R245): a shard's answer and the Resv bits of its header. -/
structure IndexReply where
  answer : IndexAnswer
  resv   : BitVec 6 := 0
  deriving DecidableEq, Repr

/-- The result of training the host port (R287). -/
structure HostTraining where
  width     : BitVec 4
  rate      : BitVec 2
  flit256   : Bool
  viaSwitch : Bool
  deriving DecidableEq, Repr

/-- The line state a host read asks for (R295). -/
inductive LineWish where
  | uncached
  | shared
  | exclusive
  deriving DecidableEq, Repr

/-- The streams that IDE keys are for (R286, R302): the link stream or a selective stream of CXL.io, or the link stream of CXL.mem in
the mode that the host selects. -/
inductive IdeStream where
  | ioLink | ioSelective
  | mem (skid : Bool)
  deriving DecidableEq, Repr

/-- IDE keys of one stream (R302, R384). -/
structure IdeKeys where
  stream : Byte
  kind   : IdeStream
  key    : BitVec 256
  deriving DecidableEq, Repr

/-- The algorithms an SPDM requester offers that the profile of R370 names. -/
structure SpdmOffer where
  sha384   : Bool
  brainpool : Bool
  secp384  : Bool
  gcm      : Bool
  deriving DecidableEq, Repr

/-- The mailbox a command comes to: a logical device's, or the FM-owned logical device's (R304). -/
inductive MbxPort where
  | ld (n : LdId)
  | fm
  deriving DecidableEq, Repr

/-- Which event records Clear Event Records names. -/
inductive ClearEvents where
  | all
  | handles (hs : List Half)
  deriving DecidableEq, Repr

/-- A part of Transfer FW (R372). -/
inductive FwTransfer where
  | full (b : List Byte)
  | initiate (b : List Byte)
  | continue_ (off : Nat) (b : List Byte)
  | last (off : Nat) (b : List Byte)
  | abort
  deriving DecidableEq, Repr

/-- What an image's signing certificate gives (R373, item 2): whether its usage and chain are good, and the public key it certifies. -/
structure CertVerdict where
  chainOk : Bool
  key     : List Byte
  deriving DecidableEq, Repr

/-- A range of device physical addresses. -/
structure DpaRange where
  base : Word
  len  : Word
  deriving DecidableEq, Repr

/-- An FM API command of the MLD component set (R304). -/
inductive MldCommand where
  | bind (ld : LdId)
  | unbind (ld : LdId)
  | info
  | setRegion (region : Fin 8) (base len block : Word)
  | other (opcode : Half)
  deriving DecidableEq, Repr

/-- How one returning page arrives (R183): from the cave, from a peer through the landing, or not at all. -/
inductive PageArrival where
  | cave
  | peer (bytes : List Byte)
  | dead
  deriving DecidableEq, Repr

/-- What the repair agent meets at a page's first listed holder (R343). -/
inductive PeerAnswer where
  | noHolder
  | unreachable
  | page (layerDram : Bool) (bytes : List Byte)
  deriving DecidableEq, Repr

/-- The row a soft repair concerns (R341). -/
inductive RepairSite where
  | dramRow (st : StackId) (sub : BitVec 20) (row : BitVec 9)
  | sramRow (u : UnitId) (row : Half)
  deriving DecidableEq, Repr

/-- A flash operation that reports failure (R317): the program of a write-buffer slot, or an erase of a block. -/
inductive FlashFailure where
  | program (slot : BitVec 19)
  | granule (place : BitVec 38)
  | erase (target : Fin 128) (block : BitVec 20)
  deriving DecidableEq, Repr

/-- What the map rebuild meets on the flash (R329): logical granules that do not decode, and places of the layer's own granules that do
not. -/
structure RebuildInput where
  undecodable : List Nat
  lostPlaces  : List Nat
  deriving DecidableEq, Repr

/-- What start-up meets (R352 steps 1 to 5, R355, R368): whether the keel units and the PUF helper data are good,
the control cores that fail their self-test, and the factory record of R377 (ordering code and nominal voltages). -/
structure BootInput where
  keelOk : Bool
  pufOk  : Bool
  coresFailed : List (Fin 18)
  code   : Byte
  nominalMv : List Nat
  deriving DecidableEq, Repr

/-- Readings of the rail and thermal sensors (R362 to R364). -/
structure PowerReading where
  packageMw : Nat
  packageMw1ms : Nat
  partMw0 : Nat
  partMw1 : Nat
  railMa : List Nat := []
  railMv : List Nat := []
  dieSixteenths : List Int := []
  deriving DecidableEq, Repr

/-- A die with a thermal sensor (R366). -/
inductive Die where
  | controller
  | hub (h : HubId)
  | stack (st : StackId)
  deriving DecidableEq, Repr

/-- The commands, one per row of spec/opcode_table.json. -/
inductive Instr where
  /-- ADD (R84) -/
  | add (c : CtxId) (w : Ins64)
  /-- SUB (R84) -/
  | sub (c : CtxId) (w : Ins64)
  /-- MUL (R84) -/
  | mul (c : CtxId) (w : Ins64)
  /-- MULHU (R84) -/
  | mulhu (c : CtxId) (w : Ins64)
  /-- DIVU (R84) -/
  | divu (c : CtxId) (w : Ins64)
  /-- REMU (R84) -/
  | remu (c : CtxId) (w : Ins64)
  /-- AND (R84) -/
  | and (c : CtxId) (w : Ins64)
  /-- OR (R84) -/
  | or (c : CtxId) (w : Ins64)
  /-- XOR (R84) -/
  | xor (c : CtxId) (w : Ins64)
  /-- SHL (R84) -/
  | shl (c : CtxId) (w : Ins64)
  /-- SHR (R84) -/
  | shr (c : CtxId) (w : Ins64)
  /-- SAR (R84) -/
  | sar (c : CtxId) (w : Ins64)
  /-- MINU (R84) -/
  | minu (c : CtxId) (w : Ins64)
  /-- MAXU (R84) -/
  | maxu (c : CtxId) (w : Ins64)
  /-- CMPEQ (R84) -/
  | cmpeq (c : CtxId) (w : Ins64)
  /-- CMPLTU (R84) -/
  | cmpltu (c : CtxId) (w : Ins64)
  /-- CMPLT (R84) -/
  | cmplt (c : CtxId) (w : Ins64)
  /-- POPC (R84) -/
  | popc (c : CtxId) (w : Ins64)
  /-- CLZ (R84) -/
  | clz (c : CtxId) (w : Ins64)
  /-- LI (R84) -/
  | li (c : CtxId) (w : Ins128)
  /-- LD8 (R88) -/
  | ld8 (c : CtxId) (w : Ins64)
  /-- LD16 (R88) -/
  | ld16 (c : CtxId) (w : Ins64)
  /-- LD32 (R88) -/
  | ld32 (c : CtxId) (w : Ins64)
  /-- LD64 (R88) -/
  | ld64 (c : CtxId) (w : Ins64)
  /-- ST8 (R88) -/
  | st8 (c : CtxId) (w : Ins64)
  /-- ST16 (R88) -/
  | st16 (c : CtxId) (w : Ins64)
  /-- ST32 (R88) -/
  | st32 (c : CtxId) (w : Ins64)
  /-- ST64 (R88) -/
  | st64 (c : CtxId) (w : Ins64)
  /-- MFSR (R56) -/
  | mfsr (c : CtxId) (w : Ins64)
  /-- MTSR (R56) -/
  | mtsr (c : CtxId) (w : Ins64)
  /-- PAND (R84) -/
  | pand (c : CtxId) (w : Ins64)
  /-- POR (R84) -/
  | por (c : CtxId) (w : Ins64)
  /-- PNOT (R84) -/
  | pnot (c : CtxId) (w : Ins64)
  /-- FENCE (R88) -/
  | fence (c : CtxId) (w : Ins64)
  /-- BR (R84) -/
  | br (c : CtxId) (w : Ins64)
  /-- JMP (R84) -/
  | jmp (c : CtxId) (w : Ins64)
  /-- JAL (R84) -/
  | jal (c : CtxId) (w : Ins64)
  /-- CALL (R81) -/
  | call (c : CtxId) (w : Ins64)
  /-- ERET (R81) -/
  | eret (c : CtxId) (w : Ins64)
  /-- BREAK (R80) -/
  | brk (c : CtxId) (w : Ins64)
  /-- NOP (R84) -/
  | nop (c : CtxId) (w : Ins64)
  /-- YIELD (R51) -/
  | yield (c : CtxId) (w : Ins64)
  /-- CSTART (R51) -/
  | cstart (c : CtxId) (w : Ins64)
  /-- CSTOP (R89) -/
  | cstop (c : CtxId) (w : Ins64)
  /-- CHALT (R89) -/
  | chalt (c : CtxId) (w : Ins64)
  /-- CRESUME (R84) -/
  | cresume (c : CtxId) (w : Ins64)
  /-- TSET (R73) -/
  | tset (c : CtxId) (w : Ins64)
  /-- TADD (R73) -/
  | tadd (c : CtxId) (w : Ins64)
  /-- TREAD (R75) -/
  | tread (c : CtxId) (w : Ins64)
  /-- TWAIT (R90) -/
  | twait (c : CtxId) (w : Ins64)
  /-- BWAIT (R90) -/
  | bwait (c : CtxId) (w : Ins64)
  /-- TWAITB (R90) -/
  | twaitb (c : CtxId) (w : Ins64)
  /-- WAIT_WAKE (R90) -/
  | waitWake (c : CtxId)
  /-- ABORT (R77) -/
  | abort (c : CtxId) (w : Ins64)
  /-- QBIND (R58) -/
  | qbind (c : CtxId) (w : Ins64)
  /-- TBIND (R58) -/
  | tbind (c : CtxId) (w : Ins64)
  /-- QFREE (R66) -/
  | qfree (c : CtxId) (w : Ins64)
  /-- QDESC (R66) -/
  | qdesc (c : CtxId) (w : Ins128)
  /-- POST_RESUME (R66) -/
  | postResume (w : PostWaiter)
  /-- MEMORY_ACCESS_COMPLETE (R88) -/
  | memoryAccessComplete (c : CtxId)
  /-- LPOST (R106) -/
  | lpost (p : Posted)
  /-- LREAD (R105) -/
  | lread (c : CtxId) (w : Ins128)
  /-- LSET (R112) -/
  | lset (c : CtxId) (w : Ins128)
  /-- LSTEP (R117) -/
  | lstep (p : Posted)
  /-- LSTEP_BUILD_RETRY (R117) -/
  | lstepBuildRetry (p : Part)
  /-- LSTEP_COMPLETE (R119) -/
  | lstepComplete (p : Part)
  /-- LEND (R132) -/
  | lend (p : Posted)
  /-- LABORT (R109) -/
  | labort (p : Posted)
  /-- LSWAP (R131) -/
  | lswap (p : Posted)
  /-- DEADLINE_REACHED (R111) -/
  | deadlineReached (r : W32)
  /-- LIVE_WALK (R172) -/
  | liveWalk (r : W32)
  /-- PXLATE (R142) -/
  | pxlate (c : CtxId) (w : Ins128)
  /-- PINV (R93) -/
  | pinv (c : CtxId) (w : Ins128)
  /-- PMAP_OPEN (R145) -/
  | pmapOpen (p : Posted)
  /-- PMAP_SHARE (R169) -/
  | pmapShare (p : Posted)
  /-- PMAP_TAKE (R177) -/
  | pmapTake (p : Posted)
  /-- PMAP_PLACE (R178) -/
  | pmapPlace (p : Posted)
  /-- PMAP_RETURN (R182) -/
  | pmapReturn (p : Posted)
  /-- PMAP_GIVE (R177) -/
  | pmapGive (p : Posted)
  /-- PUNMAP (R170) -/
  | punmap (p : Posted)
  /-- PLOOK (R163) -/
  | plook (p : Posted)
  /-- PINDEX (R165) -/
  | pindex (p : Posted)
  /-- PDIGEST (R159) -/
  | pdigest (p : Posted)
  /-- PAPPEND (R146) -/
  | pappend (p : Posted)
  /-- PPRESS (R149) -/
  | ppress (p : Posted)
  /-- PVERIFY (R155) -/
  | pverify (p : Posted)
  /-- RCOPY (R94) -/
  | rcopy (p : Posted)
  /-- RZERO (R94) -/
  | rzero (p : Posted)
  /-- RNOT (R94) -/
  | rnot (p : Posted)
  /-- RAND (R94) -/
  | rand (p : Posted)
  /-- ROR (R94) -/
  | ror (p : Posted)
  /-- RXOR (R94) -/
  | rxor (p : Posted)
  /-- RMAJ (R94) -/
  | rmaj (p : Posted)
  /-- RSCORE (R200) -/
  | rscore (p : Posted)
  /-- RSELECT (R202) -/
  | rselect (p : Posted)
  /-- IN_BANK_STEP_END (R194) -/
  | inBankStepEnd (t : Ticket) (x : StepCheck)
  /-- REFRESH_DUE (R195) -/
  | refreshDue (st : StackId)
  /-- STACK_HOT_CHANGE (R195) -/
  | stackHotChange (st : StackId) (celsius : Int)
  /-- HMV (R206) -/
  | hmv (p : Posted)
  /-- HQK (R207) -/
  | hqk (p : Posted)
  /-- HPV (R207) -/
  | hpv (p : Posted)
  /-- HSOFT_FOLD (R209) -/
  | hsoftFold (p : Posted)
  /-- HSOFT_FINISH (R209) -/
  | hsoftFinish (p : Posted)
  /-- HSOFT_MERGE (R209) -/
  | hsoftMerge (p : Posted)
  /-- HNORM (R209) -/
  | hnorm (p : Posted)
  /-- HACT (R209) -/
  | hact (p : Posted)
  /-- HROPE (R209) -/
  | hrope (p : Posted)
  /-- HADD (R209) -/
  | hadd (p : Posted)
  /-- HSWAP (R212) -/
  | hswap (p : Posted)
  /-- TJOB (R228) -/
  | tjob (p : Posted)
  /-- TGATHER (R235) -/
  | tgather (p : Posted)
  /-- TSWAP (R238) -/
  | tswap (p : Posted)
  /-- FCOPY (R254) -/
  | fcopy (p : Posted)
  /-- FRED (R256) -/
  | fred (p : Posted)
  /-- FMCAST (R258) -/
  | fmcast (p : Posted)
  /-- FATOM (R246) -/
  | fatom (p : Posted)
  /-- FINV (R252) -/
  | finv (p : Posted)
  /-- FHAND (R259) -/
  | fhand (p : Posted)
  /-- QPSEND (R276) -/
  | qpsend (p : Posted)
  /-- QPCTL_CREATE (R268) -/
  | qpctlCreate (p : Posted)
  /-- QPCTL_MODIFY (R268) -/
  | qpctlModify (p : Posted)
  /-- QPCTL_QUERY (R268) -/
  | qpctlQuery (p : Posted)
  /-- QPCTL_DESTROY (R281) -/
  | qpctlDestroy (p : Posted)
  /-- QPCTL_KEYSET (R275) -/
  | qpctlKeyset (p : Posted)
  /-- QPCTL_KEYFLIP (R275) -/
  | qpctlKeyflip (p : Posted)
  /-- QPCTL_RECV (R278) -/
  | qpctlRecv (p : Posted)
  /-- QPCTL_RESUME (R280) -/
  | qpctlResume (p : Posted)
  /-- CREAD (R318) -/
  | cread (p : Posted)
  /-- CWRITE (R315) -/
  | cwrite (p : Posted)
  /-- CDISC (R321) -/
  | cdisc (p : Posted)
  /-- CGC (R323) -/
  | cgc (p : Posted)
  /-- CSYNC (R314) -/
  | csync (p : Posted)
  /-- CCAL (R49) -/
  | ccal (p : Posted)
  /-- PWREAD (R364) -/
  | pwread (c : CtxId) (w : Ins64)
  /-- PWGATE (R84) -/
  | pwgate (c : CtxId) (w : Ins64)
  /-- PWHOLD (R84) -/
  | pwhold (c : CtxId) (w : Ins64)
  /-- PWBUDGET (R363) -/
  | pwbudget (c : CtxId) (w : Ins64)
  /-- PWENV (R363) -/
  | pwenv (c : CtxId) (w : Ins64)
  /-- PWVSET (R365) -/
  | pwvset (c : CtxId) (w : Ins64)
  /-- PTWR (R380) -/
  | ptwr (c : CtxId) (w : Ins64)
  /-- PTRD (R380) -/
  | ptrd (c : CtxId) (w : Ins64)
  /-- PARTSET (R104) -/
  | partset (c : CtxId) (w : Ins64)
  /-- SPAREIN (R103) -/
  | sparein (c : CtxId) (w : Ins64)
  /-- RETIRE (R103) -/
  | retire (c : CtxId) (w : Ins64)
  /-- PRESET (R356) -/
  | preset (c : CtxId) (w : Ins64)
  /-- PARTIAL_RESET_END (R359) -/
  | partialResetEnd (r : ResetScope)
  /-- IDFRD (R379) -/
  | idfrd (p : Posted)
  /-- IDFWR (R379) -/
  | idfwr (p : Posted)
  /-- RECORD_APPEND (R378) -/
  | recordAppend (x : FlashResult)
  /-- MANIFEST_LAUNCH (R71) -/
  | manifestLaunch (q : QIdx)
  /-- ENGINE_STEP_END (R40) -/
  | engineStepEnd (t : Ticket) (x : StepCheck)
  /-- OPERATION_COMPLETE (R69) -/
  | operationComplete (t : Ticket)
  /-- SPARE_DECISION_TIMEOUT (R335) -/
  | spareDecisionTimeout (u : UnitId)
  /-- BELL_EDGE (R41) -/
  | bellEdge
  /-- SHAPER_RELEASE (R283) -/
  | shaperRelease (i : Fin 64)
  /-- ARM_FIRE (R396) -/
  | armFire (ld : LdId) (j : Fin 60)
  /-- BELL_START (R42) -/
  | bellStart (a : Agent) (v : W32)
  /-- BELL_COUNT_HALF_READ (R386) -/
  | bellCountHalfRead (a : Agent) (high : Bool)
  /-- FMC_START (R48) -/
  | fmcStart (a : Agent) (v : W32)
  /-- FMC_DONE (R48) -/
  | fmcDone (edges : Nat)
  /-- FMC_TIMEOUT (R48) -/
  | fmcTimeout
  /-- PACE_READING (R39) -/
  | paceReading (i : Fin 83) (reading : BitVec 11)
  /-- PACE_RESUME (R39) -/
  | paceResume (i : Fin 83)
  /-- REFCLK_LOSS (R46) -/
  | refclkLoss
  /-- REFCLK_RETURN (R47) -/
  | refclkReturn (gapUs : Nat)
  /-- MAP_INSTALL (R261) -/
  | mapInstall (a : Agent) (v : Word)
  /-- LCACHE_WRITE (R251) -/
  | lcacheWrite (a : Agent) (v : Word)
  /-- ROWMAP_WRITE (R190) -/
  | rowmapWrite (a : Agent) (st : StackId) (hi : Bool) (v : Word)
  /-- NODE_SET (R390) -/
  | nodeSet (a : Agent) (v : Word)
  /-- LEDGER_MODE_WRITE (R130) -/
  | ledgerModeWrite (a : Agent) (v : Word)
  /-- TLY_ADD (R396) -/
  | tlyAdd (a : Agent) (i : TallyIdx) (v : Word)
  /-- TLY_SET (R396) -/
  | tlySet (a : Agent) (i : TallyIdx) (v : Word)
  /-- TLY_ARM_WRITE (R396) -/
  | tlyArmWrite (a : Agent) (ld : LdId) (j : Fin 60) (hi : Bool) (v : Word)
  /-- HOST_RING_DOORBELL (R394) -/
  | hostRingDoorbell (a : Agent) (ld : LdId) (v : Word)
  /-- HOST_RING_RECORD (R394) -/
  | hostRingRecord (ld : LdId) (x : RingRead)
  /-- LD_ENABLE (R299) -/
  | ldEnable (a : Agent) (ld : LdId)
  /-- LD_DISABLE (R300) -/
  | ldDisable (a : Agent) (ld : LdId)
  /-- LD_DISABLE_COMPLETE (R300) -/
  | ldDisableComplete (ld : LdId)
  /-- KEY_LOAD (R383) -/
  | keyLoad (a : Agent) (slot : Byte)
  /-- KEY_CLEAR (R383) -/
  | keyClear (a : Agent) (slot : Byte)
  /-- KEY_OP_DONE (R383) -/
  | keyOpDone
  /-- MEASUREMENT_EXTEND (R371) -/
  | measurementExtend (a : Agent) (v : Word)
  /-- SEC_RNG_READ (R385) -/
  | secRngRead (a : Agent)
  /-- SHAPER_WRITE (R285) -/
  | shaperWrite (a : Agent) (i : Fin 64) (v : Word)
  /-- POLICER_WRITE (R285) -/
  | policerWrite (a : Agent) (i : Fin 64) (v : Word)
  /-- REGISTER_WRITE (R387) -/
  | registerWrite (a : Agent) (r : RegTarget) (width : AccessWidth) (v : Word)
  /-- LINK_FLIT_ERROR (R243) -/
  | linkFlitError (p : PortId)
  /-- CONTROL_FLIT (R243) -/
  | controlFlit (p : PortId) (f : CtlFlit)
  /-- PORT_TRAINED (R241) -/
  | portTrained (p : PortId) (t : PortTraining)
  /-- READ (R246) -/
  | read (k : Packet)
  /-- READ_RESP (R251) -/
  | readResp (k : Packet)
  /-- WRITE (R246) -/
  | write (k : Packet)
  /-- ACK (R254) -/
  | ack (k : Packet)
  /-- ATOMIC (R246) -/
  | atomic (k : Packet)
  /-- ATOMIC_RESP (R246) -/
  | atomicResp (k : Packet)
  /-- REDUCE (R257) -/
  | reduce (k : Packet)
  /-- INVAL (R252) -/
  | inval (k : Packet)
  /-- INDEX_LOOKUP (R164) -/
  | indexLookup (m : IndexMsg)
  /-- INDEX_CLAIM (R164) -/
  | indexClaim (m : IndexMsg) (ctimeNs : W32)
  /-- INDEX_INSERT (R165) -/
  | indexInsert (m : IndexMsg)
  /-- INDEX_REMOVAL (R166) -/
  | indexRemoval (m : IndexMsg)
  /-- INDEX_RESPONSE (R164) -/
  | indexResponse (tag : W32) (x : IndexReply)
  /-- HAND (R259) -/
  | hand (k : Packet)
  /-- HAND_RESPONSE (R18) -/
  | handResponse (k : Packet)
  /-- MEMBER_HELLO (R264) -/
  | memberHello (k : Packet)
  /-- MEMBER_BEAT (R264) -/
  | memberBeat (k : Packet)
  /-- MEMBER_PROPOSE (R264) -/
  | memberPropose (k : Packet)
  /-- MEMBER_ACCEPT (R264) -/
  | memberAccept (k : Packet)
  /-- MEMBER_COMMIT (R264) -/
  | memberCommit (k : Packet)
  /-- MEMBER_LEAVE (R264) -/
  | memberLeave (k : Packet)
  /-- MEMBER_OFFER (R374) -/
  | memberOffer (k : Packet)
  /-- MEMBER_PERIOD (R263) -/
  | memberPeriod
  /-- PROPOSAL_TIMEOUT (R264) -/
  | proposalTimeout
  /-- MEMBER_MINORITY (R264) -/
  | memberMinority
  /-- DEAD_TARGET (R253) -/
  | deadTarget (tag : W32)
  /-- REDUCE_RESEND (R256) -/
  | reduceResend (tag : W32)
  /-- EDITION_RESEND (R262) -/
  | editionResend (tag : W32)
  /-- LANDING_STORE_FLUSH (R251) -/
  | landingStoreFlush (block : BitVec 52)
  /-- QP_DATA (R279) -/
  | qpData (k : Packet)
  /-- QP_ACK (R277) -/
  | qpAck (k : Packet)
  /-- QP_RNR (R277) -/
  | qpRnr (k : Packet)
  /-- QP_NAK (R281) -/
  | qpNak (k : Packet)
  /-- QP_CANCEL (R284) -/
  | qpCancel (k : Packet)
  /-- QP_ACK_TIMER (R277) -/
  | qpAckTimer (n : Qpn)
  /-- QP_RETRANSMIT_TIMEOUT (R277) -/
  | qpRetransmitTimeout (n : Qpn) (psn : W32)
  /-- QP_CONTEXT_FETCHED (R270) -/
  | qpContextFetched (n : Qpn) (slot : List Byte)
  /-- QP_FETCH_SLOW (R271) -/
  | qpFetchSlow (n : Qpn)
  /-- QP_PAGE_WAIT_LIMIT (R280) -/
  | qpPageWaitLimit (n : Qpn)
  /-- HOST_LINK_TRAIN (R287) -/
  | hostLinkTrain (t : HostTraining)
  /-- HOST_LINK_DOWN (R301) -/
  | hostLinkDown
  /-- HOST_MEM_READ (R291) -/
  | hostMemRead (ld : LdId) (dpa : Word) (want : LineWish) (err : MemError)
  /-- HOST_MEM_WRITE (R291) -/
  | hostMemWrite (ld : LdId) (dpa : Word) (data : BitVec 512) (bytes : BitVec 64) (poison : Bool)
  /-- HOST_LINE_RELEASE (R295) -/
  | hostLineRelease (ld : LdId) (line : BitVec 40) (back : Option (BitVec 512))
  /-- BI_RESPONSE (R296) -/
  | biResponse (ld : LdId) (line : BitVec 40) (back : Option (BitVec 512))
  /-- BI_TIMEOUT (R297) -/
  | biTimeout (ld : LdId) (line : BitVec 40)
  /-- EXTENT_RELEASED (R294) -/
  | extentReleased (base : Word)
  /-- IDE_FAILURE (R302) -/
  | ideFailure
  /-- IDE_KM (R302) -/
  | ideKm (k : IdeKeys)
  /-- FUNCTION_LEVEL_RESET (R356) -/
  | functionLevelReset (ld : LdId)
  /-- SPDM_GET_VERSION (R370) -/
  | spdmGetVersion
  /-- SPDM_GET_CAPABILITIES (R370) -/
  | spdmGetCapabilities (v : Byte)
  /-- SPDM_NEGOTIATE_ALGORITHMS (R370) -/
  | spdmNegotiateAlgorithms (offer : SpdmOffer)
  /-- SPDM_GET_DIGESTS (R369) -/
  | spdmGetDigests
  /-- SPDM_GET_CERTIFICATE (R369) -/
  | spdmGetCertificate (slot : Byte) (off len : BitVec 16)
  /-- SPDM_CHALLENGE (R370) -/
  | spdmChallenge (slot : Byte) (nonce : BitVec 256)
  /-- SPDM_GET_MEASUREMENTS (R371) -/
  | spdmGetMeasurements (index : Byte) (signed : Bool) (nonce : BitVec 256)
  /-- SPDM_KEY_EXCHANGE (R370) -/
  | spdmKeyExchange (reqId : BitVec 16) (share : BitVec 768)
  /-- SPDM_FINISH (R370) -/
  | spdmFinish (sid : W32) (macOk : Bool)
  /-- SPDM_HEARTBEAT (R370) -/
  | spdmHeartbeat (sid : W32)
  /-- SPDM_KEY_UPDATE (R370) -/
  | spdmKeyUpdate (sid : W32) (op : Byte)
  /-- SPDM_END_SESSION (R370) -/
  | spdmEndSession (sid : W32)
  /-- DOE_DISCOVERY (R303) -/
  | doeDiscovery (inst : Fin 2) (index : Byte)
  /-- CDAT_TABLE_ACCESS (R303) -/
  | cdatTableAccess (handle : BitVec 16)
  /-- IDENTIFY (R304) -/
  | identify (m : MbxPort)
  /-- BACKGROUND_OPERATION_STATUS (R304) -/
  | backgroundOperationStatus (m : MbxPort)
  /-- GET_EVENT_RECORDS (R304) -/
  | getEventRecords (m : MbxPort)
  /-- CLEAR_EVENT_RECORDS (R304) -/
  | clearEventRecords (m : MbxPort) (x : ClearEvents)
  /-- GET_INTERRUPT_POLICY (R304) -/
  | getInterruptPolicy (m : MbxPort)
  /-- SET_INTERRUPT_POLICY (R304) -/
  | setInterruptPolicy (m : MbxPort) (v : W32)
  /-- GET_FW_INFO (R304) -/
  | getFwInfo (m : MbxPort)
  /-- TRANSFER_FW (R372) -/
  | transferFw (m : MbxPort) (x : FwTransfer)
  /-- ACTIVATE_FW (R373) -/
  | activateFw (m : MbxPort) (slot : Byte)
  /-- FIRMWARE_VERIFY (R373) -/
  | firmwareVerify (x : CertVerdict)
  /-- GET_TIMESTAMP (R304) -/
  | getTimestamp (m : MbxPort)
  /-- SET_TIMESTAMP (R304) -/
  | setTimestamp (m : MbxPort) (v : Word)
  /-- GET_SUPPORTED_LOGS (R304) -/
  | getSupportedLogs (m : MbxPort)
  /-- GET_LOG (R304) -/
  | getLog (m : MbxPort) (uuid : W128) (off len : W32)
  /-- IDENTIFY_MEMORY_DEVICE (R304) -/
  | identifyMemoryDevice (m : MbxPort)
  /-- GET_HEALTH_INFO (R304) -/
  | getHealthInfo (m : MbxPort)
  /-- GET_POISON_LIST (R298) -/
  | getPoisonList (m : MbxPort) (dpa len : Word)
  /-- INJECT_POISON (R298) -/
  | injectPoison (m : MbxPort) (dpa : Word)
  /-- CLEAR_POISON (R298) -/
  | clearPoison (m : MbxPort) (dpa : Word) (data : List (BitVec 512))
  /-- GET_DYNAMIC_CAPACITY_CONFIGURATION (R292) -/
  | getDynamicCapacityConfiguration (m : MbxPort)
  /-- GET_DYNAMIC_CAPACITY_EXTENT_LIST (R292) -/
  | getDynamicCapacityExtentList (m : MbxPort) (start count : W32)
  /-- ADD_DYNAMIC_CAPACITY_RESPONSE (R293) -/
  | addDynamicCapacityResponse (m : MbxPort) (xs : List DpaRange)
  /-- RELEASE_DYNAMIC_CAPACITY (R294) -/
  | releaseDynamicCapacity (m : MbxPort) (xs : List DpaRange)
  /-- FM_ADD_CAPACITY (R293) -/
  | fmAddCapacity (ld : LdId) (region : Fin 8) (x : DpaRange)
  /-- FM_RELEASE_CAPACITY (R293) -/
  | fmReleaseCapacity (ld : LdId) (x : DpaRange) (forced : Bool)
  /-- FM_MLD_COMMAND (R304) -/
  | fmMldCommand (x : MldCommand)
  /-- BACKGROUND_COMMAND_COMPLETE (R392) -/
  | backgroundCommandComplete (m : MbxPort)
  /-- READ_FLOOR_PLAN_TABLE (R304) -/
  | readFloorPlanTable (m : MbxPort)
  /-- READ_FAULT_RECORDS (R345) -/
  | readFaultRecords (m : MbxPort) (since : Word)
  /-- READ_TELEMETRY (R304) -/
  | readTelemetry (m : MbxPort) (items : List Byte)
  /-- SET_RECALL_BOUND (R304) -/
  | setRecallBound (m : MbxPort) (v : W32)
  /-- MAILBOX_UNSUPPORTED_OPCODE (R304) -/
  | mailboxUnsupportedOpcode (m : MbxPort) (opcode : Half)
  /-- SMBUS_WRITE (R393) -/
  | smbusWrite (off data : W32) (pecOk : Bool)
  /-- SMBUS_SET_OFFSET (R393) -/
  | smbusSetOffset (off : W32) (pecOk : Bool)
  /-- SMBUS_READ (R393) -/
  | smbusRead (pecOk : Bool)
  /-- AGE_SWEEP (R179) -/
  | ageSweep (p : Part)
  /-- KEEPER_EVICT (R180) -/
  | keeperEvict (p : Part)
  /-- RETURN_AGENT_LAYER (R183) -/
  | returnAgentLayer (p : Part) (xs : List PageArrival)
  /-- REPAIR_AGENT (R343) -/
  | repairAgent (p : Part) (x : PeerAnswer)
  /-- ROW_SOFT_REPAIR (R341) -/
  | rowSoftRepair (x : RepairSite)
  /-- PROTECTED_SCRUB (R213) -/
  | protectedScrub (st : StackId) (off : BitVec 36) (err : MemError)
  /-- OPEN_SCRUB (R214) -/
  | openScrub (p : Part) (group : BitVec 24) (layer : Byte)
  /-- SRAM_SCRUB (R331) -/
  | sramScrub (u : UnitId) (off : Nat) (err : MemError)
  /-- STACK_LOSS (R344) -/
  | stackLoss (st : StackId)
  /-- FLASH_PROGRAM_COMPLETE (R316) -/
  | flashProgramComplete (slot : BitVec 19)
  /-- FLASH_PROGRAM_FAIL (R317) -/
  | flashProgramFail (x : FlashFailure)
  /-- JOURNAL_WRITE (R314) -/
  | journalWrite
  /-- SNAPSHOT_PASS (R314) -/
  | snapshotPass
  /-- GC_BACKGROUND (R322) -/
  | gcBackground (target : Fin 128)
  /-- MAP_REBUILD (R329) -/
  | mapRebuild (x : RebuildInput)
  /-- PWRFAIL (R327) -/
  | pwrfail (ns flushUs : Nat)
  /-- PERST_ASSERT (R361) -/
  | perstAssert (flushUs : Nat)
  /-- PERST_DEASSERT (R352) -/
  | perstDeassert (x : BootInput)
  /-- HUB_POWER_WAVE (R353) -/
  | hubPowerWave (h : HubId) (drawW waveW : Nat) (failed : List UnitId)
  /-- TILE_WAVE (R353) -/
  | tileWave (w : Fin 18) (drawW waveW : Nat) (failed : List UnitId)
  /-- RAIL_FAULT (R401) -/
  | railFault (rail : Fin 16) (ns : Nat)
  /-- POWER_SAMPLE (R362) -/
  | powerSample (x : PowerReading)
  /-- POWER_LIMIT_RELEASE (R362) -/
  | powerLimitRelease
  /-- THERMAL_THROTTLE (R366) -/
  | thermalThrottle (d : Die) (celsius : Int)
  /-- THERMAL_TRIP (R366) -/
  | thermalTrip (d : Die) (celsius : Int)
  /-- THERMAL_CLEAR (R366) -/
  | thermalClear (d : Die) (celsius : Int)
  /-- THERM_COMPARATOR (R408) -/
  | thermComparator (d : Die) (celsius : Int)
  /-- CONTROL_FLIT_INTERVAL (R243) -/
  | controlFlitInterval (p : PortId)
  /-- THROTTLE_END (R366) -/
  | throttleEnd (d : Die) (celsius : Int)
  /-- PWRFAIL_DEASSERT (R404) -/
  | pwrfailDeassert
  /-- POWER_RETURN (R361) -/
  | powerReturn
  /-- FLASH_ERASE_COMPLETE (R322) -/
  | flashEraseComplete (target : Fin 128) (block : BitVec 20)
  /-- RNG_HEALTH_TEST (R385) -/
  | rngHealthTest (failing : Bool)
  deriving DecidableEq, Repr

end Sys2Proof
end

