-- ==== Sys2Proof/Machine/State.lean ====
section
/-! DEFINITION. The machine's state as plain data, its reset value, and the reasons a step can stop. -/
namespace Sys2Proof.Machine

/-- Faults: none. Every command of the model answers a next state; an exception, a refused operation or a fault
record of the device is state, not a stop of the model (safe: nothing is hidden behind a stop). -/
inductive Fault where
  deriving DecidableEq, Repr

/-- Refusals. `notModelled` names a row of the opcode table that has no meaning yet; only exec's arms raise it.
It is safe: the run stops. -/
inductive Refusal where
  | notModelled (mnemonic : String)
  deriving DecidableEq, Repr

/-- Byte-addressed storage in one canonical form: addresses strictly rising, no entry equal to 0, the value an
unlisted address reads as (R352 step 8 for DRAM; log entry 5 for SRAM). -/
abbrev Memory := List Host.Cell

/-- Where the device stands between reset and service (R352, R361, R401, R404). -/
inductive Phase where
  | inReset | waitImage | running | stopped
  deriving DecidableEq, Repr

/-- What a context in WAIT waits for (R62, R66, R88, R90); `redo` an instruction whose access of memory waits at a bank or for a
recall, to be done anew (R194, R296). -/
inductive Wait where
  | none
  | tally (t : Nat) (v : Word) (sd : BitVec 6)
  | bell (v : Word) (sd : BitVec 6)
  | either (t : Nat) (v bell : Word) (sd : BitVec 6)
  | post (cls op : Nat) (w : Ins128)
  | load (size : Nat) (addr : Word) (sd : BitVec 6)
  | store (size : Nat) (addr data : Word)
  | redo (i : Instr)
  deriving DecidableEq, Repr

/-- One hardware context (R50, R55, R56, R64); `last` marks the one of its core slot that issued last
among those of its priority (R51). -/
structure Ctx where
  s      : Table Word := []
  p      : Byte := 0
  q      : Table W32 := []
  t      : Table W32 := []
  pc     : Word := 0
  cs     : Word := 0
  fa     : Word := 0
  hbOp   : Word := 0
  hbSt   : Word := 0
  gateOp : Word := 0
  gateSt : Word := 0
  epcOp  : Word := 0
  ecsOp  : Word := 0
  epcSt  : Word := 0
  ecsSt  : Word := 0
  posts  : BitVec 25 := 0
  wait   : Wait := .none
  yieldFor : List Nat := []
  last   : Bool := false
  deriving DecidableEq, Repr

/-- A queue descriptor (R65). -/
structure QDesc where
  base  : BitVec 58 := 0
  tail  : BitVec 13 := 0
  head  : BitVec 13 := 0
  depth : BitVec 4 := 4
  prio  : BitVec 4 := 0
  kind  : Byte := 0
  share : Byte := 0
  part  : Part := 0
  ld    : LdId := 0
  deriving DecidableEq, Repr

/-- How far a posted operation has come (R63, R72, R77, R69). -/
inductive OpPhase where
  | queued | launched | committed | ended | recorded
  deriving DecidableEq, Repr

/-- A step held after a failed check (R333, R348): the units, the failures so far, whether the units are declared failed. -/
structure HeldStep where
  units : List UnitId
  fails : Nat
  declared : Bool
  deriving DecidableEq, Repr

/-- What an operation whose steps write one after the other has still to write (R40, R82, R232): `groups` of pieces, each its address, its bytes and
whether they are poison; `total` the groups at its commit, `status` and `steps` of its record, `counts` whether the bytes are added to tallies as they
are written. The model's own. -/
structure Due where
  groups : List (List (Nat × List Byte × Bool))
  total  : Nat
  status : Byte
  steps  : Nat
  counts : Bool
  deriving DecidableEq, Repr

/-- A posted operation, from its post to the freeing of its slot (R63, R67, R69, R70). `part` is its queue's partition,
`ctxPart` its poster's, under which its addresses are checked (R381); `links` are the die-to-die links that the addresses it
names lie behind (R20, R39); `settled` of a LABORT that its request had ended at its launch or has gone FREE since (R109), of a PPRESS that another of its page
was in flight at its launch (R156);
of an FMCAST that this device is a member whose range was checked (R258); `byLd` the logical device whose disable aborted it, `byReq` the
request whose LABORT did (R109, R110); `due` what its later steps write; `nodes` the holders that the launch of an FINV checked
(R54, R252); `uses` the pages that it translated to, stack, first granule and granules (R154). -/
structure Op where
  ticket : Ticket := 0
  queue  : Nat := 0
  slot   : BitVec 13 := 0
  ctx    : CtxId := 0
  level  : BitVec 2 := 0
  part   : Part := 0
  ctxPart : Part := 0
  ld     : LdId := 0
  share  : Byte := 0
  prio   : BitVec 4 := 0
  cls    : Nat := 0
  op     : Nat := 0
  engine : Byte := 0
  hdrOp  : Byte := 0
  hdrResv : Bool := false
  request : W32 := 0
  edition : W32 := 0
  ctally : Option Nat := none
  ord    : Bool := false
  body   : Body := 0
  extra  : W128 := 0
  whn    : BitVec 3 := 0
  bellAt : Word := 0
  tl     : Nat := 0
  tallyAt : Word := 0
  refused : Bool := false
  seenHead : Bool := false
  trig   : Option (BitVec 2) := none
  phase  : OpPhase := .queued
  steps  : Nat := 0
  cause  : BitVec 2 := 0
  replayed : Bool := false
  status : Byte := 0
  planOf : Option (Part × Nat) := none
  held   : Option HeldStep := none
  pages  : List (Nat × Nat) := []
  lines  : List Nat := []
  await  : Nat := 0
  progress : Nat := 0
  ran    : Nat := 0
  launchNo : Nat := 0
  buf    : List (Nat × List Byte) := []
  scratchB : Bool := false
  suspended : Bool := false
  prior  : BitVec 4 := 0
  links  : List Nat := []
  settled : Bool := false
  byLd   : Option LdId := none
  byReq  : Option W32 := none
  due    : Option Due := none
  nodes  : Option (List Node) := none
  uses   : List (Nat × Nat × Nat) := []
  deriving DecidableEq, Repr

/-- A host tally arm (R396). `due` is the model's own: it has fired and its message is still to be sent. -/
structure Arm where
  value : Word := 0
  armed : Bool := false
  fired : Bool := false
  tally : BitVec 12 := 0
  due   : Bool := false
  deriving DecidableEq, Repr

/-- CLK registers, pace and the state of the reference (R39 to R48): `away` while the coarse timer runs, from the declaration
of a loss to the return; `underWay` the operations whose step was under way at the loss, or when new steps of them were held, and has
not ended (R39, R46). -/
structure Clk where
  gapUs   : Half := 0
  lost    : Bool := false
  locked  : Bool := false
  refPresent : Bool := false
  run     : Bool := false
  div     : Half := 4
  bell    : Word := 0
  latch   : W32 := 0
  pace    : Table (BitVec 11) := []
  slow    : List Nat := []
  fmcRun  : Bool := false
  fmcMeas : BitVec 4 := 0
  fmcBase : BitVec 4 := 0
  fmcSel  : Byte := 0
  fmcK    : BitVec 5 := 0x10
  fmcDone : Bool := false
  fmcStatus : Byte := 0
  fmcCount : W32 := 0
  away    : Bool := false
  underWay : List Ticket := []
  deriving DecidableEq, Repr

/-- A floor-plan entry less its unit identifier (R339). -/
structure FptEntry where
  slot    : Half := 0xFFFF
  state   : BitVec 2 := 0
  origin  : BitVec 2 := 0
  cause   : Byte := 0
  corr    : Half := 0
  changed : BitVec 48 := 0
  deriving DecidableEq, Repr

/-- A partition descriptor (R104). -/
structure PartDesc where
  clusters : Half := 0
  hubs     : Byte := 0
  cores    : Half := 0
  walkers  : Half := 0
  ferries  : W32 := 0
  ledger   : Nat := 0
  tbase    : Nat := 0
  tcount   : Nat := 0
  qbase    : Nat := 0
  qcount   : Nat := 0
  qpbase   : Nat := 0
  qpcount  : Nat := 0
  stackSet : W32 := 0
  granules : Nat := 0
  slots    : Nat := 0
  sbase    : Nat := 0
  ssize    : Nat := 0
  deriving DecidableEq, Repr

/-- A role of a pool (chapter 1, "Pools and roles"). -/
inductive Role where
  | prompt | generation | cache
  deriving DecidableEq, Repr

/-- The role of one partition (R10 to R12): the one in force, none before a role program is loaded, the one that a change issued at
run time waits to take up, and those that a change has ended, whose requests are admitted no more (R11). -/
structure RoleSt where
  cur  : Option Role := none
  next : Option Role := none
  past : List Role := []
  deriving DecidableEq, Repr

/-- The floor plan, the partitions and the roles (R10 to R13, R22 to R32, R339, R341). `fpt` lists the entries that
differ from those of a part as R21 counts it (log entry 6). -/
structure Plan where
  change  : W32 := 0
  fpt     : Table FptEntry := []
  repairs : List Word := []
  spareRows : Table Nat := []
  deadSubs : List Nat := []
  part0   : PartDesc :=
    { clusters := 0xFFFF, hubs := 0xFF, cores := 0xFFFF, walkers := 0xFFFF, ferries := 0xFFFF_FFFF,
      ledger := 65536, tcount := 4096, qcount := 1024, qpcount := 16384, stackSet := 0xFFFF_FFFF,
      granules := 2 ^ 40, slots := 2 ^ 31, ssize := 52992 }
  part1   : PartDesc := {}
  role0   : RoleSt := {}
  role1   : RoleSt := {}
  code    : Byte := 0
  profile : Byte := 0
  serial  : Word := 0
  nominalMv : List Nat := []
  deriving DecidableEq, Repr

/-- An outside access that waits at a bank for the next in-bank step boundary (R194); a poison injected behind earlier accesses of its
line (R306); modified data that a holder wrote back, with no answer to send. -/
inductive BankWait where
  | hostRead (ld : LdId) (dpa : Word) (want : LineWish) (err : MemError)
  | packet (k : Packet)
  | hostWrite (ld : LdId) (dpa : Word) (data : BitVec 512) (bytes : BitVec 64) (poison : Bool)
  | inject (line : Nat)
  | lineBack (ld : LdId) (dpa : Word) (data : BitVec 512)
  deriving DecidableEq, Repr

/-- What an INDEX packet carries: the spec gives its content, not its bytes (R160 to R166). -/
inductive IndexBody where
  | lookup (m : IndexMsg)
  | claim (m : IndexMsg) (ctimeNs : W32)
  | insert (m : IndexMsg)
  | removal (m : IndexMsg)
  | answer (x : IndexAnswer)
  deriving DecidableEq, Repr

/-- A host ring's registers (R394). -/
structure Ring where
  base  : BitVec 52 := 0
  depth : BitVec 4 := 4
  irq   : Bool := false
  host  : Bool := false
  part  : Part := 0
  en    : Bool := false
  head  : Half := 0
  tail  : Half := 0
  ovf   : Bool := false
  rdfail : Bool := false
  deriving DecidableEq, Repr

/-- A work of the device that waits at a bank or for a recall, to be done anew (R194, R296): an engine's on an operation, its
completion record, a batch step's build or posting, a host ring's record with the ring's registers as it was taken, an agent's, a scrubber's, a clearing of poison, the flush
of a queue pair's receive ring, a walk of a request's groups, the room made for a fetched queue pair context, an index request at the
shard and an answer at the issuer, the end of a request to a dead target, a contribution to the device's own segment sent again, a
deadline's mark, the loss of a stack. -/
inductive Work where
  | run (t : Ticket)
  | record (t : Ticket)
  | build (p : Part)
  | plan (p : Part)
  | ring (ld : LdId) (x : RingRead) (r : Ring)
  | sweep (p : Part)
  | keeper (p : Part)
  | returns (p : Part) (xs : List PageArrival)
  | repair (p : Part) (x : PeerAnswer)
  | rowScrub (st : StackId) (off : BitVec 36) (err : MemError)
  | pageScrub (p : Part) (group : BitVec 24) (layer : Byte)
  | clear (m : MbxPort) (dpa : Word) (data : List (BitVec 512))
  | qpRing (q : Qpn)
  | walk (r : W32)
  | qpFetch (q : Qpn) (slot : List Byte)
  | index (m : IndexMsg) (b : IndexBody) (once : Bool)
  | indexEnd (tag : W32) (x : IndexReply)
  | dead (tag : W32)
  | reduce (tag : W32)
  | deadline (r : W32)
  | stackLoss (st : StackId)
  deriving DecidableEq, Repr

/-- Storage and the stacks (R185 to R195, R213, R214, R248, R388). `access` and
`window` are the model's own: while a work that may have to wait is tried, the ranges it read and wrote, none between commands; and
the in-bank manifest whose step boundary is serving, none between commands. -/
structure Store where
  cells   : Memory := []
  poison  : List Nat := []
  ready   : W32 := 0
  rowmap  : Table Word := []
  frozen  : W32 := 0
  scratch : Table (List Byte) := []
  hot     : W32 := 0
  refreshDue : W32 := 0
  waiting : List BankWait := []
  works   : List Work := []
  scrubHours : Half := 0x18
  oscrubMin : Table Half := []
  oscrubShare : Table Byte := []
  badWords : List Nat := []
  window  : Option Ticket := none
  selfRefresh : W32 := 0
  lost    : W32 := 0
  access  : Option (List (Bool × Nat × Nat)) := none
  deriving DecidableEq, Repr

/-- The adapter region of a tile slot after a TGATHER (R235): the held rows, the dealing, the directory (adapter, offset,
rank) and its total rank, each held row's adapter, the stored bytes of every B_a by adapter and slice, and which blocks of them
arrived poisoned (R225). -/
structure Gathered where
  rows   : Nat
  split  : Bool
  cmask  : Half
  smask  : Byte
  rank   : Nat
  dir    : List (Nat × Nat × Nat)
  rowAdapters : List Nat
  factors : List (Nat × Nat × List Byte)
  bad    : List (Nat × Nat × Nat) := []
  deriving DecidableEq, Repr

/-- The invocation state of one tile slot (R217, R238); `bad` the 64-byte lines of its image, configuration block then pinned part,
that were loaded poisoned. -/
structure TileSlot where
  cfg    : List Byte := []
  cache  : List (Word × List Byte) := []
  pin    : Nat := 0
  pinned : List Byte := []
  bad    : List Nat := []
  gather : Option Gathered := none
  deriving DecidableEq, Repr

/-- Tiles and hubs (R212, R238, PWGATE of chapter 5). -/
structure Units where
  tiles  : Table TileSlot := []
  hubConst : Table (List Byte) := []
  gated  : Half := 0xFFFF
  tileUp : BitVec 18 := 0
  deriving DecidableEq, Repr

/-- A ledger entry (R105). -/
structure LEntry where
  tag     : Word := 0
  steps   : Half := 0
  posted  : BitVec 48 := 0
  charge  : Word := 0
  root    : BitVec 52 := 0
  adapter : Half := 0xFFFF
  length  : BitVec 20 := 0
  nleft   : BitVec 20 := 0
  gval    : W32 := 0
  gate    : BitVec 12 := 0
  gateEn  : Bool := false
  late    : Bool := false
  part    : Part := 0
  sclass  : BitVec 6 := 0
  status  : Byte := 0
  deadline : BitVec 48 := 0
  ld      : LdId := 0
  model   : BitVec 12 := 0
  share   : Byte := 0
  prio    : BitVec 4 := 0
  state   : BitVec 4 := 0
  request : W32 := 0
  deriving DecidableEq, Repr

/-- One place of a batch step's list (R118): its index in the list area, its request, its tokens, its mark by LABORT. -/
structure ListItem where
  place   : Nat
  request : W32
  tokens  : Nat
  aborted : Option Byte := none
  deriving DecidableEq, Repr

/-- What an operation of a plan left with its batch step (R110, R119): its place in the plan, its status, the pages that failed
and the poisoned lines it met, and the logical device whose disable, or the request whose LABORT, aborted it. -/
structure PlanResult where
  place  : Nat
  status : Byte
  pages  : List (Nat × Nat) := []
  lines  : List Nat := []
  ofLd   : Option LdId := none
  ofReq  : Option W32 := none
  deriving DecidableEq, Repr

/-- A batch step under way (R117 to R119, R128, R129); `voided` where a partial reset voided the loaded class after its posting
began (R129). -/
structure Batch where
  ticket  : Ticket
  cls     : Option Nat := none
  items   : List ListItem := []
  next    : Nat := 0
  committed : Option Word := none
  blocked : Bool := false
  stopped : Option Byte := none
  retry   : Bool := false
  list    : Nat := 0
  plan    : Nat := 0
  pcount  : Nat := 0
  wcet    : Nat := 0
  swap    : Bool := false
  voided  : Bool := false
  results : List PlanResult := []
  deriving DecidableEq, Repr

/-- The request ledger (R105 to R132, R394). `spillAt` is the index of spilled identifiers: one more than the place of each
record in protected rows (R130, R131). -/
structure Ledger where
  entries : Table LEntry := []
  spilled : Table LEntry := []
  spillAt : Table Nat := []
  mode    : Bool := false
  classBase : Table (BitVec 53) := []
  spill   : BitVec 36 := 0
  rings   : Table Ring := []
  hostRecs : Table (List Byte) := []
  weight  : Table Half := []
  accum   : Table Word := []
  active  : List Nat := []
  loaded  : Table (Option Nat) := []
  round   : Table Nat := []
  batch   : Table (Option Batch) := []
  walks   : List (W32 × Bool) := []
  deriving DecidableEq, Repr

/-- One look-aside entry (R143). -/
structure LaEntry where
  req   : W32
  g     : Nat
  layer : Nat
  gt    : Nat
  pte   : W128
  touched : Bool := false
  deriving DecidableEq, Repr

/-- A region taken from a partition's pool (R177); `released` while it waits for the operations that translated to it (R154). -/
structure Region where
  part  : Part
  stack : Nat
  gran  : Nat
  len   : Nat
  slot  : Nat
  sub   : Nat
  heads : Nat
  vat   : Bool
  named : Bool
  released : Bool := false
  deriving DecidableEq, Repr

/-- A page that an enrolment brings back (R182): its group table and layer, the region taken for it, its return record. -/
structure RetPage where
  gt    : Nat
  layer : Nat
  stack : Nat
  gran  : Nat
  record : Nat
  deriving DecidableEq, Repr

/-- An enrolment with the return agent (R182, R183): its pages, its layers and the layer it is at. -/
structure Enrol where
  request : W32
  ticket  : Ticket
  ltally  : Nat
  layer   : Nat
  layers  : Nat
  pages   : List RetPage
  deriving DecidableEq, Repr

/-- A lookup or insertion whose shards have not all answered (R163 to R165): the geometry of its request's root as it began, and of
an insertion the group table and the digest of each position as they were sent. -/
structure IndexWork where
  ticket  : Ticket
  n       : Nat
  geom    : Nat := 0
  tables  : List (Nat × Nat) := []
  answers : Table IndexAnswer := []
  claims  : Table IndexAnswer := []
  claiming : Bool := false
  dead    : List Nat := []
  deriving DecidableEq, Repr

/-- Walkers, tiers and agents (R141 to R183, R343). `crossed` holds, while free granules are below WLK_WATER.low, bit 2, and what the
keeper has raised since it last found them fall below: bit 0 POOL_LOW, bit 1 CAVE_FULL. -/
structure Walk where
  la      : Table (List LaEntry) := []
  period  : Table W32 := []
  ageMin  : Table Byte := []
  kshare  : Table Byte := []
  high    : Table W32 := []
  low     : Table W32 := []
  poolBase : Table (BitVec 42) := []
  kcount  : Table (BitVec 14) := []
  shardBase : Table (BitVec 42) := []
  shardS  : Table (BitVec 5) := []
  regions : List Region := []
  enrolled : Table (List Enrol) := []
  repair  : Table (List (Nat × Nat)) := []
  crossed : Table (BitVec 3) := []
  keeping : Table Bool := []
  sweepAt : Table Word := []
  index   : List IndexWork := []
  deriving DecidableEq, Repr

/-- What a request sent to another node serves (R253). -/
inductive Owner where
  | ferryRead (t : Ticket) (dst : Nat) (fab : Option Word)
  | ferryWrite (t : Ticket) (bytes : Nat) (place : Nat)
  | atomic (t : Ticket) (result : Nat)
  | reduce (t : Ticket)
  | inval (t : Ticket)
  | hand (t : Ticket)
  | load (ld : LdId) (dpa : Word) (want : LineWish)
  | store (stores : List (LdId × Word))
  | index (t : Ticket) (k : Nat)
  | removal (again : Bool)
  | share (t : Ticket) (k : Nat)
  | boot (id off : Nat)
  deriving DecidableEq, Repr

/-- A packet on its way out: its index content, the number that picks its port modulo the up ports, whether the landing sends it, and how
many of its bytes the flits acknowledged have carried, which a replay does not send again (R243, R245, R251, R254). -/
structure OutPkt where
  pkt   : Packet
  index : Option IndexBody := none
  route : Nat := 0
  landing : Bool := false
  skip  : Nat := 0
  deriving DecidableEq, Repr

/-- A request not yet answered (R253, R255, R262): the bell count of its first transmission and the number of up ports
then (0 before it); whether it waits to be sent again (true: for its
edition, false: for a busy reduction), was sent again, whether its block is not to be kept, and whether the number of up ports has
changed since it was sent. -/
structure OutReq where
  pkt   : OutPkt
  sent  : Word
  owner : Owner
  ups   : Nat := 0
  resend : Option Bool := none
  again : Bool := false
  noKeep : Bool := false
  stale : Bool := false
  deriving DecidableEq, Repr

/-- A remembered request and its response (R247). -/
structure Remembered where
  src  : Node
  tag  : W32
  resp : OutPkt
  bell : Word
  deriving DecidableEq, Repr

/-- A landing store that waits to be coalesced (R251): its block, its bytes at their places in the block. -/
structure LStore where
  block : Nat
  ld    : LdId
  dpa   : Word
  at_   : Nat
  bytes : List (Option Byte)
  poison : Bool
  deriving DecidableEq, Repr

/-- A reduction segment under way (R256, R257): the ranks given, the contributions held, how many came, whether one differed. -/
structure Segment where
  off   : Nat
  form  : Nat
  n     : Nat
  ranks : List Nat
  held  : List (Nat × Packet)
  bad   : Bool
  came  : Nat := 0
  deriving DecidableEq, Repr

/-- A packet in a replay buffer (R243): the seq of its last flit, the bytes of its first flit that earlier packets take, the packet as it
was sent. -/
structure SentPkt where
  last  : BitVec 10
  taken : Nat
  out   : OutPkt
  deriving DecidableEq, Repr

/-- One Isandi port (R241 to R243): `txOpen` and `rxOpen` are the bytes taken of a last flit that later packets of its channel
may share; `given` the credits that the device advertised for its channels when the port trained. -/
structure Port where
  width : Nat := 0
  pam4  : Bool := false
  up    : Bool := false
  failed : Bool := false
  txSeq : BitVec 10 := 0
  unacked : List SentPkt := []
  replays : Nat := 0
  nakSeq  : BitVec 10 := 0
  retrains : List Word := []
  credits : List Nat := []
  txOpen  : Nat := 0
  txVc    : Nat := 0
  rxOpen  : Nat := 0
  rxVc    : Nat := 0
  rxSeq : BitVec 10 := 0
  rxUnacked : Nat := 0
  rxFreed : List Nat := []
  nakSent : Bool := false
  given : List Nat := []
  deriving DecidableEq, Repr

/-- The composition map (R260). -/
structure CompMap where
  edition : W32 := 0
  prev    : W32 := 0
  reach   : Table Half := []
  buckets : Table Half := []
  groups  : Table W32 := []
  deriving DecidableEq, Repr

/-- A proposal under way at this device (R264). -/
structure Proposal where
  members : W32
  accepts : W32
  periods : Nat
  deriving DecidableEq, Repr

/-- Membership (R263, R264). -/
structure Memb where
  live    : W32 := 0xFFFF_FFFF
  mode    : Bool := true
  period  : Half := 0x64
  view    : W32 := 0
  members : W32 := 0xFFFF_FFFF
  silent  : Table Nat := []
  hellos  : W32 := 0
  leaves  : W32 := 0
  accepted : Option (Nat × W32) := none
  proposal : Option Proposal := none
  waiting : Nat := 0
  deriving DecidableEq, Repr

/-- The Isandi fabric (R241 to R265, R390). -/
structure Fabric where
  ports   : Table Port := []
  map     : CompMap := {}
  mapBase : BitVec 58 := 0
  result  : Byte := 0
  deadUs  : Half := 0x07D0
  drop    : Word := 0
  lblocks : BitVec 13 := 0
  lcache  : List (Nat × List Byte) := []
  lstores : List LStore := []
  memb    : Memb := {}
  out     : List OutReq := []
  nextTag : W32 := 0
  rr      : Nat := 0
  wire    : List OutPkt := []
  ctlOut  : List (Nat × CtlFlit) := []
  remembered : List Remembered := []
  segments : List Segment := []
  deadSeen : Table Word := []
  heldPkts : List OutPkt := []
  nodeValid : Bool := false
  nodeSlot : BitVec 5 := 0
  node    : Node := 0
  deriving DecidableEq, Repr

/-- A queue-pair context (R267). -/
structure QpCtx where
  key    : Table (BitVec 256) := []
  salt   : Table W32 := []
  txc    : Table (BitVec 40) := []
  txpkts : BitVec 48 := 0
  rxpkts : BitVec 48 := 0
  authfail : W32 := 0
  rnrsent : BitVec 24 := 0
  rnrrecv : BitVec 24 := 0
  rwin   : BitVec 256 := 0
  rbase  : BitVec 58 := 0
  rhost  : Bool := false
  epsn   : W32 := 0
  rmsn   : BitVec 24 := 0
  rhead  : Half := 0
  rtail  : Half := 0
  rdepth : BitVec 4 := 0
  spsn   : W32 := 0
  una    : W32 := 0
  smsn   : BitVec 24 := 0
  oldout : Half := 0
  state  : BitVec 3 := 0
  rnode  : Node := 0
  rqpn   : Qpn := 0
  part   : Part := 0
  ld     : LdId := 0
  share  : Byte := 0
  tclass : BitVec 3 := 0
  shaper : BitVec 6 := 0
  shen   : Bool := false
  policer : BitVec 6 := 0
  pen    : Bool := false
  sphase : Bool := false
  kvalid : BitVec 2 := 0
  rto    : Half := 0
  rlimit : BitVec 3 := 0
  rnrlimit : BitVec 3 := 0
  rcnt   : BitVec 3 := 0
  rnrcnt : BitVec 3 := 0
  ecause : Byte := 0
  deriving DecidableEq, Repr

/-- A data packet sent and not acknowledged (R276, R277): its last txc, the number that picks its port, the key slots it was
sent under, and the hint in µs that delays its next transmission. -/
structure QpPkt where
  qpn  : Qpn
  psn  : W32
  msn  : BitVec 24
  moff : Nat
  mlm1 : Nat
  data : List Byte
  txc  : BitVec 40 := 0
  route : Nat := 0
  port : Option Nat := none
  used : BitVec 2 := 0
  hold : Byte := 0
  deriving DecidableEq, Repr

/-- A message in sending (R276): its number from its first packet on, its bytes, and how many of them have gone. -/
structure QpMsg where
  qpn    : Qpn
  ticket : Ticket
  msn    : Option (BitVec 24) := none
  data   : List Byte
  next   : Nat := 0
  deriving DecidableEq, Repr

/-- A message in receipt (R278, R279, R284): its receive entry as read, and what has come of it. -/
structure QpRx where
  qpn  : Qpn
  msn  : BitVec 24
  entry : BitVec 256 := 0
  mlm1 : Option Nat := none
  rcvd : Nat := 0
  done : Bool := false
  cancelled : Bool := false
  deriving DecidableEq, Repr

/-- Why a packet of a queue pair waits: for its context, for a page of a region, or behind one of its pair that does (R271, R272,
R280). -/
inductive ParkCause where
  | context | behind
  | page (region page : Nat) (since : Word)
  deriving DecidableEq, Repr

/-- What a worn key slot holds until a KEYFLIP (R274): a control packet, or a data packet to be sent again. -/
inductive QpHeld where
  | control (kind psn msn aux : Nat)
  | again (psn : W32)
  deriving DecidableEq, Repr

/-- The queue-pair engine (R266 to R285). A send that waits for a page holds its ticket, the page and the bell count
from which it waits; `sent` counts the packets of a pair since its CREATE (R276); `shapeOvhOn` and `polOvhOn`
are the overheads in force until the next bell edge (R285). -/
structure Qpe where
  ctxs    : Table QpCtx := []
  cached  : List Nat := []
  fetching : List (Nat × Word) := []
  corrupt : List Nat := []
  evicts  : Table Word := []
  parked  : List (Nat × ParkCause × Packet) := []
  refused : List Nat := []
  pkts    : List QpPkt := []
  msgs    : List QpMsg := []
  rx      : List QpRx := []
  needAck : Table Nat := []
  sendWait : List (Nat × Ticket × Nat × Nat × Word) := []
  sent    : Table Nat := []
  worn    : List (Nat × QpHeld) := []
  sealKey : BitVec 256 := 0
  shWait  : List (Nat × Nat × Option W32) := []
  authSeen : Table Word := []
  base    : BitVec 58 := 0
  host    : Bool := false
  wroom   : Word := 0x1010_1010_1010_1010
  rnrHint : Byte := 0x14
  odpLimit : Half := 0x64
  regBase : BitVec 52 := 0
  authfail : Word := 0
  prqBase : Table (BitVec 58) := []
  prqDepth : Table (BitVec 4) := []
  prqTail : Table Half := []
  prqHead : Table Half := []
  shapeRate : Table (BitVec 24) := []
  shapeBurst : Table (BitVec 24) := []
  shapeOvh : Table (BitVec 12) := []
  shapeOvhOn : Table (BitVec 12) := []
  shapeB  : Table Nat := []
  polRate : Table (BitVec 24) := []
  polBurst : Table (BitVec 24) := []
  polOvh  : Table (BitVec 12) := []
  polOvhOn : Table (BitVec 12) := []
  polB    : Table Nat := []
  pdrop   : Table Word := []
  regionCache : List (Nat × Nat × Word) := []
  deriving DecidableEq, Repr

/-- A logical device's control (R299). `again` is the model's own: a function-level reset enables it after its disable (R356). -/
structure LdCtl where
  tbase  : BitVec 12 := 0
  tcount : BitVec 13 := 0
  state  : BitVec 2 := 2
  again  : Bool := false
  deriving DecidableEq, Repr

/-- The state of an extent (R293). -/
inductive ExtState where
  | offered | allocated | revoking | released
  deriving DecidableEq, Repr

/-- A dynamic-capacity extent (R292, R293). -/
structure Extent where
  base  : Nat
  len   : Nat
  ld    : LdId
  state : ExtState
  deriving DecidableEq, Repr

/-- A dynamic-capacity region (R292). -/
structure DcRegion where
  base  : Nat
  len   : Nat
  block : Nat
  deriving DecidableEq, Repr

/-- A directory entry (R295), with its place in the table. -/
structure DirEntry where
  slot : Nat
  line : BitVec 40
  ld   : LdId
  excl : Bool
  deriving DecidableEq, Repr

/-- A recall under way (R296, R297) and the bell count at which it was sent. -/
structure Recall where
  line : BitVec 40
  ld   : LdId
  sent : Word
  deriving DecidableEq, Repr

/-- An event record (R291, R294, R304): log 0 to 15 is a logical device's, 16 the fabric manager's. -/
structure EventRec where
  log    : Nat
  handle : Half
  kind   : Byte
  status : Byte
  dpa    : Word
  deriving DecidableEq, Repr

/-- What the host port sends back (R291, R295, R296). -/
inductive HostOut where
  | data (ld : LdId) (dpa : Word) (v : BitVec 512) (poison : Bool) (granted : LineWish)
  | done (ld : LdId) (dpa : Word) (dropped : Bool)
  | snoop (ld : LdId) (line : BitVec 40)
  | msix (ld : LdId) (vector : Nat)
  | io (addr : Word) (b : List Byte)
  deriving DecidableEq, Repr

/-- CXL mailbox return codes the spec names (R304, R373, R374, R392). -/
inductive MbxCode where
  | success | backgroundStarted | unsupported | invalidInput | busy | invalidSecurityState | aborted | invalidPhysicalAddress
  deriving DecidableEq, Repr

/-- What a mailbox command returns (R304). -/
inductive MbxData where
  | none
  | numbers (xs : List Nat)
  | events (xs : List EventRec)
  | ranges (xs : List DpaRange)
  | wide (xs : List (BitVec 256))
  deriving DecidableEq, Repr

/-- The command a mailbox runs in the background (R392). -/
inductive BgCmd where
  | transferFw | activateFw | clearPoison
  deriving DecidableEq, Repr

/-- One mailbox (R304, R392). -/
structure Mbx where
  code  : MbxCode := .success
  reply : MbxData := .none
  bg    : Option BgCmd := none
  bgDone : Option MbxCode := none
  bgLast : Option (BgCmd × MbxCode) := none
  policy : W32 := 0
  bytes : Table W32 := []
  deriving DecidableEq, Repr

/-- A secured SPDM session (R370). -/
structure Session where
  sid  : W32
  open_ : Bool
  deriving DecidableEq, Repr

/-- What a DOE instance answers (R303, R369 to R371). Digests, certificates and signatures are numbers. -/
inductive DoeOut where
  | versions (xs : List Byte)
  | capabilities (flags : Nat)
  | algorithms (ok : Bool)
  | digest (d : BitVec 384)
  | certificate (portion remainder : Nat) (b : List Byte)
  | challenge (sig : BitVec 768)
  | measurements (blocks : List (Nat × BitVec 384)) (sig : Option (BitVec 768))
  | keyExchange (sid : W32)
  | finished (sid : W32)
  | heartbeat (sid : W32)
  | keyUpdated (sid : W32)
  | ended (sid : W32)
  | errUnspecified
  | errInvalid
  | errUnexpected
  | errSessionLimit
  | protocols (instance_ : Nat) (vendor : Half) (kind : Byte) (nextIndex : Byte)
  | cdat (entry : List Nat) (nextHandle : Half)
  deriving DecidableEq, Repr

/-- The CXL host interface (R286 to R306, R370, R391 to R393). -/
structure Cxd where
  width   : BitVec 4 := 0
  rate    : BitVec 2 := 0
  flit256 : Bool := false
  memok   : Bool := false
  up      : Bool := false
  viaSwitch : Bool := false
  dirBase : BitVec 58 := 0
  dirN    : BitVec 5 := 0
  biUs    : BitVec 20 := 0x3E8
  lds     : Table LdCtl := []
  extents : List Extent := []
  regions : List DcRegion := []
  dir     : List DirEntry := []
  recalls : List Recall := []
  accepted : List BankWait := []
  events  : List EventRec := []
  handle  : Half := 0
  stamp   : Word := 0
  stampBell : Word := 0
  ideKeys : Table (BitVec 256) := []
  ideStreams : List (Nat × IdeStream) := []
  ideInsecure : Bool := false
  ideSkid : Bool := false
  spdmVersion : Bool := false
  spdmAlgs : Bool := false
  sessions : List Session := []
  nextSid : W32 := 1
  doeOut  : List DoeOut := []
  mbx     : Table Mbx := []
  compRegs : Table W32 := []
  msixMasked : Table Word := []
  msixPending : Table Word := []
  msixTable : Table Word := []
  hostOut : List HostOut := []
  busRead : Word := 0
  smbOff  : W32 := 0
  smbOut  : W32 := 0
  deriving DecidableEq, Repr

/-- A flash channel's control (R309). -/
structure FlsCh where
  failed : Bool := false
  taps   : BitVec 7 := 0x40
  n      : BitVec 4 := 9
  iface  : BitVec 2 := 0
  tcode  : BitVec 3 := 0
  lcode  : BitVec 2 := 0
  pcode  : BitVec 2 := 0
  en     : Bool := false
  deriving DecidableEq, Repr

/-- A flash block record (R313), the pages given out in it, and whether collection opened it (R316, R322). -/
structure BlockRec where
  closed : BitVec 48 := 0
  erases : BitVec 24 := 0
  reads  : BitVec 24 := 0
  valid  : BitVec 12 := 0
  state  : BitVec 3 := 0
  used   : Nat := 0
  cold   : Bool := false
  deriving DecidableEq, Repr

/-- A granule on flash (R310). -/
structure FlashGran where
  lgran : BitVec 48
  seq   : BitVec 48
  kind  : BitVec 4
  data  : List Byte
  deriving DecidableEq, Repr

/-- A journal record (R314). -/
structure JRec where
  lgran : BitVec 48
  entry : Word
  seq   : Half := 0
  deriving DecidableEq, Repr

/-- A write-buffer slot in use (R315, R316): its logical granule and the flash place its program is directed to. -/
structure WSlot where
  slot  : Nat
  lgran : Nat
  place : Nat
  deriving DecidableEq, Repr

/-- The flash tier (R307 to R330). -/
structure Flash where
  ch      : Table FlsCh := []
  mapBase : BitVec 52 := 0
  mapCount : BitVec 48 := 0
  mapSplit : BitVec 48 := 0
  wi : Byte := 0x10
  wa : Byte := 0x01
  ww : Byte := 0x04
  gshare : BitVec 6 := 4
  ashift : BitVec 6 := 0x1A
  gcHigh : BitVec 12 := 0x40
  gcLow  : BitVec 12 := 0x20
  stage   : BitVec 42 := 0
  wmax    : BitVec 13 := 0x80
  pfClean : Bool := false
  pfTflush : Half := 0
  pfReady : Bool := false
  blocks  : Table BlockRec := []
  grans   : Table FlashGran := []
  journal : List JRec := []
  jover   : Bool := false
  jseq    : Nat := 0
  jwritten : List Nat := []
  snap    : List Nat := []
  collecting : List Nat := []
  wbuf    : List WSlot := []
  runs    : List (Nat × Nat) := []
  turn    : Table Nat := []
  wseq    : BitVec 48 := 0
  reloc   : List Nat := []
  erasing : List Nat := []
  noWrite : List Nat := []
  started : List Nat := []
  brought : List Nat := []
  flushing : Bool := false
  delayLine : Bool := false
  deriving DecidableEq, Repr

/-- A key slot of the security engine (R383). -/
structure KeySlot where
  usage : Byte := 0
  part  : Byte := 0
  mat   : BitVec 512 := 0
  deriving DecidableEq, Repr

/-- A record of the identity flash (R376, R377). -/
structure IdRec where
  kind   : Half
  auth   : Byte
  seq    : Word
  serial : Word
  body   : List Byte
  tag    : List Byte
  deriving DecidableEq, Repr

/-- A protection entry, raw (R380). -/
abbrev ProtEntry := W128

/-- An image that a member offers and the boot ROM reads (R374). -/
structure Offer where
  id  : Nat
  len : Nat
  buf : List Byte
  deriving DecidableEq, Repr

/-- What the boot ROM holds in the boot SRAM until steward code starts: the PUF reading, the seed, the DIK scalar (R367, R368). -/
structure BootSecrets where
  reading : List Byte
  seed    : BitVec 256
  dik     : Nat
  deriving DecidableEq, Repr

/-- Security (R367 to R385). The alias scalar and the record key stay in the security engine (R368). -/
structure Sec where
  fwsrc    : BitVec 2 := 0
  nopuf    : Bool := false
  boot     : Option BootSecrets := none
  aliasKey : Nat := 0
  recKey   : List Byte := []
  aliasCert : List Byte := []
  rngfail  : Bool := false
  bootfail : Bool := false
  verified : Bool := false
  keysrc   : BitVec 58 := 0
  keyBusy  : Option (Nat × Bool) := none
  keyResult : Byte := 0
  keySlot  : Byte := 0
  svnMin   : W32 := 0
  svn      : W32 := 0
  meas     : Table (BitVec 384) := []
  slots    : Table KeySlot := []
  prot     : Table ProtEntry := []
  factory  : List IdRec := []
  halfA    : List IdRec := []
  halfB    : List IdRec := []
  activeB  : Bool := false
  toAppend : List (IdRec × Option Ticket) := []
  image    : List Byte := []
  imageSrc : BitVec 2 := 0
  hostFw   : List Byte := []
  hostFwDone : Bool := false
  offers   : List Offer := []
  arrived  : List (List Byte) := []
  deriving DecidableEq, Repr

/-- A fault record (R345). -/
structure FaultRec where
  seq  : Word
  bell : BitVec 48
  kind : Byte
  sev  : BitVec 3
  part : BitVec 2
  unit : UnitId
  a    : W32
  b    : Word
  deriving DecidableEq, Repr

/-- Reliability (R331 to R346). `coreHeld` lists the cores whose instruction is replayed after a first failure (R333). -/
structure Ras where
  seq     : Word := 0
  history : List FaultRec := []
  hold    : Half := 0x3E8
  retry   : Bool := true
  auto    : Bool := true
  window  : Half := 0x3E8
  thresh  : Byte := 4
  repairEn : Table Bool := []
  repairShare : Table Byte := []
  failed  : List (UnitId × Word) := []
  coreHeld : List UnitId := []
  lastFail : Table Byte := []
  ceRows  : Table (List Word) := []
  rowDue  : Table Byte := []
  ceSeen  : Table (Word × Nat) := []
  tileBad : List (UnitId × Nat) := []
  deriving DecidableEq, Repr

/-- Power, thermal and partial resets (R356 to R366, R408). -/
structure Pwr where
  env     : BitVec 11 := 0
  grant   : Table (BitVec 11) := []
  budget  : Table (BitVec 11) := []
  trip    : Bool := false
  tthrot  : Bool := false
  pthrot  : Bool := false
  limit   : Bool := false
  tthr    : Byte := 0x64
  target  : Table Half := []
  volt    : Table Half := []
  floor   : Table Half := []
  limiter : Nat := 0
  partHeld : Table Nat := []
  partBelow : Table Nat := []
  pwhold  : Table Word := []
  below   : Nat := 0
  throttled : List Die := []
  tripped : List Die := []
  comparator : Bool := false
  last    : PowerReading := { packageMw := 0, packageMw1ms := 0, partMw0 := 0, partMw1 := 0 }
  energy  : Nat := 0
  resets  : List ResetScope := []
  perst   : Bool := true
  pwrfail : Bool := false
  waves   : Byte := 0
  deriving DecidableEq, Repr

/-- The whole block: the queue of waiting commands, the model's own counter of free values and the core slot that issued last by
itself, and the device. -/
structure State where
  pending : List Instr := []
  free    : Nat := 0
  turn    : Nat := 0
  phase   : Phase := .inReset
  ctxs    : Table Ctx := []
  queues  : Table QDesc := []
  ops     : List Op := []
  tallies : Table Word := []
  arms    : Table Arm := []
  clk     : Clk := {}
  plan    : Plan := {}
  mem     : Store := {}
  units   : Units := {}
  ldg     : Ledger := {}
  wlk     : Walk := {}
  isf     : Fabric := {}
  qpe     : Qpe := {}
  cxd     : Cxd := {}
  fls     : Flash := {}
  sec     : Sec := {}
  ras     : Ras := {}
  pwr     : Pwr := {}
  deriving DecidableEq, Repr

/-- The machine while PERST_N is asserted, right after whole-device reset (R361): every field at the reset value of
its register table, tables at their default rows, and the values the spec does not give as the log names them. -/
def State.reset : State := {}

end Sys2Proof.Machine
end

