-- ==== Sys2Proof/Machine/Basics.lean ====
section
/-! DEFINITION. Bit fields, byte order, sparse tables and list helpers. -/
namespace Sys2Proof.Machine

/-- The device has come up far enough to drive its links: it waits for an image or runs (R352, R374). -/
def linkOn (s : State) : Bool := s.phase = .running || s.phase = .waitImage

/-- Bits lo + w − 1 : lo of a number. -/
def bf (x lo w : Nat) : Nat := (x >>> lo) % 2 ^ w

/-- Bit i of a number. -/
def bit (x i : Nat) : Bool := x.testBit i

def boolNat (b : Bool) : Nat := if b then 1 else 0

/-- ⌈a ÷ b⌉. -/
def ceilDiv (a b : Nat) : Nat := (a + b - 1) / b

/-- The n low bytes of a number, byte 0 first (R5). -/
def leBytes : Nat → Nat → List Byte
  | 0, _ => []
  | n + 1, v => BitVec.ofNat 8 v :: leBytes n (v / 256)

/-- The number whose little-endian bytes are given (R5). -/
def ofLe : List Byte → Nat
  | [] => 0
  | b :: r => b.toNat + 256 * ofLe r

/-- The number whose big-endian bytes are given. -/
def ofBe (bs : List Byte) : Nat := ofLe bs.reverse

/-- The n bytes of a number, most significant first. -/
def beBytes (n v : Nat) : List Byte := (leBytes n v).reverse

/-- The value of a key in a table whose missing keys stand for d. -/
def tget {α : Type} (d : α) : Table α → Nat → α
  | [], _ => d
  | (k', v) :: r, k => if k = k' then v else tget d r k

/-- The table without a key. -/
def tdel {α : Type} : Table α → Nat → Table α
  | [], _ => []
  | (k', v) :: r, k => if k = k' then tdel r k else (k', v) :: tdel r k

/-- The table with a pair put at its place among rising keys. -/
def tins {α : Type} (k : Nat) (v : α) : Table α → Table α
  | [] => [(k, v)]
  | (k', v') :: r => if k < k' then (k, v) :: (k', v') :: r else (k', v') :: tins k v r

/-- The table with the value of one key changed; a key whose value is d is not listed. -/
def tset {α : Type} [DecidableEq α] (d : α) (t : Table α) (k : Nat) (v : α) : Table α :=
  if v = d then tdel t k else tins k v (tdel t k)

/-- Keys strictly rising and above a bound, no value equal to d. -/
def twfFrom {α : Type} [DecidableEq α] (d : α) : Option Nat → Table α → Bool
  | _, [] => true
  | b, (k, v) :: r => (match b with | none => true | some b => decide (b < k)) && decide (v ≠ d) && twfFrom d (some k) r

/-- The canonical form of a table. -/
def twf {α : Type} [DecidableEq α] (d : α) (t : Table α) : Bool := twfFrom d none t

/-- The canonical form of memory. -/
def Memory.wf (m : Memory) : Bool := twf (0 : Byte) m

/-- One byte of memory. -/
def Memory.get (m : Memory) (a : Nat) : Byte := tget 0 m a

/-- One byte of memory changed. -/
def Memory.put (m : Memory) (a : Nat) (b : Byte) : Memory := tset 0 m a b

/-- n bytes from an address upward. -/
def Memory.bytes (m : Memory) (a : Nat) : Nat → List Byte
  | 0 => []
  | n + 1 => m.get a :: Memory.bytes m (a + 1) n

/-- Bytes written from an address upward. -/
def Memory.write (m : Memory) (a : Nat) : List Byte → Memory
  | [] => m
  | b :: r => Memory.write (m.put a b) (a + 1) r

/-- A little-endian number of n bytes read. -/
def Memory.num (m : Memory) (a n : Nat) : Nat := ofLe (m.bytes a n)

/-- The first element that satisfies p replaced by its image. -/
def updFirst {α : Type} (p : α → Bool) (f : α → α) : List α → List α
  | [] => []
  | x :: r => if p x then f x :: r else x :: updFirst p f r

/-- Saturating addition below 2^w (R73 and the saturating counters). -/
def satAdd (w a b : Nat) : Nat := min (a + b) (2 ^ w - 1)

/-- Insert into a strictly rising list of numbers. -/
def insNat (n : Nat) : List Nat → List Nat
  | [] => [n]
  | m :: r => if n < m then n :: m :: r else if n = m then m :: r else m :: insNat n r

/-- Serial comparison modulo 2^w: e is newer than c (R261, R267). -/
def newer (w e c : Nat) : Bool :=
  let d := (e + 2 ^ w - c) % 2 ^ w
  decide (1 ≤ d) && decide (d ≤ 2 ^ (w - 1) - 1)

/-- Every element below n satisfies p. -/
def allBelow (n : Nat) (p : Nat → Bool) : Bool := (List.range n).all p

/-- The numbers below n that satisfy p, rising. -/
def below (n : Nat) (p : Nat → Bool) : List Nat := (List.range n).filter p

/-- A list cut into n pieces of k elements. -/
def cutEvery {α : Type} (k : Nat) : Nat → List α → List (List α)
  | 0, _ => []
  | n + 1, xs => xs.take k :: cutEvery k n (xs.drop k)

/-- The elements of a list with their places. -/
def indexed {α : Type} (xs : List α) : List (Nat × α) := (List.range xs.length).zip xs

end Sys2Proof.Machine
end

