-- ==== Sys2Proof/Machine/Crypto.lean ====
section
/-! DEFINITION. The published algorithms that the spec names: SHA-384 and HMAC-SHA-384 (R157, R371, R376), AES-256,
AES-256-XTS (R224) and AES-256-GCM (R270, R273). Constants are computed from their published definitions. -/
namespace Sys2Proof.Machine

/-! ## SHA-384 -/

/-- Primes below 410: the 80 of the round constants. -/
def primes80 : List Nat :=
  below 410 fun n => decide (2 ≤ n) && (List.range n).all fun d => decide (d < 2) || n % d ≠ 0

/-- The largest r below 2^(n+1) with r^k ≤ x, searched from bit n down. -/
def rootFrom (k x : Nat) : Nat → Nat → Nat
  | 0, r => if (r + 1) ^ k ≤ x then r + 1 else r
  | n + 1, r => let q := r + 2 ^ (n + 1); rootFrom k x n (if q ^ k ≤ x then q else r)

/-- The first 64 bits of the fractional part of a k-th root. -/
def fracRoot (k p : Nat) : Nat := rootFrom k (p * 2 ^ (64 * k)) 72 0 % 2 ^ 64

/-- Round constants of SHA-512: cube roots of the first 80 primes. -/
def shaK : List Nat := primes80.map (fracRoot 3)

/-- Initial value of SHA-384: square roots of the 9th to 16th primes. -/
def sha384Iv : List Nat := ((primes80.drop 8).take 8).map (fracRoot 2)

def rotr64 (x n : Nat) : Nat := x >>> n ||| x * 2 ^ (64 - n) % 2 ^ 64

/-- The message schedule, extended by one word at a time; the last sixteen words newest first. -/
def shaExtend : Nat → List Nat → List Nat
  | 0, w => w
  | n + 1, w =>
    let g (i : Nat) : Nat := w.getD i 0
    let s1 := rotr64 (g 1) 19 ^^^ rotr64 (g 1) 61 ^^^ g 1 >>> 6
    let s0 := rotr64 (g 14) 1 ^^^ rotr64 (g 14) 8 ^^^ g 14 >>> 7
    shaExtend n ((s1 + g 6 + s0 + g 15) % 2 ^ 64 :: w)

/-- One round of SHA-512 on the eight working words. -/
def shaRound (v : List Nat) (kw : Nat) : List Nat :=
  match v with
  | [a, b, c, d, e, f, g, h] =>
    let t1 := h + (rotr64 e 14 ^^^ rotr64 e 18 ^^^ rotr64 e 41) + (e &&& f ^^^ (2 ^ 64 - 1 - e) &&& g) + kw
    let t2 := (rotr64 a 28 ^^^ rotr64 a 34 ^^^ rotr64 a 39) + (a &&& b ^^^ a &&& c ^^^ b &&& c)
    [(t1 + t2) % 2 ^ 64, a, b, c, (d + t1) % 2 ^ 64, e, f, g]
  | v => v

/-- The compression of one 128-byte block. -/
def shaBlock (h : List Nat) (blk : List Byte) : List Nat :=
  let w := (List.range 16).map fun i => ofBe ((blk.drop (8 * i)).take 8)
  let ws := (shaExtend 64 w.reverse).reverse
  let v := (List.zipWith (fun a b => a + b) shaK ws).foldl shaRound h
  List.zipWith (fun a b => (a + b) % 2 ^ 64) h v

/-- A list cut into n blocks of k elements. -/
def chunks {α : Type} (k n : Nat) (xs : List α) : List (List α) := (List.range n).map fun i => (xs.drop (k * i)).take k

/-- SHA-384 of a byte string, as 48 bytes. -/
def sha384 (m : List Byte) : List Byte :=
  let n := m.length
  let pad := 128 - (n + 17) % 128
  let msg := m ++ [0x80] ++ List.replicate (pad % 128) 0 ++ beBytes 16 (8 * n)
  let h := (chunks 128 (msg.length / 128) msg).foldl shaBlock sha384Iv
  (h.take 6).flatMap fun w => beBytes 8 w

/-- HMAC-SHA-384. -/
def hmac384 (key m : List Byte) : List Byte :=
  let k := if key.length > 128 then sha384 key else key
  let k := k ++ List.replicate (128 - k.length) 0
  sha384 ((k.map fun b => b ^^^ 0x5C) ++ sha384 ((k.map fun b => b ^^^ 0x36) ++ m))

/-! ## AES-256 -/

/-- Multiplication by x in GF(2^8). -/
def xtime (b : Nat) : Nat := let y := b * 2; if y ≥ 256 then y ^^^ 0x11B else y

/-- Multiplication in GF(2^8). -/
def gmul (a b : Nat) : Nat :=
  let ps := (List.range 7).foldl (fun l _ => l ++ [xtime (l.getLastD 0)]) [a]
  (indexed ps).foldl (fun acc (i, p) => if b.testBit i then acc ^^^ p else acc) 0

/-- The inverse in GF(2^8) as the 254th power, 0 for 0. -/
def ginv (a : Nat) : Nat :=
  let sq (x : Nat) : Nat := gmul x x
  let a2 := sq a; let a4 := sq a2; let a8 := sq a4; let a16 := sq a8; let a32 := sq a16; let a64 := sq a32
  gmul a2 (gmul a4 (gmul a8 (gmul a16 (gmul a32 (gmul a64 (sq a64))))))

def rotl8 (b n : Nat) : Nat := (b * 2 ^ n ||| b >>> (8 - n)) % 256

/-- The AES substitution. -/
def sbox (a : Nat) : Nat := let b := ginv a; b ^^^ rotl8 b 1 ^^^ rotl8 b 2 ^^^ rotl8 b 3 ^^^ rotl8 b 4 ^^^ 0x63

/-- The inverse affine step then the inverse: the inverse substitution. -/
def sboxInv (s : Nat) : Nat := ginv (rotl8 s 1 ^^^ rotl8 s 3 ^^^ rotl8 s 6 ^^^ 0x05)

/-- The expanded key: 60 words of four bytes, as one list of bytes. -/
def aesExpand : Nat → Nat → Nat → List (List Nat) → List (List Nat)
  | 0, _, _, w => w
  | n + 1, i, rc, w =>
    let t := w.getLastD []
    let (t, rc) :=
      if i % 8 = 0 then
        (match t with | [a, b, c, d] => [sbox b ^^^ rc, sbox c, sbox d, sbox a] | t => t, xtime rc)
      else if i % 8 = 4 then (t.map sbox, rc) else (t, rc)
    aesExpand n (i + 1) rc (w ++ [List.zipWith (fun x y => x ^^^ y) (w.getD (i - 8) []) t])

/-- The fifteen round keys of a 32-byte key. -/
def aesKeys (key : List Nat) : List (List Nat) :=
  let ws := aesExpand 52 8 1 (chunks 4 8 key)
  (chunks 4 15 ws).map fun l => l.flatten

def xorL (a b : List Nat) : List Nat := List.zipWith (fun x y => x ^^^ y) a b

/-- The rows of a state shifted: byte at row r, column c comes from column c + k × r. -/
def shiftRows (k : Nat) (s : List Nat) : List Nat :=
  (List.range 16).map fun i => s.getD ((i / 4 + k * (i % 4)) % 4 * 4 + i % 4) 0

/-- A column multiplied by the circulant of four coefficients. -/
def mixCol (m : List Nat) (col : List Nat) : List Nat :=
  (List.range 4).map fun r => (List.range 4).foldl (fun a c => a ^^^ gmul (m.getD ((c + 4 - r) % 4) 0) (col.getD c 0)) 0

def mixCols (m : List Nat) (s : List Nat) : List Nat := (chunks 4 4 s).flatMap (mixCol m)

/-- AES-256 encryption of a 16-byte block. -/
def aesEnc (key blk : List Nat) : List Nat :=
  match aesKeys key with
  | [] => blk
  | k0 :: ks =>
    let mid := (ks.take 13).foldl (fun s k => xorL (mixCols [2, 3, 1, 1] (shiftRows 1 (s.map sbox))) k) (xorL blk k0)
    xorL (shiftRows 1 (mid.map sbox)) (ks.getD 13 [])

/-- AES-256 decryption of a 16-byte block. -/
def aesDec (key blk : List Nat) : List Nat :=
  match (aesKeys key).reverse with
  | [] => blk
  | k0 :: ks =>
    let mid := (ks.take 13).foldl
      (fun s k => mixCols [14, 11, 13, 9] (xorL ((shiftRows 3 s).map sboxInv) k)) (xorL blk k0)
    xorL ((shiftRows 3 mid).map sboxInv) (ks.getD 13 [])

def toNats (bs : List Byte) : List Nat := bs.map fun b => b.toNat
def toBytes (ns : List Nat) : List Byte := ns.map fun n => BitVec.ofNat 8 n

/-- The little-endian number of bytes given as naturals. -/
def leNum (ns : List Nat) : Nat := ns.foldr (fun x a => x + 256 * a) 0

/-- The XTS tweak multiplied by x. -/
def xtsNext (t : Nat) : Nat := let y := t * 2; if y ≥ 2 ^ 128 then (y - 2 ^ 128) ^^^ 0x87 else y

/-- XTS over 16-byte blocks from a tweak. -/
def xtsBlocks (f : List Nat → List Nat) : Nat → List (List Nat) → List Nat
  | _, [] => []
  | t, b :: r =>
    let tb := toNats (leBytes 16 t)
    xorL (f (xorL b tb)) tb ++ xtsBlocks f (xtsNext t) r

/-- AES-256-XTS decryption of a data unit of whole blocks; key1 then key2 of 32 bytes, tweak as a number (R224). -/
def xtsDecrypt (key : List Byte) (tweak : Nat) (data : List Byte) : List Byte :=
  let k1 := toNats (key.take 32)
  let k2 := toNats (key.drop 32)
  let t := leNum (aesEnc k2 (toNats (leBytes 16 (tweak % 2 ^ 128))))
  toBytes (xtsBlocks (aesDec k1) t (chunks 16 (data.length / 16) (toNats data)))

/-! ## AES-256-GCM -/

/-- The big-endian number of bytes. -/
def beNum (ns : List Nat) : Nat := ns.foldl (fun a x => a * 256 + x) 0

/-- Multiplication in the field of GHASH, bit 127 first. -/
def ghashMul (x y : Nat) : Nat :=
  ((List.range 128).foldl (fun (z, v) i =>
    (if x.testBit (127 - i) then z ^^^ v else z,
     if v % 2 = 1 then v / 2 ^^^ 0xE1 * 2 ^ 120 else v / 2)) (0, y)).1

/-- Bytes padded with zeros to whole 16-byte blocks. -/
def padBlocks (xs : List Nat) : List (List Nat) :=
  let n := ceilDiv xs.length 16
  chunks 16 n (xs ++ List.replicate (16 * n - xs.length) 0)

/-- GHASH over additional data and ciphertext. -/
def ghash (h : Nat) (aad ct : List Nat) : Nat :=
  let lens := toNats (beBytes 8 (8 * aad.length) ++ beBytes 8 (8 * ct.length))
  (padBlocks aad ++ padBlocks ct ++ [lens]).foldl (fun y b => ghashMul (y ^^^ beNum b) h) 0

/-- The counter-mode stream over data from a counter block of a 12-byte nonce. -/
def ctrStream (key nonce data : List Nat) : List Nat :=
  (indexed (padBlocks data)).flatMap fun (i, b) => xorL b (aesEnc key (nonce ++ toNats (beBytes 4 (i + 2))))

/-- AES-256-GCM: the ciphertext and the 16-byte tag. -/
def gcmEncrypt (key nonce aad pt : List Byte) : List Byte × List Byte :=
  let k := toNats key
  let n := toNats nonce
  let ct := (ctrStream k n (toNats pt)).take pt.length
  let h := beNum (aesEnc k (List.replicate 16 0))
  let tag := xorL (toNats (beBytes 16 (ghash h (toNats aad) ct))) (aesEnc k (n ++ [0, 0, 0, 1]))
  (toBytes ct, toBytes tag)

/-- AES-256-GCM: the plaintext and whether the tag verifies. -/
def gcmDecrypt (key nonce aad ct tag : List Byte) : List Byte × Bool :=
  let k := toNats key
  let n := toNats nonce
  let c := toNats ct
  let h := beNum (aesEnc k (List.replicate 16 0))
  let t := xorL (toNats (beBytes 16 (ghash h (toNats aad) c))) (aesEnc k (n ++ [0, 0, 0, 1]))
  (toBytes ((ctrStream k n c).take c.length), toBytes t = tag)

end Sys2Proof.Machine
end

