-- ==== Sys2Proof/Config.lean ====
section
/-! DEFINITION. What one part fixes and the spec leaves open: constants without a body, of which no proof can see a
value (log entries 3, 9 and 10). -/
namespace Sys2Proof.Config

/-- A fresh free value, by the model's counter `State.free` (R96, R385; log entry 3). -/
opaque freeWord : Nat → Word
/-- A byte of undefined data: a discarded or undecodable granule (R102, R321, R329; log entry 3). -/
opaque freeByte : Nat → Nat → Byte

/-- The role that the operator-level program at an entry address selects, none for a program that selects none: which
instruction of it does so the spec does not say (R10, R11; log entry 108). -/
opaque roleOf : Nat → Word → Option Nat
/-- The role for which a partition's request of a step class and a model stands: the spec gives a post no role field (R11; log
entry 108). -/
opaque requestRole : Nat → Nat → Nat → Nat

/-- The exponent approximation of numeric profile NP-3 (R209; log entry 9). -/
opaque np3Exp : W32 → W32
/-- The reciprocal square root of NP-3 (R209). -/
opaque np3Rsqrt : W32 → W32
/-- The sine of NP-3 (R209). -/
opaque np3Sin : W32 → W32
/-- The cosine of NP-3 (R209). -/
opaque np3Cos : W32 → W32
/-- The hyperbolic tangent of NP-3 (R209). -/
opaque np3Tanh : W32 → W32
/-- The quotient that NP-3's reciprocal approximation gives (R209). -/
opaque np3Div : W32 → W32 → W32
/-- The sum of a list in the reduction order of NP-3, where the spec states no order (R209, HNORM and HSOFT). -/
opaque np3Sum : List W32 → W32
/-- The NP-3 constant for 1 ÷ √d where that is no FP32 number (R207, R228; `invSqrt`). -/
opaque np3InvSqrt : Nat → W32

/-- The payload and sign of a NaN that FP32 arithmetic makes: the spec states none (log entry 9). -/
opaque nanPayload : W32
/-- The FP8 E4M3 element of a NaN or an infinity outside an MX group: the spec states none (R133; log entry 9). -/
opaque fp8Special : W32 → Byte

/-- A byte of the SRAM PUF array as a start finds it (R367; log entry 10). -/
opaque pufByte : Nat → Byte
/-- The seed that a reading of the SRAM PUF and its helper data give (R367; log entry 10). -/
opaque pufSeed : List Byte → List Byte → BitVec 256
/-- The SHA-384 digest of the boot ROM, measurement 1 (R371). -/
opaque bootRomDigest : BitVec 384
/-- A byte of the certificate chain and the PUF helper data in the identity flash, below offset 0x3000 (R375). -/
opaque factoryByte : Nat → Byte
/-- What the alias certificate certifies, given the alias public key, measurement 3 and svn (R369; log entry 10). -/
opaque aliasBody : List Byte → BitVec 384 → W32 → List Byte
/-- The alias certificate: what it certifies with the signature over it (R369; log entry 10). -/
opaque aliasCert : List Byte → BitVec 768 → List Byte
/-- The public key that a certificate certifies (R369; log entry 10). -/
opaque certKey : List Byte → List Byte
/-- The address at which the payload in boot SRAM is fetched: the spec gives boot SRAM no device address (R373, R388; log entry 46). -/
opaque bootPayload : Word
/-- The floor-pace voltage of a region at the present temperature, in mV (R365). -/
opaque floorMv : Nat → Int → Half
/-- Blocks of a plane and pages of a block of the board's flash targets, from their parameter pages (R307, R308). -/
opaque flashBlocks : Nat
opaque flashPages : Nat
/-- Blocks of the board's flash targets that are BAD as shipped, by key (R324; log entry 42). -/
opaque shippedBad : Nat → Bool
/-- The channel and the tap count that a CCAL body names: the spec gives the body no layout (R49; log entry 38). -/
opaque ccalChannel : Body → Nat
opaque ccalTaps : Body → Nat
/-- The row of an SRAM array that a byte offset lies in, by unit, and the spare rows of an array: the spec gives neither
(R341; log entry 44). -/
opaque sramRow : W32 → Nat → Half
opaque sramSpares : W32 → Nat
/-- Segment records, and buffers of the ordered form, that a target holds for reductions: the spec gives no number (R256). -/
opaque reduceRecords : Nat
opaque reduceBuffers : Nat
/-- The credits in flits that a port advertises for a channel when it trains: the spec gives no number (R243). -/
opaque portCredits : Nat → Nat → Nat
/-- Whether the training of a flash channel succeeds, by the count of free values (R309; log entry 3). -/
opaque channelTrains : Nat → Nat → Bool

end Sys2Proof.Config
end

