-- ==== Sys2Proof/Machine/Ops.lean ====
section
/-! DEFINITION. The named operations over the machine's state: bit fields, floor plan, fault records, interrupts,
tallies and launch conditions, context registers, exceptions, addresses, memory and protection. -/
namespace Sys2Proof.Machine

/-- What a command answers. -/
abbrev Res := Host.Outcome State Fault Refusal

/-- A command whose event cannot occur in the present state changes nothing (log entry 2). -/
def whenOk (b : Bool) (t s : State) : Res := .next (if b then t else s)

/-- Bits lo + w − 1 : lo of a bit vector replaced by v. -/
def setF {n : Nat} (x : BitVec n) (lo w v : Nat) : BitVec n :=
  BitVec.ofNat n (x.toNat - bf x.toNat lo w * 2 ^ lo + v % 2 ^ w * 2 ^ lo)

/-- Bits lo + w − 1 : lo of a bit vector. -/
def getF {n : Nat} (x : BitVec n) (lo w : Nat) : Nat := bf x.toNat lo w

/-! Completion statuses (R8). -/
namespace St
abbrev complete : Byte := 0
abbrev aborted : Byte := 1
abbrev tooLate : Byte := 2
abbrev poison : Byte := 3
abbrev timeout : Byte := 4
abbrev moved : Byte := 5
abbrev revoked : Byte := 6
abbrev protect : Byte := 7
abbrev flushed : Byte := 8
abbrev policed : Byte := 9
abbrev checksum : Byte := 10
abbrev noSpare : Byte := 11
end St

/-! ## Units and the floor plan (R20 to R32, R339) -/

/-- A unit identifier (R30). -/
def uid (kind index : Nat) : UnitId := BitVec.ofNat 32 (kind * 2 ^ 24 + index)

def unitKind (u : UnitId) : Nat := bf u.toNat 24 8
def unitIndex (u : UnitId) : Nat := bf u.toNat 0 16

/-- How many units of each kind the package holds (R30). -/
def kindCount : Nat → Nat
  | 1 => 144 | 2 => 16 | 3 => 18 | 4 => 34 | 5 => 16 | 6 => 8 | 7 => 128 | 8 => 8 | 9 => 32 | 10 => 1088
  | 11 => 544 | 12 => 5 | 13 => 80 | 14 => 16 | 15 => 128 | 16 => 32 | 17 => 8 | _ => 0

/-- A unit identifier that names a unit (R30, R103). -/
def validUnit (u : UnitId) : Bool := bf u.toNat 16 8 = 0 && decide (unitIndex u < kindCount (unitKind u))

/-- The number of physical units in one spare domain of a kind, and of its slots (R22, R24). -/
def domainSize : Nat → Nat × Nat
  | 1 => (9, 8) | 3 => (18, 16) | 4 => (34, 32) | 10 => (34, 32) | 11 => (34, 32) | _ => (0, 0)

/-- The entry of a unit as the part ships without retired units (R21; log entry 6). -/
def fptDefault (u : UnitId) : FptEntry :=
  let (n, k) := domainSize (unitKind u)
  if n = 0 then {}
  else
    let p := unitIndex u % n
    if p < k then { slot := BitVec.ofNat 16 p } else { state := 1 }

def fptGet (s : State) (u : UnitId) : FptEntry := tget (fptDefault u) s.plan.fpt u.toNat

def fptSet (s : State) (u : UnitId) (e : FptEntry) : State :=
  { s with plan := { s.plan with fpt := tset (fptDefault u) s.plan.fpt u.toNat e } }

/-- In service (R31). -/
def unitIn (s : State) (u : UnitId) : Bool := (fptGet s u).state = 0

/-- The units of the spare domain that holds unit index i of a kind (R22). -/
def domainUnits (kind i : Nat) : List UnitId :=
  let n := (domainSize kind).1
  if n = 0 then [] else (List.range n).map fun p => uid kind (i / n * n + p)

/-- The unit bound to slot k of the domain of unit index i (R24). -/
def boundTo (s : State) (kind i k : Nat) : Option UnitId :=
  (domainUnits kind i).find? fun u => unitIn s u && (fptGet s u).slot.toNat = k

/-- The channel slots of a stack with no channel bound, its spares being used up (R22 to R24). A part whose channels are as shipped has
none. DEDUCED (log entry 158): what such a slot held is gone. -/
def chanGone (s : State) (st : Nat) : List Nat :=
  if s.plan.fpt.any fun x => x.1 / 2 ^ 24 = 10 && x.1 % 2 ^ 24 / 34 = st then below 32 fun k => (boundTo s 10 (st * 34) k).isNone else []

/-- The tile bound to a slot of a cluster. -/
def tileOf (s : State) (cl k : Nat) : Option UnitId := boundTo s 1 (cl * 9) k

/-- The core bound to a control-core slot. -/
def coreOf (s : State) (k : Nat) : Option UnitId := boundTo s 3 0 k

/-- The partition descriptor of a partition. -/
def partDesc (s : State) (p : Part) : PartDesc := if p = 0 then s.plan.part0 else s.plan.part1

/-- Partition 1 exists while it holds at least one core slot (R104). -/
def partExists (s : State) (p : Part) : Bool := p = 0 || decide (s.plan.part1.cores ≠ 0)

/-- The role of a partition, and the state with another (R10 to R12). -/
def roleOfPart (s : State) (p : Nat) : RoleSt := if p = 0 then s.plan.role0 else s.plan.role1
def setRole (s : State) (p : Nat) (r : RoleSt) : State :=
  { s with plan := if p = 0 then { s.plan with role0 := r } else { s.plan with role1 := r } }

/-- The role that a number of Config names. -/
def roleOfNum (n : Nat) : Role := if n % 3 = 0 then .prompt else if n % 3 = 1 then .generation else .cache

/-- The role for which a request of a partition stands, by its step class and model (R11; log entry 108). -/
def requestRole (p : Nat) (e : LEntry) : Role := roleOfNum (Config.requestRole p e.sclass.toNat e.model.toNat)

/-- A request is for a role that a change has ended: from the issue of the change on the device admits it no more (R11). -/
def oldRole (s : State) (p : Nat) (e : LEntry) : Bool := (roleOfPart s p).past.contains (requestRole p e)

/-- Whether a partition holds a cluster, hub, core slot, walker or ferry slot (R104). -/
def holdsCluster (s : State) (p : Part) (i : Nat) : Bool := (partDesc s p).clusters.toNat.testBit i
def holdsHub (s : State) (p : Part) (i : Nat) : Bool := (partDesc s p).hubs.toNat.testBit i
def holdsCore (s : State) (p : Part) (i : Nat) : Bool := (partDesc s p).cores.toNat.testBit i
def holdsWalker (s : State) (p : Part) (i : Nat) : Bool := (partDesc s p).walkers.toNat.testBit i
def holdsFerry (s : State) (p : Part) (i : Nat) : Bool := (partDesc s p).ferries.toNat.testBit i

/-- Whether a partition's quota holds a tally, a queue or a queue-pair number (R104). -/
def holdsTally (s : State) (p : Part) (i : Nat) : Bool :=
  let d := partDesc s p; decide (d.tbase ≤ i) && decide (i < d.tbase + d.tcount)
def holdsQueue (s : State) (p : Part) (i : Nat) : Bool :=
  let d := partDesc s p; decide (d.qbase ≤ i) && decide (i < d.qbase + d.qcount)
def holdsQp (s : State) (p : Part) (i : Nat) : Bool :=
  let d := partDesc s p; decide (d.qpbase ≤ i) && decide (i < d.qpbase + d.qpcount)

/-- The part field of a floor-plan entry (R412). -/
def fptPart (s : State) (u : UnitId) : Nat :=
  let by' (f : Part → Bool) : Nat := if f 0 then 0 else if f 1 then 1 else 3
  let i := unitIndex u
  if !unitIn s u then 3
  else match unitKind u with
    | 1 => by' fun p => holdsCluster s p (i / 9)
    | 2 => by' fun p => holdsCluster s p i
    | 3 => by' fun p => holdsCore s p (fptGet s u).slot.toNat
    | 4 => by' fun p => holdsFerry s p (fptGet s u).slot.toNat
    | 5 => by' fun p => holdsWalker s p i
    | 7 => by' fun p => holdsHub s p (i / 16)
    | 8 => by' fun p => holdsHub s p i
    | _ => 2

/-- A hub is in service. -/
def hubIn (s : State) (h : Nat) : Bool := unitIn s (uid 6 h)

/-- The units of hub h that n bytes at an offset of its window lie in: the vat front, the softmax buffer, operand buffers (R203). -/
def windowUnits (h off n : Nat) : List UnitId :=
  if n = 0 then []
  else (if off < 0x200_0000 then [uid 17 h] else []) ++
    (if off < 0x210_0000 && 0x200_0000 < off + n then [uid 8 h] else []) ++
    (below 16 fun u => decide (off < 0x210_0000 + (u + 1) * 0x2_0000) && decide (0x210_0000 + u * 0x2_0000 < off + n)).map
      fun u => uid 7 (h * 16 + u)

/-- A hub's window answers at an offset: the hub and the units whose buffers the bytes lie in are in service (R25), and the hub's power
wave has come (R352). -/
def windowIn (s : State) (h off n : Nat) : Bool :=
  hubIn s h && s.pwr.waves.toNat.testBit h && (windowUnits h off n).all (unitIn s)

/-- A stack with its controller and its hub is in service (R23, R344). -/
def stackIn (s : State) (st : Nat) : Bool := unitIn s (uid 9 st) && unitIn s (uid 16 st) && hubIn s (st / 4)

/-- A stack has been trained and zeroed (R352). -/
def stackReady (s : State) (st : Nat) : Bool := s.mem.ready.toNat.testBit st

/-- The device offers memory service: one hub and one of its stacks are ready (R352, R354). -/
def memService (s : State) : Bool := (List.range 32).any fun st => stackIn s st && stackReady s st

/-- The memory device status reports media ready (R301, R355). -/
def mediaReady (s : State) : Bool := s.phase = .running && memService s

/-- Bytes of one stack, by ordering code (R389). -/
def stackCap (s : State) : Nat :=
  if s.plan.code = 1 then 48 * 2 ^ 30 else if s.plan.code = 2 then 32 * 2 ^ 30 else 0

/-! ## Interrupts and fault records (R345, R346, R391) -/

/-- Vector v of a logical device's function: sent, or pending while it is masked (R391). -/
def raiseMsi (s : State) (ld v : Nat) : State :=
  let m := tget (0xFFFF_FFFF_FFFF_FFFF : Word) s.cxd.msixMasked ld
  if m.toNat.testBit v then
    let q := tset 0 s.cxd.msixPending ld (tget 0 s.cxd.msixPending ld ||| BitVec.ofNat 64 (2 ^ v))
    { s with cxd := { s.cxd with msixPending := q } }
  else { s with cxd := { s.cxd with hostOut := s.cxd.hostOut ++ [.msix (Fin.ofNat 16 ld) v] } }

/-- Severity by kind (R346). -/
def sevOf : Nat → Nat
  | 0x01 => 2 | 0x02 => 4 | 0x03 => 2 | 0x04 => 0 | 0x05 => 0 | 0x06 => 2 | 0x07 => 2 | 0x08 => 0 | 0x09 => 3
  | 0x0A => 2 | 0x0B => 1 | 0x0C => 3 | 0x0D => 2 | 0x0E => 2 | 0x0F => 0 | 0x10 => 4 | 0x11 => 2 | 0x12 => 2
  | 0x13 => 0 | 0x14 => 4 | 0x15 => 1 | 0x16 => 2 | 0x17 => 3 | 0x18 => 4 | 0x20 => 1 | 0x21 => 2 | 0x22 => 1
  | 0x23 => 2 | 0x24 => 1 | 0x25 => 2 | 0x26 => 1 | 0x27 => 3 | 0x28 => 4 | 0x29 => 1 | 0x2A => 2 | 0x2B => 2
  | _ => 0

/-- The floor-plan change counter at one of the two points of a change (R32). -/
def bumpChange (s : State) : State := { s with plan := { s.plan with change := s.plan.change + 1 } }

/-- One more corrected error of a unit (R415), a change of its floor-plan entry (R32); a saturated count changes nothing. -/
def countCorr (s : State) (u : UnitId) : State :=
  let e := fptGet s u
  let n : Half := BitVec.ofNat 16 (satAdd 16 e.corr.toNat 1)
  if u = 0 || !validUnit u || e.corr = n then s
  else bumpChange (fptSet (bumpChange s) u { e with corr := n })

/-- The kinds that also appear as vendor-defined event records, in logical device 0's log (R304; log entry 45). -/
def noteVendor (s : State) (kind b : Nat) : State :=
  if kind = 0x04 || kind = 0x06 || kind = 0x14 then
    let e : EventRec := { log := 0, handle := s.cxd.handle, kind := 0x80, status := BitVec.ofNat 8 kind, dpa := BitVec.ofNat 64 b }
    { s with cxd := { s.cxd with events := s.cxd.events ++ [e], handle := s.cxd.handle + 1 } }
  else s

/-- A fault record is raised (R345): part is 0, 1 or 2; history newest first. -/
def raise (s : State) (kind : Nat) (part : Nat) (unit : UnitId) (a b : Nat) : State :=
  let r : FaultRec :=
    { seq := s.ras.seq, bell := s.clk.bell.setWidth 48, kind := BitVec.ofNat 8 kind, sev := BitVec.ofNat 3 (sevOf kind),
      part := BitVec.ofNat 2 part, unit := unit, a := BitVec.ofNat 32 a, b := BitVec.ofNat 64 b }
  let fails : Table Byte := if [0x25, 0x0C, 0x17].contains kind then tset 0 s.ras.lastFail unit.toNat (BitVec.ofNat 8 kind) else s.ras.lastFail
  let s := { s with ras := { s.ras with seq := s.ras.seq + 1, history := r :: s.ras.history.take 1023, lastFail := fails } }
  let s := noteVendor (if kind = 0x24 then countCorr s unit else s) kind b
  if 3 ≤ sevOf kind then raiseMsi s 0 1 else s

/-- Bell counts in the corrected-error window, RAS_CECTL.window in ms (R346). -/
def ceWindow (s : State) : Nat := s.ras.window.toNat * 400000 / s.clk.div.toNat

/-- A corrected error of kind DRAM_CE, SRAM_CE or FLASH_SOFT: one record per unit per window, a the count of the
errors since the last one (R346, R415; log entry 11). -/
def raiseCorrected (s : State) (kind : Nat) (unit : UnitId) (b : Nat) : State :=
  let s := countCorr s unit
  let key := kind * 2 ^ 32 + unit.toNat
  let put (v : Word × Nat) : State := { s with ras := { s.ras with ceSeen := tset (0, 0) s.ras.ceSeen key v } }
  match s.ras.ceSeen.find? (fun x => x.1 = key) with
  | some (_, (t, n)) =>
    if s.clk.bell.toNat - t.toNat < ceWindow s then put (t, n + 1)
    else raise (put (s.clk.bell, 0)) kind 2 unit (n + 1) b
  | none =>
    raise { s with ras := { s.ras with ceSeen := tins key (s.clk.bell, 0) s.ras.ceSeen } } kind 2 unit 1 b

/-- The kind of the last failure record that named a unit since its last change of state (R416). -/
def failCause (s : State) (u : UnitId) : Nat := (tget 0 s.ras.lastFail u.toNat).toNat

/-- A change of a unit's state: the failure records before it count no more (R416). -/
def failsOver (s : State) (u : UnitId) : State := { s with ras := { s.ras with lastFail := tset 0 s.ras.lastFail u.toNat 0 } }

/-! ## The 48-bit bell (R44, R112) -/

def bell48 (s : State) : Nat := s.clk.bell.toNat % 2 ^ 48

/-- Counts from count y back to count x modulo 2^48. -/
def span48 (x y : Nat) : Nat := (y + 2 ^ 48 - x % 2 ^ 48) % 2 ^ 48

/-- A count is reached by the bell (R112). -/
def reached48 (s : State) (x : Nat) : Bool := decide (span48 x (bell48 s) < 2 ^ 47)

/-- The nanoseconds left to a deadline as a hand-off carries them (R126): the bell period is 2.5 ns × div. -/
def nsLeft (s : State) (deadline : Nat) : Nat :=
  if deadline = 0 || reached48 s deadline then 0
  else span48 (bell48 s) deadline * s.clk.div.toNat * 25 * 99970 / (10 * 100000)

/-! ## Tallies and launch conditions (R43, R70 to R75) -/

def tally (s : State) (i : Nat) : Word := tget 0 s.tallies i

def ctxGet (s : State) (c : Nat) : Ctx := tget {} s.ctxs c
def ctxSet (s : State) (c : Nat) (x : Ctx) : State := { s with ctxs := tset {} s.ctxs c x }
def queueGet (s : State) (q : Nat) : QDesc := tget {} s.queues q
def queueSet (s : State) (q : Nat) (d : QDesc) : State := { s with queues := tset {} s.queues q d }

/-- The launch condition of an operation holds (R70). While the reference is lost the bell holds its value and
launches on it stop (R46). -/
def condHolds (s : State) (o : Op) : Bool :=
  let b := s.clk.bell.toNat ≥ o.bellAt.toNat
  let t := (tally s o.tl).toNat ≥ o.tallyAt.toNat
  match o.whn.toNat with
  | 0 => true
  | 1 => b && s.clk.refPresent
  | 2 => t
  | 3 => b && t && s.clk.refPresent
  | _ => (b && s.clk.refPresent) || t

/-- The operation at the head of its queue: the first one posted there that has not launched or ended (R68). -/
def headOf (s : State) (q : Nat) : Option Op := s.ops.find? fun o => o.queue = q && o.phase = .queued

/-- Whether an operation is the first queued one of its queue in a list. -/
def settleOps (s : State) (ev : Nat) : List Nat → List Op → List Op
  | _, [] => []
  | seen, o :: r =>
    if o.phase ≠ .queued || seen.contains o.queue then o :: settleOps s ev seen r
    else
      let o' : Op :=
        if o.trig.isSome then o
        else if condHolds s o then
          { o with seenHead := true, trig := some (if o.seenHead then BitVec.ofNat 2 ev else 0) }
        else { o with seenHead := true }
      o' :: settleOps s ev (o.queue :: seen) r

/-- The conditions of the operations at their queues' heads tested at an event: 1 a bell edge, 2 a tally change
(R71, R72). A condition that holds when its operation reaches the head gives cause 0. -/
def settle (s : State) (ev : Nat) : State := { s with ops := settleOps s ev [] s.ops }

/-! ### Share classes and the list build's wait (R117, R122) -/

/-- The gate of an entry is open (R117). -/
def gateOpen (s : State) (e : LEntry) : Bool := !e.gateEn || decide (e.gval.toNat ≤ (tally s e.gate.toNat).toNat)

/-- The key of a share class of a partition. -/
def shareKey (p : Nat) (c : Byte) : Nat := p * 256 + c.toNat

def shareWeight (s : State) (k : Nat) : Nat := (tget 0 s.ldg.weight k).toNat
def shareAcc (s : State) (k : Nat) : Nat := (tget 0 s.ldg.accum k).toNat

/-- The engine time of a piece of work charged to a share class (R121). The spec names the class of the keeper's, the agents', the
scrubber's and a collection's work but no time for them: a free value (log entry 123). -/
def chargeWork (s : State) (p : Part) (cls : Byte) : State :=
  let k := shareKey p.val cls
  let a := BitVec.ofNat 64 (satAdd 64 (shareAcc s k) (Config.freeWord s.free).toNat)
  { s with ldg := { s.ldg with accum := tset 0 s.ldg.accum k a }, free := s.free + 1 }

/-- The virtual time of a share class (R122). -/
def shareTime (s : State) (k : Nat) : Nat := shareAcc s k * 2 ^ 16 / shareWeight s k

/-- The share classes that hold a best-effort request, eligible or RUNNING (R122). -/
def shareBusy (s : State) : List Nat :=
  s.ldg.entries.foldl (fun l (_, e) =>
    let k := shareKey e.part.val e.share
    if e.deadline = 0 && (e.state = 2 || (e.state = 1 && gateOpen s e)) then insNat k l else l) []

/-- The active classes found anew; one that reactivates takes at least the least virtual time of its partition's classes
that stayed active (R122). DESIGN CHOICE (log entries 114, 115): the accumulator saturates; a class of weight 0 has no virtual time and is left
out of the least. -/
def refreshShares (s : State) : State :=
  let now := shareBusy s
  let old := now.filter fun k => s.ldg.active.contains k
  let raise (t : Table Word) (k : Nat) : Table Word :=
    match (old.filter fun j => j / 256 = k / 256 && shareWeight s j ≠ 0).map (shareTime s) with
    | [] => t
    | v :: r => tset 0 t k (BitVec.ofNat 64 (satAdd 64 (max (shareAcc s k) (r.foldl min v * shareWeight s k / 2 ^ 16)) 0))
  let acc := (now.filter fun k => !s.ldg.active.contains k).foldl raise s.ldg.accum
  { s with ldg := { s.ldg with active := now, accum := acc } }

/-- A list build of a partition that waits may run again (R117). -/
def wakeBuild (s : State) (p : Nat) : State :=
  match tget none s.ldg.batch p with
  | some b => if b.cls.isNone then { s with ldg := { s.ldg with batch := tset none s.ldg.batch p (some { b with retry := true }) } } else s
  | none => s

/-- Builds wait no longer where an ADMITTED entry of their partition names a tally as its gate (R117). -/
def wakeGate (s : State) (i : Nat) : State :=
  [0, 1].foldl (fun s p =>
    if s.ldg.entries.any fun (_, e) => e.part.val = p && e.state = 1 && e.gateEn && e.gate.toNat = i then wakeBuild s p else s) s

/-- The armed arms on a tally that its new value fires: fired set, armed cleared, their messages due (R396). -/
def latchArms (s : State) (i : Nat) (v : Word) : State :=
  let hit (k : Nat) (a : Arm) : Bool :=
    let l := tget {} s.cxd.lds (k / 64)
    a.armed && a.tally.toNat = i && decide (l.tbase.toNat ≤ i) && decide (i < l.tbase.toNat + l.tcount.toNat) && decide (a.value.toNat ≤ v.toNat)
  if s.arms.any fun y => hit y.1 y.2 then { s with arms := s.arms.map fun y => (y.1, if hit y.1 y.2 then { y.2 with armed := false, fired := true, due := true } else y.2) } else s

/-- The message of an arm that has fired is sent, if it is still due (R396). -/
def sendArm (s : State) (i : Nat) : State :=
  let a := tget {} s.arms i
  if a.due then raiseMsi { s with arms := tset {} s.arms i { a with due := false } } (i / 64) (4 + i % 64) else s

/-- A tally is set (R73); what tests it is tested. -/
def tallySet (s : State) (i : Nat) (v : Word) : State :=
  wakeGate (refreshShares (settle (latchArms { s with tallies := tset 0 s.tallies i v } i v) 2)) i

/-- An addition to a tally, saturating (R73). -/
def tallyAdd (s : State) (i n : Nat) : State := tallySet s i (BitVec.ofNat 64 (satAdd 64 (tally s i).toNat n))

/-! ## Contexts (R50 to R57) -/

def getS (x : Ctx) (i : Nat) : Word := if i = 0 then 0 else tget 0 x.s i
def setS (x : Ctx) (i : Nat) (v : Word) : Ctx := if i = 0 then x else { x with s := tset 0 x.s i v }
def getP (x : Ctx) (i : Nat) : Bool := i = 0 || x.p.toNat.testBit i
def setP (x : Ctx) (i : Nat) (b : Bool) : Ctx := if i = 0 then x else { x with p := setF x.p i 1 (boolNat b) }
def getQ (x : Ctx) (i : Nat) : W32 := tget 0 x.q i
def getT (x : Ctx) (i : Nat) : W32 := tget 0 x.t i

def privOf (x : Ctx) : Nat := getF x.cs 16 2
def stateOf (x : Ctx) : Nat := getF x.cs 13 3
def partOf (x : Ctx) : Part := if x.cs.toNat.testBit 19 then 1 else 0
def prioOf (x : Ctx) : Nat := getF x.cs 20 4
def shareOf (x : Ctx) : Nat := getF x.cs 24 8
def ldOf (x : Ctx) : Nat := getF x.cs 32 4
def ordOnly (x : Ctx) : Bool := x.cs.toNat.testBit 18
def withState (x : Ctx) (n : Nat) : Ctx := { x with cs := setF x.cs 13 3 n }
def withPriv (x : Ctx) (n : Nat) : Ctx := { x with cs := setF x.cs 16 2 n }
def withCause (x : Ctx) (n : Nat) : Ctx := { x with cs := setF x.cs 56 8 n }

/-- The partition of a core slot (R104). -/
def slotPart (s : State) (k : Nat) : Part := if holdsCore s 1 k then 1 else 0

/-- A scalar register of a context written. -/
def regSet (s : State) (c i : Nat) (v : Word) : State := ctxSet s c (setS (ctxGet s c) i v)

/-- A status written to a scalar register. -/
def statusTo (s : State) (c i : Nat) (st : Byte) : State := regSet s c i (st.setWidth 64)

/-! ## Exceptions (R80, R81) -/

/-! Exception causes (R80). -/
namespace Cause
abbrev illegal : Nat := 1
abbrev privilege : Nat := 2
abbrev protect : Nat := 3
abbrev align : Nat := 4
abbrev handle : Nat := 5
abbrev poison : Nat := 6
abbrev brk : Nat := 7
end Cause

/-- The registers of an entry at a level: the pc and cs saved, the level and the pc set (R81). -/
def enterLevel (x : Ctx) (level : Nat) (savePc : Word) (newPc : Word) : Ctx :=
  let y : Ctx :=
    if level = 2 then { x with epcSt := savePc, ecsSt := x.cs } else { x with epcOp := savePc, ecsOp := x.cs }
  withPriv { y with pc := newPc } level

/-- A context takes an exception (R81): tenant code at operator level, operator code at steward level; steward code
halts and raises KECON_HALT. -/
def takeException (s : State) (c cause : Nat) (fa : Option Word) : State :=
  let x := ctxGet s c
  let x := match fa with | some a => { x with fa := a } | none => x
  if privOf x = 2 then
    let u := (coreOf s (c / 8)).getD 0
    raise (ctxSet s c (withState (withCause x cause) 4)) 0x03 (partOf x).val u c x.pc.toNat
  else
    let level := privOf x + 1
    let hb := if level = 2 then x.hbSt else x.hbOp
    ctxSet s c (withCause (enterLevel x level x.pc (hb + BitVec.ofNat 64 (64 * cause))) cause)

/-- A saved status word put back: its reserved bits stay zero, its state stays that of the context, and a reserved
level leaves the level as it is (R7, R56; log entry 12). -/
def restoreCs (cs saved : Word) : Word :=
  let w := setF (setF saved 0 13 0) 36 20 0
  let w := setF w 13 3 (getF cs 13 3)
  if getF saved 16 2 = 3 then setF w 16 2 (getF cs 16 2) else w

/-- The return from an exception or a call at operator or steward level: pc and cs restored (R81). -/
def returnFrom (x : Ctx) : Ctx :=
  if privOf x = 2 then { x with pc := x.epcSt, cs := restoreCs x.cs x.ecsSt }
  else { x with pc := x.epcOp, cs := restoreCs x.cs x.ecsOp }

/-! ## Addresses, memory and protection (R88, R248, R380, R381, R388) -/

/-- What an address of this device names (R248, R388). -/
inductive Place where
  | dram (st : Nat)
  | sram
  | tally (i : Nat)
  | reg (off : Nat)
  | hub (h : Nat)
  | localStore
  | none
  deriving DecidableEq, Repr

abbrev sramBase : Nat := 0x200_0000_0000
abbrev tallyBase : Nat := 0x300_0000_0000
abbrev regBase : Nat := 0x400_0000_0000
abbrev hubBase : Nat := 0x500_0000_0000
abbrev localBase : Nat := 0x600_0000_0000

/-- The place that n bytes at an address lie in; none where they leave it. -/
def placeOf (s : State) (a n : Nat) : Place :=
  if a < 2 ^ 41 then (if a % 2 ^ 36 + n ≤ stackCap s then .dram (a / 2 ^ 36) else .none)
  else if sramBase ≤ a && a + n ≤ sramBase + 52992 * 1024 then .sram
  else if tallyBase ≤ a && a + n ≤ tallyBase + 0x8000 then .tally ((a - tallyBase) / 8)
  else if regBase ≤ a && a + n ≤ regBase + 2 ^ 24 then .reg (a - regBase)
  else if hubBase ≤ a && a < hubBase + 8 * 0x400_0000 && (a - hubBase) % 0x400_0000 + n ≤ 35 * 2 ^ 20 then
    .hub ((a - hubBase) / 0x400_0000)
  else if localBase ≤ a && a + n ≤ localBase + 0x1_0000 then .localStore
  else .none

/-- The memory key of an address as a context of core slot k reaches it: each slot has its own local store. -/
def memKey (k a : Nat) : Nat := if localBase ≤ a then localBase + k * 0x1_0000 + (a - localBase) else a

/-- The subarray index of a byte offset of a stack (R185, R186). -/
def subOf (off : Nat) : Nat := bf off 24 6 * 2048 + bf off 30 6 * 32 + bf off 10 5

/-- A line, by line number, is poisoned whole, or lies in a lost stack or a retired subarray (R189, R341, R344). -/
def lineBad (s : State) (l : Nat) : Bool :=
  s.mem.poison.contains l ||
  (decide (l < 2 ^ 35) &&
    (!stackIn s (l / 2 ^ 30) || s.plan.deadSubs.contains (l / 2 ^ 30 * 2 ^ 20 + subOf (l * 64 % 2 ^ 36)) ||
      (chanGone s (l / 2 ^ 30)).contains (l / 16 % 32)))

/-- A line, by line number, carries poison; a poisoned word of SRAM is part of its line (R331). -/
def linePoison (s : State) (l : Nat) : Bool := lineBad s l || s.mem.badWords.any fun w => w / 8 = l

/-- n bytes at an address meet poison. -/
def poisoned (s : State) (a n : Nat) : Bool :=
  n ≠ 0 && (((List.range ((a + n + 63) / 64 - a / 64)).any fun i => lineBad s (a / 64 + i)) ||
    s.mem.badWords.any fun w => decide (a < w * 8 + 8) && decide (w * 8 < a + n))

/-- Bytes of memory; a lost stack reads as zeros beside its poison. -/
def memRead (s : State) (a n : Nat) : List Byte := s.mem.cells.bytes a n
def memNum (s : State) (a n : Nat) : Nat := ofLe (memRead s a n)

/-- Lines of a range whole inside it: a write of a whole line clears its poison. -/
def clearPoison (ps : List Nat) (a n : Nat) : List Nat :=
  ps.filter fun l => !(decide (a ≤ l * 64) && decide (l * 64 + 64 ≤ a + n))

/-- Words of SRAM whole inside a written range are poisoned no more. -/
def clearWords (ws : List Nat) (a n : Nat) : List Nat := ws.filter fun w => !(decide (a ≤ w * 8) && decide (w * 8 + 8 ≤ a + n))

/-- A write of bytes; a write to a lost stack is dropped (R344). -/
def memWrite (s : State) (a : Nat) (bs : List Byte) : State :=
  if a < 2 ^ 41 && !stackIn s (a / 2 ^ 36) then s
  else { s with mem := { s.mem with cells := s.mem.cells.write a bs, poison := clearPoison s.mem.poison a bs.length,
                                    badWords := clearWords s.mem.badWords a bs.length,
                                    access := s.mem.access.map fun l => (true, a, bs.length) :: l } }

/-- A read of bytes noted while a work is tried. -/
def noteRead (s : State) (a n : Nat) : State :=
  { s with mem := { s.mem with access := s.mem.access.map fun l => (false, a, n) :: l } }

def memWriteNum (s : State) (a n v : Nat) : State := memWrite s a (leBytes n v)

/-- A line poisoned. -/
def poisonLine (s : State) (l : Nat) : State := { s with mem := { s.mem with poison := insNat l s.mem.poison } }

/-- Every line that a range touches poisoned. -/
def poisonRange (s : State) (a n : Nat) : State :=
  (List.range ((a + n + 63) / 64 - a / 64)).foldl (fun s i => poisonLine s (a / 64 + i)) s

/-- The entry value of the protection table at reset: invalid, rlev, wlev and ilev 3 (R380). -/
abbrev protReset : ProtEntry := 0x000F_C000_0000_0000

/-- A level code of a protection entry admits a level (R380). -/
def levelMeets (code level : Nat) : Bool := code ≠ 3 && decide (code ≤ level)

/-- A MEMORY entry grants n bytes at an address (R381); part none accepts both partitions. -/
def entryGrants (e : ProtEntry) (level : Nat) (part : Option Part) (write : Bool) (a n : Nat) : Bool :=
  let base := getF e 76 52 * 2 ^ 12
  getF e 44 2 = 1 && decide (base ≤ a) && decide (a + n ≤ base + 2 ^ (12 + getF e 70 6)) &&
  (match part with | none => true | some p => getF e 52 2 = 2 || getF e 52 2 = p.val) &&
  levelMeets (if write then getF e 48 2 else getF e 50 2) level

/-- The protection check of an access (R381): steward level is not checked. -/
def permits (s : State) (level : Nat) (part : Option Part) (write : Bool) (a n : Nat) : Bool :=
  level = 2 || s.sec.prot.any fun (_, e) => entryGrants e level part write a n

/-- A NODE entry that covers a node (R381). -/
def nodeEntry (s : State) (node : Nat) (f : ProtEntry → Bool) : Bool :=
  s.sec.prot.any fun (_, e) =>
    getF e 44 2 = 2 && decide (getF e 114 14 ≤ node) && decide (node ≤ getF e 100 14) && f e

/-- Every row that n bytes of DRAM touch lies behind a bound channel slot (R24, R25, R185). -/
def chansBound (s : State) (a n : Nat) : Bool :=
  let l := chanGone s (a / 2 ^ 36)
  l.isEmpty || (List.range ((a + n + 1023) / 1024 - a / 1024)).all fun i => !l.contains ((a / 1024 + i) % 32)

/-- Memory that engines and contexts reach: a stack that is trained, but for the channel slots that have no channel, the general shared
SRAM, a hub in service (R25, R88). A stack that is lost is reached and reads as poison (R344). -/
def reachable (s : State) (a n : Nat) : Bool :=
  match placeOf s a n with
  | .dram st => (stackReady s st || !stackIn s st) && chansBound s a n
  | .sram => true
  | .hub h => windowIn s h ((a - hubBase) % 0x400_0000) n
  | .localStore => true
  | _ => false

/-- Memory that a context may access at its level and partition (R381, R388). -/
def ctxMemOk (s : State) (c : Nat) (level : Nat) (write : Bool) (a n : Nat) : Bool :=
  reachable s a n &&
  (placeOf s a n = .localStore || permits s level (some (partOf (ctxGet s c))) write a n)

/-! ### Host lines (R249, R290, R295, R296) -/

/-- A slot of the reach window is the device's own: its GEN_NODE slot, or one whose reach entry names its node. -/
def ownSlot (s : State) (k : Nat) : Bool :=
  k = s.isf.nodeSlot.toNat ||
  (s.isf.nodeValid && decide (k < 32) && tget 0 s.isf.map.reach k = (s.isf.node.setWidth 16 ||| 0x8000))

/-- The device address of a device physical address in an own slot (R249, R290). -/
def dpaLocal (s : State) (dpa : Nat) : Option Nat :=
  let c := stackCap s
  if c ≠ 0 && decide (dpa / (32 * c) < 32) && ownSlot s (dpa / (32 * c)) then
    let b := dpa % (32 * c)
    some (b / c * 2 ^ 36 + b % c)
  else none

/-- The lines that hosts hold, by line number, of a range of device addresses (R296). -/
def recallNeeded (s : State) (a n : Nat) : List Nat :=
  (s.cxd.dir.filter fun d => match dpaLocal s (d.line.toNat * 64) with
    | some x => decide (x < a + n) && decide (a < x + 64)
    | none => false).map fun d => d.line.toNat

/-- An extent in some state holds a device address of a range, in an own slot. -/
def extentAt (s : State) (f : Extent → Bool) (a n : Nat) : Bool :=
  let c := stackCap s
  c ≠ 0 && decide (a < 2 ^ 41) &&
  ((List.range 32).filter (ownSlot s)).any fun k =>
    let b := k * 32 * c + a / 2 ^ 36 * c + a % 2 ^ 36
    s.cxd.extents.any fun e => f e && decide (b < e.base + e.len) && decide (e.base < b + n)

/-- A dynamic-capacity region as the spec bounds it: aligned to 256 MiB, its blocks a power of two from 2 MiB to 1 GiB (R292). -/
def regionOk (r : DcRegion) : Bool :=
  r.base % 2 ^ 28 = 0 && r.len % 2 ^ 28 = 0 && (List.range 10).any fun k => r.block = 2 ^ (21 + k)

/-- A region set; one that the spec does not allow is left without capacity (R292). -/
def regionSet (s : State) (k : Nat) (r : DcRegion) : State :=
  let none : DcRegion := { base := 0, len := 0, block := 0 }
  let rs := (List.range 8).map fun i => if i = k then (if regionOk r then r else none) else s.cxd.regions.getD i none
  { s with cxd := { s.cxd with regions := rs } }

/-- In 68-byte flit mode the device cannot recall, and refuses its own writes to allocated extents (R288). -/
def hdmHBlocked (s : State) (a n : Nat) : Bool :=
  s.cxd.memok && !s.cxd.flit256 && extentAt s (fun e => e.state = .allocated) a n

/-- Memory that a posted operation may name, at the level and partition of its poster (R54, R381). Local stores are
of cores and no engine reaches them (R388). -/
def opMemOk (s : State) (level : Nat) (part : Part) (write : Bool) (a n : Nat) : Bool :=
  reachable s a n && placeOf s a n ≠ .localStore && permits s level (some part) write a n && !(write && hdmHBlocked s a n)

/-- n bytes of the steward image in boot SRAM (R373; log entry 46). -/
def inBoot (a n : Nat) : Bool :=
  decide (Config.bootPayload.toNat ≤ a) && decide (a + n ≤ Config.bootPayload.toNat + 393216)

/-- An instruction fetch is allowed (R381). -/
def fetchOk (s : State) (c : Nat) (n : Nat) : Bool :=
  let x := ctxGet s c
  match placeOf s x.pc.toNat n with
  | .dram _ | .sram | .localStore => ctxMemOk s c (privOf x) false x.pc.toNat n
  | .none => privOf x = 2 && inBoot x.pc.toNat n
  | _ => false

/-! ## Operations -/

def opGet (s : State) (t : Ticket) : Option Op := s.ops.find? fun o => o.ticket = t && o.phase ≠ .recorded

/-- The operation of a ticket in flight changed. -/
def opUpd (s : State) (t : Ticket) (f : Op → Op) : State :=
  { s with ops := updFirst (fun o => o.ticket = t && decide (o.phase ≠ .recorded)) f s.ops }

/-- An operation ends with a status; its record is still to be written (R69). -/
def opEnd (s : State) (t : Ticket) (st : Byte) (steps : Nat) : State :=
  opUpd s t fun o => { o with phase := .ended, status := st, steps := min steps 0xFFFF }

/-- An operation that waits for n answers; its first packet sent commits it (R92, R265). -/
def opAwait (s : State) (t : Ticket) (n steps : Nat) : State :=
  opUpd s t fun o => { o with await := n, steps := min steps 0xFFFF }

/-- A launched operation past its commit step (R92). -/
def opCommit (s : State) (t : Ticket) : State :=
  opUpd s t fun o => { o with phase := if o.phase = .launched then .committed else o.phase }

/-- Ops whose completion record is not yet written are in flight (R63). -/
def inFlight (s : State) (t : Ticket) : Bool := (opGet s t).isSome

/-- The ring slot of an operation. -/
def ringAddr (s : State) (q : Nat) (slot : Nat) : Nat :=
  let d := queueGet s q
  d.base.toNat * 64 + slot % 2 ^ d.depth.toNat * 64

/-- The image bits that the body's Resv fields take. -/
def bodyF (o : Op) (lo w : Nat) : Nat := bf o.body.toNat lo w

/-- Field of the body named as in a manifest table whose bits start at manifest bit 128 (R67). -/
def extraF (o : Op) (lo w : Nat) : Nat := bf o.extra.toNat lo w

/-! ## Sparing (R22, R103, R335, R336) -/

/-- The partition a record names by a unit's place: 2 where it is shared or in none. -/
def recPart (s : State) (u : UnitId) : Nat := let p := fptPart s u; if p = 3 then 2 else p

/-- A unit retired, the change stamped (R31, R339, R416). -/
def setRetired (s : State) (u : UnitId) : State :=
  let e := fptGet s u
  failsOver (fptSet s u { e with slot := 0xFFFF, state := 2, origin := 2, cause := BitVec.ofNat 8 (failCause s u),
                                 changed := s.clk.bell.setWidth 48 }) u

/-- A spare bound to a slot. -/
def setBound (s : State) (u : UnitId) (slot : Nat) : State :=
  let e := fptGet s u
  failsOver (fptSet s u { e with slot := BitVec.ofNat 16 slot, state := 0, origin := 2, changed := s.clk.bell.setWidth 48 }) u

/-- A repair entry of the identity flash (R377). -/
def repairEntry (ty : Nat) (u : UnitId) (slot cause wh : Nat) : List Byte :=
  leBytes 16 (ty * 2 ^ 120 + u.toNat * 2 ^ 88 + slot * 2 ^ 72 + cause * 2 ^ 64 + wh)

/-- A repair record handed to the security engine for appending (R336, R377, R378). -/
def queueRepair (s : State) (body : List Byte) : State :=
  let r : IdRec := { kind := 2, auth := 2, seq := 0, serial := s.plan.serial, body := body, tag := [] }
  { s with sec := { s.sec with toAppend := s.sec.toAppend ++ [(r, none)] } }

/-- The units that leave service with a unit (R23, R344): a hub's stacks, a controller's stack, a cluster's tiles. DESIGN
CHOICE (log entry 109): the hub's controllers, near-memory units, vat front and lane groups keep their entries. -/
def retireGroup (s : State) (u : UnitId) : List UnitId :=
  let i := unitIndex u
  let more := match unitKind u with
    | 2 => (List.range 9).map fun p => uid 1 (i * 9 + p)
    | 6 => (List.range 4).map fun p => uid 9 (i * 4 + p)
    | 16 => [uid 9 i]
    | _ => []
  u :: more.filter fun v => (fptGet s v).state ≠ 2

/-- The RETIRED record of a unit (R346); the change adds one repair entry for it. DEDUCED (log entry 137): the entries counted are
those of R377. -/
def raiseRetired (s : State) (part : Nat) (u : UnitId) : State := raise s 0x27 part u (fptGet s u).cause.toNat 1

/-- The widest width that the working lanes of a SerDes port allow (R23, R241, R287); 0 with none. Port 0 is the CXL port. DESIGN
CHOICE (log entry 119): which lanes work does not matter, how many do. -/
def portWidth (s : State) (port : Nat) : Nat :=
  let n := (below 16 fun i => unitIn s (uid 13 (port * 16 + i))).length
  ([16, 8, 4, 2, 1].find? fun w => w ≤ n).getD 0

/-- The host port is up, in service and with a lane left; the fall of its link comes as HOST_LINK_DOWN (R23, R301). -/
def hostUp (s : State) : Bool := s.cxd.up && unitIn s (uid 12 0) && portWidth s 0 ≠ 0

/-- The code of a width in CXD_LINK (R287). -/
def widthCode (w : Nat) : BitVec 4 := if w = 0 then 0 else BitVec.ofNat 4 (w.log2 + 1)

/-- The number of up ports changes: what the landing has sent by now is from before the change (R251). -/
def portsChange (s : State) : State :=
  { s with isf := { s.isf with out := s.isf.out.map fun r => if r.pkt.landing && r.ups ≠ 0 then { r with stale := true } else r } }

/-- What follows the retirement of a unit: a walker's empties every look-aside buffer (R141); a lane's makes a wider port retrain,
narrower; an Isandi port's takes it down (R23, R241). -/
def unitGone (s : State) (u : UnitId) : State :=
  let lower (p : Nat) (gone : Bool) : State :=
    let x := tget {} s.isf.ports p
    if x.up && (gone || portWidth s (p + 1) < x.width) then
      portsChange { s with isf := { s.isf with ports := tset {} s.isf.ports p { x with up := false } } }
    else s
  let i := unitIndex u
  match unitKind u with
  | 5 => { s with wlk := { s.wlk with la := [] } }
  | 12 => if i = 0 then s else lower (i - 1) true
  | 13 =>
    if i < 16 then { s with cxd := { s.cxd with width := if s.cxd.width ≤ widthCode (portWidth s 0) then s.cxd.width else widthCode (portWidth s 0) } }
    else lower (i / 16 - 1) false
  | _ => s

/-- A unit retired as one floor-plan change (R32, R103), with its records and its repair record. -/
def retireUnit (s : State) (u : UnitId) : State :=
  if (fptGet s u).state = 2 then s
  else
    let us := retireGroup s u
    let ps := us.map fun v => (v, recPart s v)
    let s := unitGone (bumpChange (us.foldl setRetired (bumpChange s))) u
    let s := ps.foldl (fun s (v, p) => raiseRetired s p v) s
    queueRepair s (us.flatMap fun v => repairEntry 1 v 0 (fptGet s v).cause.toNat 0)

/-- A spare bound to a slot of its domain as one floor-plan change, the unit bound there retired (R103). -/
def bindSpare (s : State) (spare : UnitId) (slot : Nat) : State :=
  match boundTo s (unitKind spare) (unitIndex spare) slot with
  | none =>
    let s := bumpChange (setBound (bumpChange s) spare slot)
    queueRepair (raise s 0x26 (recPart s spare) spare 0 slot) (repairEntry 2 spare slot 0 0)
  | some u =>
    let p := recPart s u
    let s := bumpChange (setBound (setRetired (bumpChange s) u) spare slot)
    let c := (fptGet s u).cause.toNat
    let s := raiseRetired (raise s 0x26 p spare u.toNat slot) p u
    queueRepair s (repairEntry 1 u 0 c 0 ++ repairEntry 2 spare slot c 0)

/-- The spare of lowest physical index in a unit's domain (R335). -/
def lowestSpare (s : State) (u : UnitId) : Option UnitId :=
  (domainUnits (unitKind u) (unitIndex u)).find? fun v => (fptGet s v).state = 1

/-- A write of a register of a block by a core or a host function: at tenant level any access of a running context to the register window
raises PROTECT (R387). -/
def asAgent (a : Agent) (off : Nat) (f : State → Res) (s : State) : Res :=
  match a with
  | .core c =>
    let x := ctxGet s c
    if s.phase = .running && stateOf x = 2 && privOf x = 0 then .next (takeException s c Cause.protect (some (BitVec.ofNat 64 (regBase + off))))
    else f s
  | .host _ => f s

end Sys2Proof.Machine
end

