-- ==== Sys2Proof/Machine/Flags.lean ====
section
/-! DEFINITION. The arithmetic of the scalar instructions, the comparisons that set predicates, and the fields of the
context status word that a special-register move changes. -/
namespace Sys2Proof.Machine

/-- Bits 127:64 of the unsigned product (MULHU). -/
def mulHigh (a b : Word) : Word := BitVec.ofNat 64 (a.toNat * b.toNat / 2 ^ 64)

/-- The unsigned quotient, all-ones when b is 0 (DIVU). -/
def divU (a b : Word) : Word := if b = 0 then 0xFFFF_FFFF_FFFF_FFFF else a / b

/-- The unsigned remainder, a when b is 0 (REMU). -/
def remU (a b : Word) : Word := if b = 0 then a else a % b

/-- The shift amount b[5:0]. -/
def shAmt (b : Word) : Nat := b.toNat % 64

def minU (a b : Word) : Word := if a.toNat ≤ b.toNat then a else b
def maxU (a b : Word) : Word := if a.toNat ≤ b.toNat then b else a

/-- The count of ones (POPC). -/
def popCount (a : Word) : Nat := (List.range 64).countP fun i => a.toNat.testBit i

/-- The count of leading zeros, 64 for 0 (CLZ). -/
def leadZeros (a : Word) : Nat := ((List.range 64).takeWhile fun i => !a.toNat.testBit (63 - i)).length

/-- Signed comparison (CMPLT). -/
def ltS (a b : Word) : Bool := decide (a.toInt < b.toInt)

/-- A write of cs by software at a level: share, prio and ordonly by operator and steward code, ld and part by
steward code, nothing else (R56). -/
def writeCs (cs v : Word) (level : Nat) : Word :=
  let take (w : Word) (lo n : Nat) : Word := setF w lo n (getF v lo n)
  let w := if level = 1 || level = 2 then take (take (take cs 24 8) 20 4) 18 1 else cs
  if level = 2 then take (take w 32 4) 19 1 else w

end Sys2Proof.Machine
end

