-- ==== Sys2Proof/Machine/Operands.lean ====
section
/-! DEFINITION. How a Kecon instruction issues: its operands, its checks in order, its predicate, and what follows its
effect (R51, R59 to R63, R80 to R85, R381). -/
namespace Sys2Proof.Machine

/-- What an instruction's effect does with its context. -/
inductive After where
  /-- done: the pc moves past the instruction -/
  | adv (s : State)
  /-- done: the effect has set the pc -/
  | jump (s : State)
  /-- the context is in WAIT, the pc stays -/
  | hold (s : State)
  /-- an exception with a cause and, of a memory access, its address -/
  | exc (s : State) (cause : Nat) (fa : Option Word)

/-- The b operand of the 64-bit format: imm, sign-extended, or s[sb]. -/
def opB (x : Ctx) (w : Ins64) : Word := if w.ib then w.imm.signExtend 64 else getS x w.sb.toNat

/-- Scalar source a. -/
def opA (x : Ctx) (sa : BitVec 6) : Word := getS x sa.toNat

/-- The agents that run on the device's ferries, walkers and flash engine start steps while the device runs on its reference and the
engine region is at floor pace or above (R39, R40, R46). -/
def agentsRun (s : State) : Bool := s.phase = .running && s.clk.refPresent && !s.clk.slow.contains 74

/-- The die-to-die link behind which a stack lies starts steps: its pace is not below floor (R20, R39). -/
def linkRuns (s : State) (st : Nat) : Bool := !s.clk.slow.contains (75 + st / 4)

/-- A core runs instructions: it is not held for a sparing decision (R82, R333). A slow region holds steps, and a control core
runs instructions, not steps (R39, R76; log entry 54). -/
def coreSteps (s : State) (u : UnitId) : Bool := !s.ras.failed.any fun x => x.1 = u

/-- The contexts of the core slot of c. -/
def slotCtxs (c : Nat) : List Nat := (List.range 8).map fun i => c / 8 * 8 + i

/-- A context is READY or RUN (R51). -/
def ctxReady (x : Ctx) : Bool := stateOf x = 1 || stateOf x = 2

/-- No READY or RUN context of the core has a higher cs.prio (R51). -/
def topPrio (s : State) (c : Nat) : Bool :=
  (slotCtxs c).all fun d => !ctxReady (ctxGet s d) || decide (prioOf (ctxGet s d) ≤ prioOf (ctxGet s c))

/-- A context may issue: the device runs, its core slot has a core that runs, it is READY or RUN, no such context of its core
has a higher cs.prio, and every context it has yielded to has issued or is no longer READY (R51, R337, YIELD). -/
def canIssue (s : State) (c : CtxId) : Bool :=
  let x := ctxGet s c
  s.phase = .running && (coreOf s (c / 8)).any (coreSteps s) && ctxReady x && topPrio s c &&
  x.yieldFor.all fun d => stateOf (ctxGet s d) ≠ 1

/-- A context that runs: its state is RUN, it is the last of its core slot and priority to issue, and it waits for no context it yielded to. -/
def runCtx (x : Ctx) : Ctx := { withState x 2 with yieldFor := [], last := true }

/-- The issue of an instruction by a context: it is RUN, the other contexts of its core that ran are READY, and it
counts as having issued for those that yielded to it (R51). -/
def startIssue (s : State) (c : CtxId) : State :=
  let s := (slotCtxs c).foldl (fun s d =>
    let y := ctxGet s d
    if d = c.val then s
    else
      let y := if stateOf y = 2 then withState y 1 else y
      let lst := y.last && prioOf y ≠ prioOf (ctxGet s c.val)
      ctxSet s d { y with yieldFor := y.yieldFor.filter fun e => e ≠ c.val, last := lst }) s
  ctxSet s c (runCtx (ctxGet s c))

/-- The pc of a context moved past an instruction of n bytes. -/
def advance (s : State) (c : CtxId) (n : Nat) : State :=
  let x := ctxGet s c
  ctxSet s c { x with pc := x.pc + BitVec.ofNat 64 n }

/-- What follows an effect of an instruction of n bytes. -/
def finish (c : CtxId) (n : Nat) : After → State
  | .adv s => advance s c n
  | .jump s => s
  | .hold s => s
  | .exc s cause fa => takeException s c cause fa

/-- The predicate of R60. -/
def predicate (x : Ctx) (pred : BitVec 3) (pneg : Bool) : Bool := getP x pred.toNat != pneg

/-- An instruction issues (R60, R61, R84, R381): pc alignment, fetch check, fetched data (DEDUCED that poisoned code raises
POISON, log entry 13), format, predicate, level, effect, in this order. -/
def issue (n level : Nat) (formatOk : Bool) (pred : BitVec 3) (pneg : Bool) (c : CtxId) (eff : State → After)
    (s : State) : State :=
  if !canIssue s c then s
  else
    let s := startIssue s c
    let x := ctxGet s c
    if x.pc.toNat % 8 ≠ 0 then takeException s c Cause.illegal none
    else if !fetchOk s c n then takeException s c Cause.protect (some x.pc)
    else if poisoned s (memKey (c / 8) x.pc.toNat) n then takeException s c Cause.poison none
    else if !formatOk then takeException s c Cause.illegal none
    else if !predicate x pred pneg then advance s c n
    else if privOf x < level then takeException s c Cause.privilege none
    else finish c n (eff s)

/-- A 64-bit instruction of a lowest level whose further Resv checks are given (R85). -/
def issue64 (level : Nat) (resvOk : Bool) (c : CtxId) (w : Ins64) (eff : State → After) (s : State) : Res :=
  .next (issue 8 level (!w.len && resvOk) w.pred w.pneg c eff s)

/-- A synchronous 128-bit instruction: when, tl, tc, q and ord are Resv (R86). -/
def issue128 (level : Nat) (c : CtxId) (w : Ins128) (eff : State → After) (s : State) : Res :=
  .next (issue 16 level
    (w.len && w.resv = 0 && !w.ord && w.whn = 0 && w.tl = 0 && w.tc = 0 && w.q = 0) w.pred w.pneg c eff s)

/-- A 64-bit instruction that writes a scalar register. -/
def scalar64 (c : CtxId) (w : Ins64) (f : Word → Word → Word) (s : State) : Res :=
  issue64 0 true c w (fun s =>
    let x := ctxGet s c
    .adv (regSet s c w.sd.toNat (f (opA x w.sa) (opB x w)))) s

/-- Names a 3-bit or 4-bit operand: the field's bits above the width are Resv (R85). -/
def narrow (w : Nat) (f : BitVec 6) : Bool := decide (f.toNat < 2 ^ w)

/-- A 64-bit instruction that writes a predicate from s[sa] and b. -/
def compare64 (c : CtxId) (w : Ins64) (f : Word → Word → Bool) (s : State) : Res :=
  issue64 0 (narrow 3 w.sd) c w (fun s =>
    let x := ctxGet s c
    .adv (ctxSet s c (setP x w.sd.toNat (f (opA x w.sa) (opB x w))))) s

/-- The tally index of a handle register; none when it is not bound (R57). -/
def tallyHandle (x : Ctx) (i : Nat) : Option Nat :=
  let h := (getT x i).toNat
  if h.testBit 31 then some (h % 4096) else none

/-- The tally index of a handle that may be set (R57). -/
def tallyHandleRw (x : Ctx) (i : Nat) : Option Nat :=
  let h := (getT x i).toNat
  if h.testBit 31 && !h.testBit 30 then some (h % 4096) else none

/-- The queue index of a handle register (R57). -/
def queueHandle (x : Ctx) (i : Nat) : Option Nat :=
  let h := (getQ x i).toNat
  if h.testBit 31 then some (h % 1024) else none

/-- A wait placed on a context: WAIT, giving up issue at once (R51, R62). -/
def placeWait (s : State) (c : CtxId) (wt : Wait) : State :=
  ctxSet s c { withState (ctxGet s c) 3 with wait := wt }

/-- A context leaves WAIT with its instruction of n bytes done. -/
def leaveWait (s : State) (c : CtxId) (n : Nat) : State :=
  let x := ctxGet s c
  ctxSet s c { withState x 1 with wait := .none, pc := x.pc + BitVec.ofNat 64 n }

/-- An in-bank operation that has launched and not completed. -/
def inBankOn (o : Op) : Bool := o.engine = 0x04 && o.launchNo ≠ 0 && o.phase ≠ .recorded

/-- A named bank of an in-bank operation holds a byte of its stack (R196). -/
def inBankNames (o : Op) (a : Nat) : Bool :=
  bodyF o 176 5 = a / 2 ^ 36 &&
  (let pb := subOf (a % 2 ^ 36) % 2048; let i := pb - bodyF o 181 11
   decide (bodyF o 181 11 ≤ pb) && decide (i < 64) && (bodyF o 192 64).testBit i)

/-- The rows that an in-bank operation names as sources and destination (R94, R196, R200, R201). -/
def inBankRows (o : Op) : List Nat :=
  let r (lo : Nat) : Nat := bodyF o lo 9
  match o.op with
  | 0 | 2 => [r 140, r 167]
  | 1 => [r 140]
  | 6 => [r 140, r 167, r 158, r 149]
  | 7 => r 140 :: List.range (64 + 32 * bodyF o 137 3)
  | 8 => [r 167]
  | _ => [r 140, r 167, r 158]

/-- The bytes of a range by the row of one channel, 1 KiB each: the first byte of each (R185). -/
def rowStarts (a n : Nat) : List Nat := (List.range ((a + n + 1023) / 1024 - a / 1024)).map fun i => (a / 1024 + i) * 1024

/-- A stack in self-refresh serves no access until the reference returns (R46, R47). -/
def stackRests (s : State) (a : Nat) : Bool := decide (a < 2 ^ 41) && s.mem.selfRefresh.toNat.testBit (a / 2 ^ 36)

/-- An outside access to a bank that an in-bank manifest runs in waits for a step boundary of that manifest, whose window serves it (R194). -/
def bankBusy (s : State) (a n : Nat) : Bool :=
  stackRests s a ||
  (decide (a < 2 ^ 41) &&
    (rowStarts a n).any fun x => s.ops.any fun o => inBankOn o && !o.suspended && s.mem.window ≠ some o.ticket && inBankNames o x)

/-- An outside write to a row that a manifest names as a source or destination waits until it ends (R194). -/
def rowHeld (s : State) (a n : Nat) : Bool :=
  decide (a < 2 ^ 41) &&
  (rowStarts a n).any fun x => s.ops.any fun o =>
    inBankOn o && inBankNames o x && (bodyF o 256 64).testBit (bf x 24 6) && (inBankRows o).contains (bf x 15 9)

/-- A row of DRAM at rest, or of a bank that an in-bank manifest names until it completes, pre-empted or not (R348). -/
def manifestOn (s : State) (a n : Nat) : Bool :=
  stackRests s a || (rowStarts a n).any fun x => s.ops.any fun o => inBankOn o && inBankNames o x

/-- An access waits at its banks. -/
def bankHolds (s : State) (write : Bool) (a n : Nat) : Bool := bankBusy s a n || (write && rowHeld s a n)

/-- A data access of the device's own memory by a context, checked (R80, R88, R381): aligned, inside the ranges,
granted. The result is the memory key of the address. -/
def ctxAccess (s : State) (c : CtxId) (write : Bool) (a : Word) (n align : Nat) : Except (Nat × Option Word) Nat :=
  if a.toNat % align ≠ 0 then .error (Cause.align, some a)
  else if !ctxMemOk s c (privOf (ctxGet s c)) write a.toNat n then .error (Cause.protect, some a)
  else .ok (memKey (c / 8) a.toNat)

/-- A read of memory by an instruction of a context, POISON included (R88). -/
def ctxRead (s : State) (c : CtxId) (a : Word) (n align : Nat) : Except (Nat × Option Word) Nat :=
  match ctxAccess s c false a n align with
  | .error e => .error e
  | .ok k => if poisoned s k n then .error (Cause.poison, some a) else .ok (memNum s k n)

/-- Recalls sent for lines held by hosts; a line under recall is not recalled again (R296). -/
def startRecalls (s : State) (ls : List Nat) : State :=
  ls.foldl (fun s l =>
    match s.cxd.dir.find? fun d => d.line.toNat = l with
    | none => s
    | some d =>
      if s.cxd.recalls.any fun r => r.line = d.line then s
      else { s with cxd := { s.cxd with
        recalls := s.cxd.recalls ++ [{ line := d.line, ld := d.ld, sent := s.clk.bell }],
        hostOut := s.cxd.hostOut ++ [.snoop d.ld d.line] } }) s

/-- The accesses that a tried work made, and the reads it names. -/
def accesses (t : State) (reads : List (Nat × Nat)) : List (Bool × Nat × Nat) :=
  reads.map (fun x => (false, x.1, x.2)) ++ t.mem.access.getD []

/-- A tried work must wait for a bank or for a named row (R194). -/
def banksHold (t : State) (l : List (Bool × Nat × Nat)) : Bool := l.any fun (w, a, n) => bankHolds t w a n

/-- The lines of hosts that a tried work writes (R296). -/
def linesHold (s : State) (l : List (Bool × Nat × Nat)) : List Nat := l.flatMap fun (w, a, n) => if w then recallNeeded s a n else []

/-- No work is being tried. -/
def noAccess (s : State) : State := { s with mem := { s.mem with access := none } }

/-- A work put among those that wait. -/
def holdWork (s : State) (w : Work) : State :=
  if s.mem.works.contains w then s else { s with mem := { s.mem with works := s.mem.works ++ [w] } }

/-- A tried work writes lines of an allocated extent that the device cannot recall (R288). -/
def extentHit (s : State) (l : List (Bool × Nat × Nat)) : Bool := l.any fun (w, a, n) => w && hdmHBlocked s a n

/-- A work refused under R288: an engine's ends its operation with PROTECT, an agent's is not done; the completion records that the device
owes and the poison that a host clears are not refused (log entry 133). -/
def workRefused (w : Work) (s : State) : Option State :=
  match w with
  | .run t => some (opEnd s t St.protect 0)
  | .keeper _ | .returns _ _ | .repair _ _ | .sweep _ | .pageScrub _ _ _ => some s
  | _ => none

/-- A state with the lines of memory that R288 keeps from the device's writes as they were. -/
def keepBlocked (s t : State) (l : List (Bool × Nat × Nat)) : State :=
  let lines := l.flatMap fun (w, a, n) => if w then (List.range ((a + n + 63) / 64 - a / 64)).map fun i => a / 64 + i else []
  (lines.filter fun x => hdmHBlocked s (64 * x) 64).foldl (fun t x =>
    let t := memWrite t (64 * x) (memRead s (64 * x) 64)
    if lineBad s x then poisonLine t x else t) t

/-- A work of the device whose writes to such lines are left out, the rest of it done (R288; log entry 133). -/
def leftOut : Work → Bool
  | .build _ | .plan _ | .qpRing _ | .walk _ | .qpFetch _ _ | .record _ | .indexEnd _ _ | .dead _ | .deadline _ | .stackLoss _ => true
  | .run _ | .ring _ _ _ | .sweep _ | .keeper _ | .returns _ _ | .repair _ _ | .rowScrub _ _ _ | .pageScrub _ _ _
  | .clear _ _ _ | .index _ _ _ | .reduce _ => false

/-- An engine's step under way at a loss of the reference runs to its end, stacks at rest or not (R46). -/
def awakeFor (s : State) (w : Work) (t : State) : State :=
  match w with
  | .run k => if !s.clk.refPresent && s.clk.underWay.contains k then { t with mem := { t.mem with selfRefresh := 0 } } else t
  | _ => t

/-- A work of the device on memory: where it writes what it may not recall it is refused, or the write left out (R288); it is tried; where
a bank it reads or writes is busy, or a row it writes is named by an in-bank manifest, it waits for a step boundary (R194); where it writes lines that hosts hold, they are recalled first (R296). The sequencer's
own accesses are not outside ones. -/
def tryWork (outside : Bool) (w : Work) (reads : List (Nat × Nat)) (f : State → State) (s : State)
    (no : State → Option State := workRefused w) : State :=
  let t := f { s with mem := { s.mem with access := some [] } }
  let l := accesses t reads
  let ls := linesHold s l
  match if extentHit s l then no s else none with
  | some r => r
  | none =>
    if outside && banksHold (awakeFor s w t) l then holdWork s w
    else if ls.isEmpty then noAccess (if leftOut w && extentHit s l then keepBlocked s t l else t)
    else holdWork (startRecalls s ls) w

/-- A work within another that is tried already is part of it. -/
def withinWork (w : Work) (f : State → State) (s : State) : State :=
  if s.mem.access.isSome then f s else tryWork true w [] f s

/-- The state of an effect, and the effect with another. -/
def After.state : After → State | .adv s | .jump s | .hold s | .exc s _ _ => s
def After.withState : After → State → After
  | .adv _, s => .adv s
  | .jump _, s => .jump s
  | .hold _, s => .hold s
  | .exc _ c fa, s => .exc s c fa

/-- An instruction's work on memory beyond a load or store: where it must wait its context is in WAIT, and does it anew (R194, R296).
One that takes an exception accesses nothing. -/
def ctxTry (c : CtxId) (wt : Wait) (reads : List (Nat × Nat)) (f : State → After) (s : State) : After :=
  match f { s with mem := { s.mem with access := some [] } } with
  | .exc t cause fa => .exc (noAccess t) cause fa
  | r =>
    let l := accesses r.state reads
    let ls := linesHold s l
    if banksHold r.state l then .hold (placeWait s c wt)
    else if ls.isEmpty then r.withState (noAccess r.state)
    else .hold (placeWait (startRecalls s ls) c wt)

end Sys2Proof.Machine
end

