-- ==== Sys2Proof/Machine/FlashMap.lean ====
section
/-! DEFINITION. The flash map: channels and targets in service, blocks, runs of logical granules, map entries and their
journal, the write buffer, the bytes of a granule (R307, R310 to R317, R322, R326). A place on flash is bits 61:24 of a
map entry; a block's key is its place without the page. -/
namespace Sys2Proof.Machine

/-- Blocks of a plane, at most 65,536, and pages of a block, at most 2,048 (R312; log entry 14). -/
def planeBlocks : Nat := min 65536 (max 1 Config.flashBlocks)
def blockPages : Nat := min 2048 (max 1 Config.flashPages)

def chGet (s : State) (c : Nat) : FlsCh := tget {} s.fls.ch c
def chSet (s : State) (c : Nat) (x : FlsCh) : State := { s with fls := { s.fls with ch := tset {} s.fls.ch c x } }
def blkGet (s : State) (b : Nat) : BlockRec := tget {} s.fls.blocks b
def blkSet (s : State) (b : Nat) (x : BlockRec) : State := { s with fls := { s.fls with blocks := tset {} s.fls.blocks b x } }

/-- A channel in service. -/
def chanIn (s : State) (c : Nat) : Bool := (chGet s c).en && !(chGet s c).failed && unitIn s (uid 14 c)

/-- A channel whose training or calibration failed is retired, as FLS_CHCTL.failed reports (R49, R309, R402). -/
def failChannel (s : State) (c : Nat) : State := retireUnit (chSet s c { chGet s c with failed := true }) (uid 14 c)

/-- The rail of a channel carries the voltage of its interface, by the last reading within 5% of it: 0.60 V for NV-LPDDR4, 1.20 V for
NV-DDR3 (R400, R402). DESIGN CHOICE (log entry 118): a rail that no reading has measured disagrees with nothing. -/
def railAgrees (s : State) (c : Nat) : Bool :=
  match s.pwr.last.railMv[7 + c / 8]? with
  | none => true
  | some mv => let v := if (chGet s c).iface = 0 then 600 else 1200; decide (v * 95 ≤ mv * 100) && decide (mv * 100 ≤ v * 105)

/-- A channel is set to one of the timing modes of R308: NV-DDR3 at n = 9 only. -/
def modeListed (s : State) (c : Nat) : Bool := (chGet s c).iface = 0 || (chGet s c).n = 9

/-- The training of a channel that is taken into use (R402): whether its parts train is a free value (R309; log entry 3). DESIGN CHOICE
(log entry 136): set to a mode that R308 does not list, it fails. -/
def trainChannel (s : State) (c : Nat) : State :=
  let t := { s with free := s.free + 1 }
  if railAgrees s c && modeListed s c && Config.channelTrains c s.free then t else failChannel t c

/-- The channels in service, ascending (R316). -/
def chans (s : State) : List Nat := below 16 (chanIn s)

/-- A target, channel × 8 + target, that the board has. -/
def targetOn (s : State) (t : Nat) : Bool := chanIn s (t / 8) && decide (t % 8 ≤ (chGet s (t / 8)).tcode.toNat)

/-- A target that takes writes (R325). -/
def targetIn (s : State) (t : Nat) : Bool := targetOn s t && unitIn s (uid 15 t) && !s.fls.noWrite.contains t

/-- A target whose granules can be read: in service, or retired for want of a SPARE block only (R325). -/
def targetReads (s : State) (t : Nat) : Bool := chanIn s (t / 8) && (unitIn s (uid 15 t) || s.fls.noWrite.contains t)

/-- The planes of a target: keys of block 0 of each. -/
def planesOf (s : State) (t : Nat) : List Nat :=
  let c := chGet s (t / 8)
  (List.range (c.lcode.toNat + 1)).flatMap fun l =>
    (List.range (min 4 (2 ^ c.pcode.toNat))).map fun p => t * 2 ^ 20 + l * 2 ^ 18 + p * 2 ^ 16

/-- The blocks of a target, by rising key. -/
def blocksOf (s : State) (t : Nat) : List Nat :=
  (planesOf s t).flatMap fun p => (List.range planeBlocks).map fun b => p + b

/-- A good block: not BAD, nor found BAD as shipped by a first start still to come (R311, R324; log entry 42). -/
def goodBlock (s : State) (b : Nat) : Bool := (blkGet s b).state ≠ 3 && !Config.shippedBad b

/-- The SPARE blocks that a target's first start sets aside (R324). -/
def spareCount (blocks : Nat) : Nat := max 16 (ceilDiv blocks 50)

/-- The element of least rank, the first of equals. -/
def leastBy (f : Nat → Nat) : List Nat → Option Nat
  | [] => none
  | x :: r => match leastBy f r with | none => some x | some y => if f x ≤ f y then some x else some y

/-- The next page of the OPEN block of some blocks, or of the FREE block of least (for collection: most) wear, which
opens (R316, R322). -/
def takePage (s : State) (bs : List Nat) (cold : Bool) : Option (Nat × State) :=
  let give (b : Nat) (x : BlockRec) : Nat × State :=
    (b * 2 ^ 11 + x.used, blkSet s b { x with used := x.used + 1, state := 1, cold := cold })
  match bs.find? fun b => let x := blkGet s b; x.state = 1 && x.cold = cold && decide (x.used < blockPages) with
  | some b => some (give b (blkGet s b))
  | none =>
    let rank (b : Nat) : Nat := if cold then 2 ^ 24 - (blkGet s b).erases.toNat else (blkGet s b).erases.toNat
    (leastBy rank (bs.filter fun b => (blkGet s b).state = 0)).map fun b => give b { blkGet s b with used := 0 }

/-- The planes of a channel's targets that take writes, in the order of its round robin. -/
def channelPlanes (s : State) (c : Nat) : List Nat :=
  ((List.range 8).filter fun i => targetIn s (c * 8 + i)).flatMap fun i => planesOf s (c * 8 + i)

/-- A page for a new granule on a channel: round robin over its planes (R316). -/
def takeOnChannel (s : State) (c : Nat) : Option (Nat × State) :=
  let ps := channelPlanes s c
  let t := tget 0 s.fls.turn c
  (List.range ps.length).findSome? fun i =>
    let k := (t + i) % ps.length
    (takePage s ((List.range planeBlocks).map fun b => ps.getD k 0 + b) false).map fun (pl, s) =>
      (pl, { s with fls := { s.fls with turn := tset 0 s.fls.turn c ((k + 1) % ps.length) } })

/-! ## The map (R311, R312, R314) -/

def mapAddr (s : State) (lg : Nat) : Nat := s.fls.mapBase.toNat * 2 ^ 12 + 8 * lg
def mapEntry (s : State) (lg : Nat) : Nat := memNum s (mapAddr s lg) 8
def entValid (e : Nat) : Bool := e.testBit 63
def entBuf (e : Nat) : Bool := e.testBit 62
def entPlace (e : Nat) : Nat := bf e 24 38
def entSlot (e : Nat) : Nat := bf e 0 19

/-- A journal record as 16 bytes (R314). -/
def jrecNum (r : JRec) : Nat := r.lgran.toNat * 2 ^ 80 + r.entry.toNat * 2 ^ 16 + r.seq.toNat

/-- The records that the open journal's 4 MiB of the staging region hold (R314, R326). -/
abbrev journalRoom : Nat := 2 ^ 18

/-- One more, or one fewer, valid granule in a block. -/
def addValid (s : State) (b : Nat) (up : Bool) : State :=
  let x := blkGet s b
  blkSet s b { x with valid := if up then x.valid + 1 else x.valid - 1 }

/-- A granule programmed: the next write sequence (R310). -/
def programGranule (s : State) (place : Nat) (g : FlashGran) : State :=
  { s with fls := { s.fls with wseq := s.fls.wseq + 1, grans := tins place g (tdel s.fls.grans place) } }

/-- The target of a block or of a place. -/
def targetOfBlock (b : Nat) : Nat := b / 2 ^ 20
def blockOfPlace (pl : Nat) : Nat := pl / 2 ^ 11

/-- A block that is full, with no program for it waiting, is CLOSED (R313). -/
def closeIfFull (s : State) (b : Nat) : State :=
  let x := blkGet s b
  if x.state = 1 && decide (blockPages ≤ x.used) && !s.fls.wbuf.any fun w => blockOfPlace w.place = b then
    blkSet s b { x with state := 2, closed := s.clk.bell.setWidth 48 }
  else s

/-- A granule of the layer's own programmed (R310): none where no channel takes writes. -/
def programMeta (s : State) (kind : Nat) (data : List Byte) : Option (Nat × State) :=
  ((chans s).findSome? (takeOnChannel s)).map fun (pl, s) =>
    let s := programGranule s pl { lgran := 0, seq := s.fls.wseq, kind := BitVec.ofNat 4 kind, data := data }
    (pl, closeIfFull (addValid s (blockOfPlace pl) true) (blockOfPlace pl))

/-- The first 1,024 records of the open journal written to a journal granule, the rest of it left erased. -/
def writeJournalGranule (s : State) : Option State :=
  let rs := s.fls.journal.take 1024
  let data := rs.flatMap (fun r => leBytes 16 (jrecNum r)) ++ List.replicate (16384 - 16 * rs.length) 0xFF
  (programMeta s 1 data).map fun (pl, s) =>
    { s with fls := { s.fls with journal := s.fls.journal.drop 1024, jwritten := s.fls.jwritten ++ [pl] } }

/-- A map entry changed, with its record in the open journal of the staging region (R314, R326): where the journal's room is full, its
oldest 1,024 records are written first. DESIGN CHOICE (log entry 165): where no page takes them either, the change has no record, and a
snapshot pass is due. -/
def setMap (s : State) (lg e : Nat) : State :=
  let s := if s.fls.journal.length < journalRoom then s else (writeJournalGranule s).getD s
  let s := memWriteNum s (mapAddr s lg) 8 e
  if journalRoom ≤ s.fls.journal.length then { s with fls := { s.fls with jover := true } }
  else
  let r : JRec := { lgran := BitVec.ofNat 48 lg, entry := BitVec.ofNat 64 e, seq := BitVec.ofNat 16 s.fls.jseq }
  let s := if s.fls.stage = 0 then s
    else memWriteNum s (s.fls.stage.toNat * 2 ^ 22 + 16 * (s.fls.jseq % journalRoom)) 16 (jrecNum r)
  { s with fls := { s.fls with jseq := s.fls.jseq + 1, journal := s.fls.journal ++ [r] } }

/-- A granule's mapping ended: its entry invalid, its buffer slot freed. -/
def invalidate (s : State) (lg : Nat) : State :=
  let e := mapEntry s lg
  if !entValid e then s
  else
    let s := addValid (setMap s lg 0) (entPlace e / 2 ^ 11) false
    if entBuf e then
      closeIfFull { s with fls := { s.fls with wbuf := s.fls.wbuf.filter fun w => w.lgran ≠ lg } } (blockOfPlace (entPlace e))
    else s

/-- The least power of two at least n. -/
def pow2Above (n : Nat) : Nat := if n ≤ 1 then 1 else 2 ^ (Nat.log2 (n - 1) + 1)

/-- The lowest free run of g granules in a partition's range, aligned to the least power of two at least g (R311). -/
def findRun (s : State) (p : Part) (g : Nat) : Option Nat :=
  let count := s.fls.mapCount.toNat
  let split := min s.fls.mapSplit.toNat count
  let lo := if p = 0 then 0 else split
  let hi := if p = 0 then split else count
  let al := pow2Above g
  let tries := (s.fls.runs.map fun r => r.2 + 2).foldl (· + ·) 1
  ((List.range tries).map fun i => (ceilDiv lo al + i) * al).find? fun x =>
    decide (x + g ≤ hi) && !s.fls.runs.any fun r => decide (x < r.1 + r.2) && decide (r.1 < x + g)

def addRun (s : State) (x g : Nat) : State := { s with fls := { s.fls with runs := s.fls.runs ++ [(x, g)] } }

/-- A run's map entries invalidated and the run freed (R318, R170). -/
def freeRun (s : State) (x g : Nat) : State :=
  let s := (List.range g).foldl (fun s i => invalidate s (x + i)) s
  { s with fls := { s.fls with runs := s.fls.runs.filter fun r => !(decide (x ≤ r.1) && decide (r.1 < x + g)) } }

/-! ## The write buffer and the bytes of a granule (R310, R316, R326) -/

/-- FLS_STAGE is set (R326). -/
def stageSet (s : State) : Bool := s.fls.stage ≠ 0

/-- The address of a write-buffer slot: after the open journal's 4 MiB and the block metadata's 1 MiB (R326). -/
def slotAddr (s : State) (k : Nat) : Nat := s.fls.stage.toNat * 2 ^ 22 + 5 * 2 ^ 20 + k * 16384

/-- The free slots of the write buffer, lowest first, at most n. -/
def freeSlotsOf (s : State) (n : Nat) : List Nat :=
  let used := s.fls.wbuf.map fun w => w.slot
  let all := min (s.fls.wmax.toNat * 64) (n + used.length)
  ((List.range all).filter fun k => !used.contains k).take n

/-- A granule put into the write buffer for a place on flash, its map entry written with buf = 1 (R315, R316); one that found no slot is
programmed already (log entry 152). -/
def bufferGranule (s : State) (lg : Nat) (slot : Option Nat) (place : Nat) (data : List Byte) : State :=
  match slot with
  | none =>
    let s := programGranule s place { lgran := BitVec.ofNat 48 lg, seq := s.fls.wseq, kind := 0, data := data }
    closeIfFull (addValid (setMap s lg (2 ^ 63 + place * 2 ^ 24)) (blockOfPlace place) true) (blockOfPlace place)
  | some slot =>
  let s := memWrite s (slotAddr s slot) data
  let s := { s with fls := { s.fls with wbuf := s.fls.wbuf ++ [{ slot := slot, lgran := lg, place := place }] } }
  addValid (setMap s lg (2 ^ 63 + 2 ^ 62 + place * 2 ^ 24 + slot)) (place / 2 ^ 11) true

/-- Undefined bytes: a free value (R102, R321; log entry 3). -/
def undefinedBytes (s : State) (n : Nat) : List Byte × State :=
  ((List.range n).map (Config.freeByte s.free), { s with free := s.free + 1 })

/-- The fault record of an uncorrectable granule at a place (R320, R346). -/
def raiseUncorr (s : State) (lg place : Nat) : State := raise s 0x16 2 (uid 15 (place / 2 ^ 31)) 0 lg

/-- A page of a block read (R313). -/
def countRead (s : State) (b : Nat) : State :=
  let x := blkGet s b
  blkSet s b { x with reads := BitVec.ofNat 24 (satAdd 24 x.reads.toNat 1) }

/-- The bytes of a logical granule (R316, R320, R321): from the write buffer, or from flash; what is not mapped or does
not decode is undefined, and an uncorrectable granule raises its record. -/
def granuleBytes (s : State) (lg : Nat) : List Byte × State :=
  let e := mapEntry s lg
  if !entValid e then undefinedBytes s 16384
  else if entBuf e then (memRead s (slotAddr s (entSlot e)) 16384, s)
  else if !targetReads s (entPlace e / 2 ^ 31) then undefinedBytes (raiseUncorr s lg (entPlace e)) 16384
  else
    let s := countRead s (entPlace e / 2 ^ 11)
    match s.fls.grans.find? fun g => g.1 = entPlace e with
    | some (_, g) =>
      if g.kind = 0 && g.lgran.toNat = lg then (g.data, s) else undefinedBytes (raiseUncorr s lg (entPlace e)) 16384
    | none => undefinedBytes (raiseUncorr s lg (entPlace e)) 16384

/-- A logical granule whose bytes are defined: it is mapped, and buffered or decodes (R320, R321, R325). -/
def granuleWhole (s : State) (lg : Nat) : Bool :=
  let e := mapEntry s lg
  entValid e && (entBuf e || (targetReads s (entPlace e / 2 ^ 31) &&
    s.fls.grans.any fun g => g.1 = entPlace e && g.2.kind = 0 && g.2.lgran.toNat = lg))

/-- A page whose n granules are all defined; one with another fails verification (R320, R321, R325). -/
def granulesWhole (s : State) (lg n : Nat) : Bool := (List.range n).all fun i => granuleWhole s (lg + i)

/-- The bytes of n granules in order. -/
def granulesFrom (s : State) (lg : Nat) : Nat → List Byte × State
  | 0 => ([], s)
  | n + 1 =>
    let (b, s) := granuleBytes s lg
    let (r, s) := granulesFrom s (lg + 1) n
    (b ++ r, s)

end Sys2Proof.Machine
end

