-- ==== Sys2Proof/Machine/Tree.lean ====
section
/-! DEFINITION. The reading of page table entries and group records as words of memory (R137, R138, R167). -/
namespace Sys2Proof.Machine

/-- A table word; a poisoned one reads as zero, which is not valid (log entry 15). -/
def tabNum (s : State) (a n : Nat) : Nat := if poisoned s a n then 0 else memNum s a n

/-- The page table entry of a layer in a group table (R137). -/
def pteAddr (gt l : Nat) : Nat := gt + 64 + 16 * l
def getPte (s : State) (gt l : Nat) : Nat := tabNum s (pteAddr gt l) 16

/-- Fields of a page table entry (R138). -/
def peKind (e : Nat) : Nat := bf e 0 3
def peCv (e : Nat) : Bool := e.testBit 3
def peWhere (e : Nat) : Nat := bf e 16 80
def peGroup (e : Nat) : Nat := bf e 96 24
def peAge (e : Nat) : Nat := bf e 120 8
def peFill (e : Nat) : Nat := bf e 87 9
def peStack (e : Nat) : Nat := bf e 43 5
def peGran (e : Nat) : Nat := bf e 21 22
def peSlot (e : Nat) : Nat := bf e 91 5
def peSub (e : Nat) : Nat := bf e 71 20

/-- Group records of a partition (R167). -/
def recCount (s : State) (p : Part) : Nat := (tget 0 s.wlk.kcount p.val).toNat * 1024
def recAddr (s : State) (p : Part) (n : Nat) : Nat := (tget 0 s.wlk.poolBase p.val).toNat * 2 ^ 22 + 16 * n

/-- A group record; zero, which is free, where there is none. -/
def getRec (s : State) (p : Part) (n : Nat) : Nat := if n < recCount s p then tabNum s (recAddr s p n) 16 else 0
def rcGt (v : Nat) : Nat := bf v 70 58 * 64
def rcIndexed (v : Nat) : Bool := v.testBit 66
def rcPlace (v : Nat) : Nat := bf v 64 2
def rcLive (v : Nat) : Nat := bf v 32 32
def rcRefs (v : Nat) : Nat := bf v 0 32

end Sys2Proof.Machine
end

