-- ==== Sys2Proof/Machine/Wire.lean ====
section
/-! DEFINITION. Sending over Isandi: the ports and their credits, the map edition, the live set, requests and their tags,
responses (R241 to R247, R251, R253 to R255, R260 to R263). -/
namespace Sys2Proof.Machine

def portGet (s : State) (p : Nat) : Port := tget {} s.isf.ports p
def portSet (s : State) (p : Nat) (x : Port) : State := { s with isf := { s.isf with ports := tset {} s.isf.ports p x } }

/-- The up ports in ascending physical order (R251); Isandi port p is SerDes port p + 1 (R241). -/
def upPorts (s : State) : List Nat :=
  [0, 1, 2, 3].filter fun p => (portGet s p).up && !(portGet s p).failed && unitIn s (uid 12 (p + 1))

/-- The header of a packet as a number (R245). -/
def headerNum (k : Packet) : Nat :=
  k.off.toNat * 2 ^ 206 + k.dst.toNat * 2 ^ 192 + k.src.toNat * 2 ^ 178 + k.vc.toNat * 2 ^ 176 + k.tally.toNat * 2 ^ 164 +
  boolNat k.talEn * 2 ^ 163 + getF k.resv 3 3 * 2 ^ 160 + k.edition.toNat * 2 ^ 128 + k.tag.toNat * 2 ^ 96 + k.op.toNat * 2 ^ 88 +
  k.status.toNat * 2 ^ 80 + k.len.toNat * 2 ^ 67 + getF k.resv 0 3 * 2 ^ 64 + k.arg.toNat

/-- The bytes of a packet: its little-endian header, then its payload (R5, R245). -/
def packetBytes (k : Packet) : List Byte := leBytes 32 (headerNum k) ++ k.data

/-- The packet that bytes hold. -/
def packetOf (bs : List Byte) : Packet :=
  let h := ofLe (bs.take 32)
  { off := BitVec.ofNat 50 (bf h 206 50), dst := BitVec.ofNat 14 (bf h 192 14), src := BitVec.ofNat 14 (bf h 178 14),
    vc := BitVec.ofNat 2 (bf h 176 2), tally := BitVec.ofNat 12 (bf h 164 12), talEn := h.testBit 163,
    edition := BitVec.ofNat 32 (bf h 128 32), tag := BitVec.ofNat 32 (bf h 96 32), op := BitVec.ofNat 8 (bf h 88 8),
    status := BitVec.ofNat 8 (bf h 80 8), len := BitVec.ofNat 13 (bf h 67 13),
    resv := BitVec.ofNat 6 (bf h 160 3 * 8 + bf h 64 3), arg := BitVec.ofNat 64 (bf h 0 64),
    data := (bs.drop 32).take (bf h 67 13) }

/-- The flits that n more bytes of a channel begin, where the last flit has bytes taken (R242). DESIGN CHOICE (log entry 121):
packets of one channel share a flit until a control flit passes at the port. -/
def newFlits (taken n : Nat) : Nat := ceilDiv (taken + n) 240 - (if taken = 0 then 0 else 1)

/-- Flits in the replay buffer of a port: from the first of its oldest packet on. -/
def unackedFlits (x : Port) : Nat :=
  match x.unacked with
  | [] => 0
  | u :: _ => (x.txSeq - 1 - u.last).toNat + ceilDiv (u.taken + (packetBytes u.out.pkt).length) 240

/-- A packet as it leaves: a hand-off record carries the time left to its deadline as it is now (R17, R126). -/
def leaving (s : State) (o : OutPkt) : OutPkt :=
  if o.pkt.op = 0x0A then
    let d := o.pkt.data
    { o with pkt := { o.pkt with data := d.take 64 ++ leBytes 8 (nsLeft s (bf (ofLe (d.take 64)) 64 48)) ++ d.drop 72 } }
  else o

/-- The device's node number (R390). -/
def ownNode (s : State) : Node := s.isf.node

/-- A packet dropped and counted (R245). -/
def dropPacket (s : State) : State :=
  { s with isf := { s.isf with drop := BitVec.ofNat 64 (satAdd 64 s.isf.drop.toNat 1) } }

/-- The node of a node entry; none where it is not valid (R260). -/
def nodeOf (e : Half) : Option Node := if e.toNat.testBit 15 then some (e.setWidth 14) else none

/-- The node of a reach slot. -/
def slotNode (s : State) (k : Nat) : Option Node := nodeOf (tget 0 s.isf.map.reach k)

/-- The reach slots that name a node. -/
def slotsOf (s : State) (n : Node) : List Nat := below 32 fun k => slotNode s k = some n

/-- The live set of reach slots (R263). -/
def liveSet (s : State) : W32 := if s.isf.memb.mode then s.isf.memb.members else s.isf.memb.live

/-- The committed view, or in mode 0 the live set, excludes a node (R253, R263). -/
def excluded (s : State) (n : Node) : Bool :=
  (!s.isf.memb.mode || s.isf.memb.view ≠ 0) && !(slotsOf s n).isEmpty &&
  (slotsOf s n).all fun k => !(liveSet s).toNat.testBit k

/-- An edition at the target: current or previous (R262). -/
def editionServed (s : State) (e : W32) : Bool := e = s.isf.map.edition || e = s.isf.map.prev

/-- Edition e is newer than edition c (R261). -/
def editionNewer (e c : W32) : Bool := newer 32 e.toNat c.toNat

/-- Bell counts of a time in microseconds, rounded up: the bell counts 400 ÷ div times a microsecond (R41, R44). -/
def bellUs (s : State) (us : Nat) : Nat := ceilDiv (us * 400) s.clk.div.toNat

/-- The dead-target bound in bell counts (R253). -/
def deadBound (s : State) : Nat := bellUs s s.isf.deadUs.toNat

/-- The DEAD_TARGET record of a node, at most one a millisecond (R253, R346). -/
def deadRecord (s : State) (n : Node) : State :=
  match s.isf.deadSeen.find? fun x => x.1 = n.toNat with
  | some (_, b) =>
    if s.clk.bell.toNat < b.toNat + bellUs s 1000 then s
    else raise { s with isf := { s.isf with deadSeen := tins n.toNat s.clk.bell (tdel s.isf.deadSeen n.toNat) } } 0x0D 2 0 n.toNat 1
  | none => raise { s with isf := { s.isf with deadSeen := tins n.toNat s.clk.bell s.isf.deadSeen } } 0x0D 2 0 n.toNat 1

/-- A new landing packet waits while one to its destination, sent before the number of up ports last changed, is unanswered; one sent before
is not new (R251, R255). -/
def landingBlocked (s : State) (o : OutPkt) : Bool :=
  o.landing && !(s.isf.out.any fun r => r.pkt = o && r.ups ≠ 0) && s.isf.out.any fun r =>
    r.pkt.landing && r.ups ≠ 0 && r.stale && r.pkt.pkt.dst = o.pkt.dst && r.pkt.pkt.tag ≠ o.pkt.tag

/-- The operation that a packet toward its destination commits (R92, R265). -/
def commits : Owner → Option Ticket
  | .ferryWrite t _ _ | .atomic t _ | .reduce t | .inval t => some t
  | .ferryRead _ _ _ | .hand _ | .load _ _ _ | .store _ | .index _ _ | .removal _ | .share _ _ | .boot _ _ => none

/-- The operation of a packet that leaves committed by it (R92, R265). -/
def commitBy (s : State) (o : OutPkt) : State :=
  match (s.isf.out.find? fun r => r.pkt = o).bind fun r => commits r.owner with
  | some t => opCommit s t
  | none => s

/-- The port that a DATA packet of a queue pair leaves on, noted for its retransmission (R276). -/
def notePort (s : State) (o : OutPkt) (p : Nat) : State :=
  let h := ofLe (o.pkt.data.take 32)
  if o.pkt.op ≠ 0x0C || o.pkt.arg.toNat % 16 ≠ 0 then s
  else { s with qpe := { s.qpe with
    pkts := updFirst (fun q => q.qpn.toNat = bf h 124 14 && q.psn.toNat = bf h 224 32) (fun q => { q with port := some p }) s.qpe.pkts } }

/-- The transmission of a packet: the port it goes on, with credits for every flit of its channel and room in the replay
buffer (R243, R251, R254); none while it must wait. -/
def transmit (s : State) (o : OutPkt) : Option State :=
  let ups := upPorts s
  let v := o.pkt.vc.toNat
  let n := (packetBytes o.pkt).length
  match ups[o.route % ups.length]? with
  | none => none
  | some p =>
    let x := portGet s p
    let c := x.credits.getD v 0
    let taken := if x.txVc = v then x.txOpen else 0
    let f := newFlits taken n
    if c < f || 512 < unackedFlits x + f || landingBlocked s o then none
    else
      let x := { x with txSeq := x.txSeq + BitVec.ofNat 10 f, credits := x.credits.set v (c - f),
                        unacked := x.unacked ++ [{ last := x.txSeq + BitVec.ofNat 10 f - 1, taken := taken, out := leaving s o }],
                        txOpen := (taken + n) % 240, txVc := v }
      let s := notePort (commitBy (portSet s p x) o) o p
      let out := updFirst (fun r => r.pkt.pkt.tag = o.pkt.tag && r.pkt = o)
        (fun r => if r.ups = 0 then { r with ups := ups.length, sent := s.clk.bell } else r)
        s.isf.out
      some { s with isf := { s.isf with wire := s.isf.wire ++ [leaving s o], out := out } }

/-- The waiting packets sent in order; one does not overtake another of its channel and destination. -/
def pumpList (s : State) (kept : List OutPkt) : List OutPkt → State × List OutPkt
  | [] => (s, kept)
  | o :: r =>
    if kept.any fun k => k.pkt.vc = o.pkt.vc && k.pkt.dst = o.pkt.dst then pumpList s (kept ++ [o]) r
    else match transmit s o with
      | none => pumpList s (kept ++ [o]) r
      | some t => pumpList t kept r

def pump (s : State) : State :=
  let (t, kept) := pumpList { s with isf := { s.isf with heldPkts := [] } } [] s.isf.heldPkts
  { t with isf := { t.isf with heldPkts := kept } }

/-- A packet handed to the ports. -/
def sendPacket (s : State) (o : OutPkt) : State :=
  pump { s with isf := { s.isf with heldPkts := s.isf.heldPkts ++ [o] } }

/-- A request sent, with the next tag, and remembered until it is answered (R245, R253). Its port is picked by its tag
(R254), a landing request's by its destination (R251). To an excluded node nothing is sent: the request ends at once (R253). -/
def sendRequest (s : State) (owner : Owner) (landing : Bool) (k : Packet) (ix : Option IndexBody := none) : State :=
  let tag := s.isf.nextTag
  let k := { k with src := ownNode s, tag := tag, len := BitVec.ofNat 13 k.data.length }
  let o : OutPkt := { pkt := k, index := ix, route := if landing then k.dst.toNat else tag.toNat, landing := landing }
  let s := { s with isf := { s.isf with
    nextTag := tag + 1, out := s.isf.out ++ [{ pkt := o, sent := s.clk.bell, owner := owner }] } }
  if excluded s k.dst then s else sendPacket s o

/-- The response to a request (R245): its tag and offset echoed; a MOVED response carries the current edition. -/
def response (s : State) (k : Packet) (op : Nat) (st : Byte) (arg : Word) (data : List Byte) : OutPkt :=
  { pkt := { off := k.off, dst := k.src, src := ownNode s, vc := 1, tag := k.tag, op := BitVec.ofNat 8 op, status := st,
             edition := if st = St.moved then s.isf.map.edition else k.edition, arg := arg, data := data,
             len := BitVec.ofNat 13 data.length },
    route := k.tag.toNat }

def respond (s : State) (k : Packet) (op : Nat) (st : Byte) (arg : Word := 0) (data : List Byte := []) : State :=
  sendPacket s (response s k op st arg data)

/-- The request of a tag that waits for its answer. -/
def outReq (s : State) (tag : W32) : Option OutReq := s.isf.out.find? fun r => r.pkt.pkt.tag = tag

/-- A request taken out of those that wait. -/
def outDel (s : State) (tag : W32) : State :=
  pump { s with isf := { s.isf with
    out := s.isf.out.filter fun r => r.pkt.pkt.tag ≠ tag,
    heldPkts := s.isf.heldPkts.filter fun o => !(o.pkt.tag = tag && o.pkt.src = ownNode s && o.pkt.vc ≠ 1) } }

/-- The remembered response of an applied request (R247). -/
def remembered (s : State) (src : Node) (tag : W32) : Option OutPkt :=
  (s.isf.remembered.find? fun r => r.src = src && r.tag = tag &&
    decide (s.clk.bell.toNat < r.bell.toNat + deadBound s)).map fun r => r.resp

/-- A request applied: its response remembered for the dead-target bound, and sent (R247). -/
def rememberAndSend (s : State) (src : Node) (tag : W32) (o : OutPkt) : State :=
  let live := s.isf.remembered.filter fun r =>
    decide (s.clk.bell.toNat < r.bell.toNat + deadBound s) && !(r.src = src && r.tag = tag)
  sendPacket { s with isf := { s.isf with remembered := live ++ [{ src := src, tag := tag, resp := o, bell := s.clk.bell }] } } o

/-- The shard of a digest by bucket (R160); none where the bucket entry is not valid. DESIGN CHOICE (log entry 163): a request under
the previous edition, too, goes by the present map, as no earlier one is kept. -/
def shardOf (s : State) (digest : Nat) : Option Node := nodeOf (tget 0 s.isf.map.buckets (digest / 2 ^ 116 % 4096))

/-! ## Arrival (R243, R246, R262, R381) -/

/-- A port is up, so packets arrive. -/
def fabricUp (s : State) : Bool := linkOn s && !(upPorts s).isEmpty

/-- n added at one place of a list of four numbers. -/
def addAt (v n : Nat) (l : List Nat) : List Nat := [0, 1, 2, 3].map fun i => l.getD i 0 + (if i = v then n else 0)

/-- A control flit sent: every flit received is acknowledged, the credits of the flits taken are returned (R243). -/
def sendControl (s : State) (p : Nat) (nak : Bool) : State :=
  let x := portGet s p
  let f : CtlFlit := { ack := x.rxSeq - 1, nak := nak, credits := addAt 0 0 x.rxFreed }
  let s := portSet s p { x with rxUnacked := 0, rxFreed := [], txOpen := 0 }
  { s with isf := { s.isf with ctlOut := s.isf.ctlOut ++ [(p, f)] } }

/-- The flits of the bytes of an arrived packet: received on the port that the sender's striping gives (log entry 29); after 64 payload
flits a control flit acknowledges them (R243). -/
def arrive (s : State) (vc : Nat) (tag : W32) (bytes : Nat) : State :=
  let ups := upPorts s
  match ups[tag.toNat % ups.length]? with
  | none => s
  | some p =>
    let x := portGet s p
    let taken := if x.rxVc = vc then x.rxOpen else 0
    let n := newFlits taken bytes
    let s := portSet s p { x with rxSeq := x.rxSeq + BitVec.ofNat 10 n, rxUnacked := x.rxUnacked + n,
                                  rxFreed := addAt vc n x.rxFreed, nakSent := false,
                                  rxOpen := (taken + bytes) % 240, rxVc := vc }
    if 64 ≤ x.rxUnacked + n then sendControl s p false else s

/-- The level of an inbound request of a node (R381): of the NODE entry that covers it, the highest where several do; a
reach-table member without one is at tenant level; none is refused. -/
def inLevel (s : State) (src : Node) : Option Nat :=
  let cover := s.sec.prot.filter fun (_, e) =>
    getF e 44 2 = 2 && decide (getF e 114 14 ≤ src.toNat) && decide (src.toNat ≤ getF e 100 14)
  if cover.isEmpty then (if (slotsOf s src).isEmpty then none else some 0)
  else
    match (cover.map fun (_, e) => getF e 46 2).filter fun l => l ≠ 3 with
    | [] => none
    | l :: r => some (r.foldl max l)

/-- A fabric access of an operation to a node passes (R250, R381, R390). -/
def nodePermits (s : State) (o : Op) (n : Node) (write : Bool) : Bool :=
  s.isf.nodeValid &&
  (o.level = 2 || n = ownNode s || !(slotsOf s n).isEmpty ||
    nodeEntry s n.toNat fun e =>
      (getF e 52 2 = 2 || getF e 52 2 = o.ctxPart.val) && levelMeets (if write then getF e 48 2 else getF e 50 2) o.level.toNat)

/-- The requests of an operation that wait for their answers dropped. -/
def dropOwned (s : State) (f : Owner → Bool) : State :=
  (s.isf.out.filter fun r => f r.owner).foldl (fun s r => outDel s r.pkt.pkt.tag) s

/-- A request sent again with its tag (R247, R255). -/
def resend (s : State) (tag : W32) : State :=
  match outReq s tag with
  | none => s
  | some r =>
    let s := { s with isf := { s.isf with
      out := updFirst (fun x => x.pkt.pkt.tag = tag) (fun x => { x with resend := none, again := true }) s.isf.out } }
    sendPacket s r.pkt

/-- A request marked to wait before it is sent again: 10 µs for its edition, 5 µs for a busy reduction (R256, R262). -/
def holdResend (s : State) (tag : W32) (edition : Bool) : State :=
  { s with isf := { s.isf with
    out := updFirst (fun x => x.pkt.pkt.tag = tag) (fun x => { x with resend := some edition }) s.isf.out } }

end Sys2Proof.Machine
end

