-- ==== Sys2Proof/Machine/Post.lean ====
section
/-! DEFINITION. Posting: the checks of a posted instruction, the copy of its manifest, its ticket and its operation; and
what every engine does with a launched operation (R57, R61, R63 to R67, R69, R86, R92). -/
namespace Sys2Proof.Machine

/-- The format checks of a posted instruction (R61): ord only with the may-vary mark, no reserved launch condition, no
launch pair at an odd register. -/
def postFormatOk (mayVary : Bool) (w : Ins128) : Bool :=
  w.len && w.resv = 0 && (mayVary || !w.ord) && decide (w.whn.toNat ≤ 4) &&
  !((w.whn = 3 || w.whn = 4) && w.sc.toNat % 2 = 1)

/-- An address range that a manifest names: whether it is written, its start and its length. -/
abbrev Named := List (Bool × Nat × Nat)

/-- The addresses that an operation names pass the protection check at its level and partition (R54, R381). -/
def addrsOk (s : State) (o : Op) (l : Named) : Bool :=
  l.all fun (w, a, n) => opMemOk s o.level.toNat o.ctxPart w a n

/-- A fabric address. -/
def fabNode (a : Nat) : Node := BitVec.ofNat 14 (a / 2 ^ 50)
def fabOff (a : Nat) : Nat := a % 2 ^ 50

/-- The member slots of a multicast group. -/
def groupSlotsOf (s : State) (g : Nat) : List Nat := below 32 fun k => (tget 0 s.isf.map.groups g).toNat.testBit k

/-- The target of FATOM, and the tally of this device that it is (R246). -/
def faTarget (o : Op) : Nat := bodyF o 320 64
def faTally (s : State) (o : Op) : Option Nat :=
  if fabNode (faTarget o) = ownNode s then
    match placeOf s (fabOff (faTarget o)) 8 with | .tally i => some i | _ => none
  else none

def fiGrp (o : Op) : Bool := o.body.toNat.testBit 200
def fiN (o : Op) : Nat := bodyF o 201 7 + 1

/-- The list of holders of an FINV can be read. -/
def fiListed (s : State) (o : Op) : Bool := fiGrp o || !poisoned s (bodyF o 256 64) (2 * fiN o)

/-- The holders that an FINV names (R252): nodes, none for a member slot without one. -/
def fiHolders (s : State) (o : Op) : List (Option Node) :=
  if fiGrp o then (groupSlotsOf s (bodyF o 208 8)).map (slotNode s)
  else (List.range (fiN o)).map fun i => some (BitVec.ofNat 14 (memNum s (bodyF o 256 64 + 2 * i) 2))

/-- The nodes that the manifest of a ferry operation names, and whether it writes there: the fabric ends of FCOPY, the targets of
FRED and FATOM, the destination of FHAND, the holders of FINV where their list carries no poison (R250, R252, R254, R256, R259). -/
def opNodes (s : State) (o : Op) : List (Node × Bool) :=
  let node (lo : Nat) : Node := BitVec.ofNat 14 (bodyF o lo 14)
  match o.cls, o.op with
  | 8, 0 => (if o.body.toNat.testBit 178 then [(node 370, false)] else []) ++ (if o.body.toNat.testBit 177 then [(node 306, true)] else [])
  | 8, 1 => [(node 306, true)]
  | 8, 3 | 8, 5 => [(node 370, true)]
  | 8, 4 => if fiListed s o then (fiHolders s o).filterMap fun n => n.map fun n => (n, true) else []
  | _, _ => []

/-- The nodes that an operation names, and the tally of this device that FATOM does, are open to its level and partition (R54, R250,
R381). -/
def nodesOk (s : State) (o : Op) : Bool :=
  ((opNodes s o).all fun (n, w) => nodePermits s o n w) &&
  (!(o.cls = 8 && o.op = 3) || (faTally s o).isNone || permits s o.level.toNat (some o.ctxPart) true (fabOff (faTarget o)) 8)

/-- A queue is full (R66). -/
def queueFull (d : QDesc) : Bool := ((d.tail - d.head).toNat : Nat) = 2 ^ d.depth.toNat

/-- The header Resv bits of a manifest (R67). -/
def hdrResvBits (h : Nat) : Bool := bf h 60 4 ≠ 0 || bf h 25 6 ≠ 0 || bf h 17 7 ≠ 0

/-- The die-to-die links that an operation of an engine of the controller die moves its data over: those of the hubs behind
which the stacks and hub windows it names lie (R20, R39), the vat of a press and the region of a CREAD among them. -/
def linksOf (cls op : Nat) (body : Body) (l : Named) : List Nat :=
  if cls = 5 || cls = 6 then []
  else if cls = 4 && op = 8 then [bf body.toNat 101 5 / 4]
  else if cls = 9 && op = 0 then [bf body.toNat 44 5 / 4]
  else l.foldl (fun t (_, a, _) =>
    if a < 2 ^ 41 then insNat (a / 2 ^ 38) t
    else if hubBase ≤ a && a < localBase then insNat ((a - hubBase) / 0x400_0000) t else t) []

/-- The operation that a post makes of an image, its extra bytes and the instruction (R63, R67, R70). -/
def opOfPost (s : State) (c : CtxId) (w : Ins128) (cls op q : Nat) (img extra : Nat) : Op :=
  let x := ctxGet s c
  let d := queueGet s q
  let a := getS x w.sc.toNat
  let b := getS x ((w.sc.toNat + 1) % 64)
  { ticket := BitVec.ofNat 32 (c.val * 2 ^ 25 + x.posts.toNat), queue := q, slot := d.tail, ctx := c,
    level := BitVec.ofNat 2 (privOf x), part := d.part, ctxPart := partOf x, ld := d.ld, share := d.share,
    prio := BitVec.ofNat 4 (max (prioOf x) d.prio.toNat), cls := cls, op := op,
    engine := BitVec.ofNat 8 img, hdrOp := BitVec.ofNat 8 (img >>> 8), hdrResv := hdrResvBits img,
    request := BitVec.ofNat 32 (img >>> 64), edition := BitVec.ofNat 32 (img >>> 96),
    ctally := (tallyHandle x w.tc.toNat), ord := w.ord || ordOnly x,
    body := BitVec.ofNat 384 (img >>> 128), extra := BitVec.ofNat 128 extra, whn := w.whn,
    bellAt := a, tl := (tallyHandle x w.tl.toNat).getD 0,
    tallyAt := if w.whn = 2 then a else b }

/-- The header as the device writes it at posting (R67). -/
def deviceHeader (o : Op) (img : Nat) : Nat :=
  let h : W128 := BitVec.ofNat 128 img
  let h := setF (setF (setF (setF h 48 12 (o.ctally.getD 0)) 40 8 o.share.toNat) 36 4 o.prio.toNat) 32 4 o.ld.val
  (setF (setF (setF h 31 1 0) 24 1 o.part.val) 16 1 (boolNat o.ord)).toNat

/-- An operation enters its queue: its manifest is written to the next slot, the tail rises, its condition is tested
if it stands at the head (R63, R66, R71). -/
def enqueue (s : State) (o : Op) (img : Nat) : State :=
  let d := queueGet s o.queue
  let s := memWrite s (ringAddr s o.queue d.tail.toNat) (leBytes 16 (deviceHeader o img) ++ leBytes 48 o.body.toNat)
  let s := queueSet s o.queue { d with tail := d.tail + 1 }
  settle { s with ops := s.ops ++ [o] } 2

/-- A post by a context (R57, R63, R66): HANDLE, ALIGN, PROTECT and POISON make none; a full queue holds the context
in WAIT, as do a bank of its image or slot and a recall; else the ticket goes to s[sd]. -/
def makePost (named : State → Op → Named) (cls op : Nat) (c : CtxId) (w : Ins128) (s : State) : After :=
  ctxTry c (.post cls op w) [((opA (ctxGet s c) w.sa).toNat, if cls = 3 && op = 0 then 80 else 64)] (fun s =>
  let x := ctxGet s c
  match queueHandle x w.q.toNat with
  | none => .exc s Cause.handle none
  | some q =>
    if (w.whn = 2 || w.whn = 3 || w.whn = 4) && (tallyHandle x w.tl.toNat).isNone then .exc s Cause.handle none
    else
      let a := opA x w.sa
      let more := if cls = 3 && op = 0 then 16 else 0
      match ctxRead s c a (64 + more) 8 with
      | .error (cause, fa) => .exc s cause fa
      | .ok img =>
        if queueFull (queueGet s q) then .hold (placeWait s c (.post cls op w))
        else
          let o := opOfPost s c w cls op q (img % 2 ^ 512) (img >>> 512)
          let o := { o with refused := !(addrsOk s o (named s o) && nodesOk s o), links := linksOf cls op o.body (named s o) }
          let s := enqueue s o (img % 2 ^ 512)
          let y := ctxGet s c
          .adv (ctxSet s c { setS y w.sd.toNat (o.ticket.setWidth 64) with posts := y.posts + 1 })) s

/-- The issue of a posted instruction (R63, R84, R86). -/
def postIssue (level : Nat) (mayVary : Bool) (named : State → Op → Named) (cls op : Nat) (c : CtxId) (w : Ins128)
    (s : State) : Res :=
  .next (issue 16 level (postFormatOk mayVary w) w.pred w.pneg c (makePost named cls op c w) s)

/-- The hub that runs a hub-unit manifest: the one its body names; for PAPPEND that of the vat-front window (R146). DESIGN CHOICE
(log entry 117): for PVERIFY the one behind which the page lies. -/
def opHub (s : State) (o : Op) : Nat :=
  match o.cls, o.op with
  | 4, 7 => (bodyF o 64 64 - hubBase) / 0x400_0000 % 8
  | 4, _ => peStack (getPte s (rcGt (getRec s o.part (bodyF o 104 24))) (bodyF o 96 8)) / 4
  | _, 0 => bodyF o 100 4
  | _, 1 | _, 2 => bodyF o 144 4
  | _, 3 => bodyF o 150 4
  | _, 4 => bodyF o 154 4
  | _, 6 => bodyF o 89 4
  | _, 8 => bodyF o 235 4
  | _, _ => bodyF o 153 4

/-- The CLK_PACE indices of the regions in which an operation's steps run, with the die-to-die links that engines of the
controller die move its data over (R20, R39). -/
def opRegions (s : State) (o : Op) : List Nat :=
  match o.engine.toNat with
  | 2 => below 16 (bodyF o 112 16).testBit ++ o.links.map (75 + ·)
  | 3 => [16 + opHub s o]
  | 4 => [24 + bodyF o 176 5]
  | _ => 74 :: o.links.map (75 + ·)

/-- The die on which an operation's steps run (R20, R366). -/
def opDie (s : State) (o : Op) : Die :=
  match o.engine.toNat with
  | 3 => .hub (Fin.ofNat 8 (opHub s o))
  | 4 => .stack (Fin.ofNat 32 (bodyF o 176 5))
  | _ => .controller

/-- The engine kinds that a level of holding holds, in the order of R362. -/
def heldKinds (n : Nat) : List Nat := [2, 3, 4, 1].take n

/-- No new step of an operation launches: a region of it below its floor pace, its kind held for power, its die tripped
(R39, R362, R363, R366; log entry 53). -/
def stepsHeld (s : State) (o : Op) : Bool :=
  (opRegions s o).any s.clk.slow.contains || (heldKinds s.pwr.limiter).contains o.engine.toNat ||
  (heldKinds (tget 0 s.pwr.partHeld o.part.val)).contains o.engine.toNat || s.pwr.tripped.contains (opDie s o)

/-- An operation may run steps: not held for a sparing decision nor pre-empted in its bank, the reference present and no new step of
it held, or its step under way when that ended (R39, R46, R192, R333, R362). -/
def opSteps (s : State) (o : Op) : Bool :=
  s.phase = .running && !(o.held.any fun h => h.declared) && !o.suspended &&
  ((s.clk.refPresent && !stepsHeld s o) || s.clk.underWay.contains o.ticket)

/-- A change after which some operations launch no new step: those that ran steps before it have one under way, which runs to its
end (R39, R362, R366). -/
def noteUnderWay (s t : State) : State :=
  let more := (t.ops.filter fun o => (o.phase = .launched || o.phase = .committed) && opSteps s o && !opSteps t o).map fun o => o.ticket
  { t with clk := { t.clk with underWay := t.clk.underWay ++ more } }

/-- A launched operation that may run steps. -/
def opLive (s : State) (o : Op) : Bool := opSteps s o && o.phase = .launched

/-- An operation whose steps still end: launched, or past its commit step and not ended (R82). -/
def opStepping (s : State) (o : Op) : Bool := opSteps s o && (o.phase = .launched || o.phase = .committed)

/-- After a loss of the reference, the trained stacks none of whose in-bank steps is under way enter self-refresh (R46). -/
def restStacks (s : State) : State :=
  let rests := below 32 fun st => stackReady s st && stackIn s st &&
    !s.ops.any fun o => o.cls = 5 && bodyF o 176 5 = st && o.phase = .launched && s.clk.underWay.contains o.ticket
  { s with mem := { s.mem with selfRefresh := rests.foldl (fun m st => setF m st 1 1) s.mem.selfRefresh } }

/-- The step of an operation that was under way has ended; while the reference is lost its stack may rest then (R39, R46). -/
def stepOver (s : State) (t : Ticket) : State :=
  let s := { s with clk := { s.clk with underWay := s.clk.underWay.filter fun u => u ≠ t } }
  if s.clk.refPresent then s else restStacks s

/-- The tile work that must run before an operation on a slot of its own: what launched earlier, unless both are jobs (R240). -/
def tileTurn (s : State) (o : Op) : Bool :=
  o.cls ≠ 7 || !s.ops.any fun x => x.cls = 7 && x.phase = .launched && decide (x.launchNo < o.launchNo) && (o.op ≠ 0 || x.op ≠ 0) &&
    bodyF x 112 16 &&& bodyF o 112 16 ≠ 0 && bodyF x 104 8 &&& bodyF o 104 8 ≠ 0

/-- An operation can take its next step. -/
def opRunnable (s : State) (o : Op) : Bool := opLive s o && s.clk.refPresent && !stepsHeld s o && tileTurn s o

/-- The pages that failed or were absent in a step's work, by its fault records, kept with the operation (R119, R153). -/
def notePages (s t : State) (tk : Ticket) : State :=
  let rs := t.ras.history.take (t.ras.seq - s.ras.seq).toNat
  let ps := (rs.filter fun r => r.kind = 0x06 || r.kind = 0x07).map fun r => (r.a.toNat, r.b.toNat % 256)
  if ps.isEmpty then t else opUpd t tk fun o => { o with pages := o.pages ++ ps }

/-- Bytes that a data mover makes visible are added to its completion tally (R74). -/
def addBytes (s : State) (o : Op) (n : Nat) : State :=
  match o.ctally with | some i => tallyAdd s i n | none => s

/-- A piece written: its bytes, and the poison of the lines it touches. -/
def writePiece (s : State) (x : Nat × List Byte × Bool) : State :=
  let (a, bs, bad) := x
  let s := memWrite s a bs
  if bad then poisonRange s a bs.length
  else { s with mem := { s.mem with poison := s.mem.poison.filter fun l => l < a / 64 || (a + bs.length - 1) / 64 < l } }

/-- A step of an operation has written a group of what its steps write: its commit is past (R92, R240). -/
def hasWritten (o : Op) : Bool := o.cls ≠ 5 && o.due.any fun d => decide (d.groups.length < d.total)

/-- The next n groups of what an operation has still to write are written, and of a copy their bytes added to its tallies; after the last
group it ends (R40, R74, R82, R232, R254). -/
def writeDue (s : State) (o : Op) (d : Due) (n : Nat) : State :=
  let ps := (d.groups.take n).flatMap id
  let s := ps.foldl writePiece s
  let m := (ps.map fun x => x.2.1.length).foldl (· + ·) 0
  let s := if d.counts then
      let s := addBytes s o m
      if o.body.toNat.testBit 179 then tallyAdd s (bodyF o 180 12) m else s
    else s
  if d.groups.length ≤ n then opUpd (opEnd s o.ticket d.status d.steps) o.ticket fun x => { x with due := none }
  else opUpd s o.ticket fun x => { x with due := some { d with groups := d.groups.drop n } }

/-- The rest of an operation's work: what its later steps write, where earlier ones have begun. -/
def restOf (f : Op → State → State) (o : Op) (s : State) : State :=
  match o.due with
  | some d => writeDue s o d d.groups.length
  | none => f o s

/-- The ranges that an operation names to read. -/
def readsOf (l : Named) : List (Nat × Nat) := (l.filter fun x => !x.1).map fun x => x.2

/-- The work of an engine on an operation, with what it leaves (R76, R92, R194, R296). -/
def engineWork (named : State → Op → Named) (f : Op → State → State) (o : Op) (s : State) : State :=
  tryWork (o.cls ≠ 5) (.run o.ticket) (readsOf (named s o)) (fun s => stepOver (notePages s (restOf f o s) o.ticket) o.ticket) s

/-- The work of an engine on a launched operation of its class and op: nothing where it is not launched. -/
def engineRun (named : State → Op → Named) (cls op : Nat) (t : Ticket) (f : Op → State → State) (s : State) : Res :=
  match opGet s t with
  | some o => whenOk (opRunnable s o && o.cls = cls && o.op = op) (engineWork named f o s) s
  | none => .next s

/-- As engineRun, for one mode, or op of a shared opcode, of the body. -/
def engineRunMode (named : State → Op → Named) (cls op : Nat) (mode : Op → Bool) (t : Ticket) (f : Op → State → State)
    (s : State) : Res :=
  match opGet s t with
  | some o => whenOk (opRunnable s o && o.cls = cls && o.op = op && mode o) (engineWork named f o s) s
  | none => .next s

/-- A posted instruction's two forms. -/
def posted (level : Nat) (mayVary : Bool) (named : State → Op → Named) (cls op : Nat) (p : Posted)
    (f : Op → State → State) (s : State) : Res :=
  match p with
  | .issue c w => postIssue level mayVary named cls op c w s
  | .run t => engineRun named cls op t f s

/-- A posted instruction of several modes: each mode is a row of the table; the issue is the same for all. -/
def postedMode (level : Nat) (named : State → Op → Named) (cls op : Nat) (mode : Op → Bool) (p : Posted)
    (f : Op → State → State) (s : State) : Res :=
  match p with
  | .issue c w => postIssue level false named cls op c w s
  | .run t => engineRunMode named cls op mode t f s

end Sys2Proof.Machine
end

