-- ==== Sys2Proof/Machine/Inbank.lean ====
section
/-! DEFINITION. The in-bank sequencers: rows and row maps, the manifest checks, and the in-bank instructions of class 5
(R94, R96, R185 to R202). -/
namespace Sys2Proof.Machine

/-- The row map code of a subarray position (R187). -/
def rowCode (s : State) (st pos : Nat) : Nat :=
  bf (tget 0 s.mem.rowmap (st * 2 + pos / 32)).toNat (pos % 32 * 2) 2

/-- The first byte of a row of a subarray (R185, R186). -/
def rowAddr (st sub row : Nat) : Nat :=
  st * 2 ^ 36 + sub % 2048 / 32 * 2 ^ 30 + sub / 2048 * 2 ^ 24 + row * 2 ^ 15 + sub % 32 * 2 ^ 10

/-- A row as a number of 8,192 bits, column c at bit c. -/
def readRow (s : State) (st sub row : Nat) : Nat := memNum s (rowAddr st sub row) 1024

/-- The banks of one stack, by part (R185). -/
def bankCount (s : State) : Nat := stackCap s / 2 ^ 30

/-- A subarray that exists and is not retired (R186, R341). -/
def subIn (s : State) (st sub : Nat) : Bool :=
  decide (sub % 2048 < 32 * bankCount s) && decide (sub < 2 ^ 17) && !s.plan.deadSubs.contains (st * 2 ^ 20 + sub) &&
  !(chanGone s st).contains (sub % 32)

/-- The fields of an in-bank body (R196, R201). -/
def ibStack (o : Op) : Nat := bodyF o 176 5
def ibRow (o : Op) (lo : Nat) : Nat := bodyF o lo 9

/-- The named subarrays in ascending index; ordinals are places of this list (R196). -/
def namedSubs (o : Op) : List Nat :=
  (below 64 fun p => (bodyF o 256 64).testBit p).flatMap fun p =>
    (below 64 fun i => (bodyF o 192 64).testBit i).map fun i => 2048 * p + bodyF o 181 11 + i

/-- Positions named by smask. -/
def namedPos (o : Op) : List Nat := below 64 fun p => (bodyF o 256 64).testBit p

/-- The checks common to every in-bank manifest (R197): stack and subarrays in service, 1 to 64 of them, and the
banks of the window within the stack. DESIGN CHOICE (log entry 148): a name beyond the part's banks refuses the manifest. -/
def ibUnitsOk (s : State) (o : Op) : Bool :=
  let st := ibStack o
  let subs := namedSubs o
  stackIn s st && stackReady s st && decide (1 ≤ subs.length) && decide (subs.length ≤ 64) &&
  (below 64 fun i => (bodyF o 192 64).testBit i).all (fun i => decide (bodyF o 181 11 + i < 2048)) &&
  subs.all (subIn s st) && (namedPos o).all fun p => rowCode s st p ≠ 0

/-- The destination rows of a manifest of RCOPY to RSCORE, and the query table of RSCORE, as named addresses. -/
def namedInbank (score : Bool) (_ : State) (o : Op) : Named :=
  ((namedSubs o).map fun b => (true, rowAddr (ibStack o) b (ibRow o 140), 1024)) ++
  if score then [(false, bodyF o 320 64, 32 * (bodyF o 131 6 + 1))] else []

/-- The launch checks of RCOPY to RMAJ (R197). -/
def rowOpOk (s : State) (o : Op) : Bool :=
  ibUnitsOk s o

/-- The launch checks of RSCORE (R197). -/
def rscoreOk (s : State) (o : Op) : Bool :=
  bodyF o 137 3 ≠ 7 && bodyF o 320 64 % 32 = 0 && ibUnitsOk s o &&
  (namedPos o).all fun p => rowCode s (ibStack o) p = 2

/-- The groups of an RSELECT. -/
def rselGroups (o : Op) : Nat := bodyF o 153 6 + 1
/-- Bytes of one group's area (R202). -/
def rselArea (o : Op) : Nat := 8 + 64 * ((namedSubs o).length / rselGroups o)

def namedRselect (_ : State) (o : Op) : Named :=
  [(true, bodyF o 320 64, rselGroups o * rselArea o), (false, bodyF o 89 64, 64 * (namedSubs o).length)]

/-- The launch checks of RSELECT (R201). DESIGN CHOICE (log entry 148): its list may lie wherever the tables allow a write. -/
def rselectOk (s : State) (o : Op) : Bool :=
  ibUnitsOk s o && (namedSubs o).length % rselGroups o = 0 && bodyF o 159 8 ≠ 0 &&
  bodyF o 320 64 % 8 = 0 && bodyF o 89 64 % 8 = 0

/-- A named bank set of an in-bank operation as a mask over physical banks. -/
def bankMask (o : Op) : Nat := bodyF o 192 64 * 2 ^ bodyF o 181 11

/-- In-bank operations of a stack that have launched and not ended. -/
def ibRunning (s : State) (st : Nat) : List Op :=
  s.ops.filter fun o => o.engine = 0x04 && (o.phase = .launched || o.phase = .committed) && ibStack o = st

def overlaps (a b : Op) : Bool := bankMask a &&& bankMask b ≠ 0

/-- Whether an in-bank manifest may launch beside those that run: none overlaps its banks, or every one that does runs
in scratch set A, is not itself held, and has a lower priority (R191, R192); four issue slots. DESIGN CHOICE (log entry 148): a held
manifest takes none of them. -/
def ibCanLaunch (s : State) (o : Op) : Bool :=
  let rs := ibRunning s (ibStack o)
  let ov := rs.filter (overlaps o)
  (ov.all fun r => !r.scratchB && !r.suspended && decide (r.prio.toNat < o.prio.toNat)) &&
  decide ((rs.filter fun r => !r.suspended && !overlaps o r).length < 4)

/-- The manifests held under one that has ended resume (R192). -/
def ibResume (s : State) (o : Op) : State :=
  if o.scratchB then
    (ibRunning s (ibStack o)).foldl (fun s r =>
      if overlaps o r then opUpd s r.ticket fun p => { p with suspended := false } else s) s
  else s

/-- The key of a scratch row of a subarray: sets A and B of four rows (R192). -/
def scratchKey (st sub : Nat) (setB : Bool) (row : Nat) : Nat := ((st * 2 ^ 20 + sub) * 2 + boolNat setB) * 4 + row

def scratchSet (s : State) (o : Op) (sub : Nat) (bs : List Byte) : State :=
  { s with mem := { s.mem with scratch := tset [] s.mem.scratch (scratchKey (ibStack o) sub o.scratchB 0) bs } }

/-- The poison of a destination row set line by line (R198). -/
def poisonRow (s : State) (a : Nat) (ls : List Bool) : State :=
  (indexed ls).foldl (fun s (i, b) => if b then poisonLine s (a / 64 + i) else s) s

/-- The commit copy of a subarray's result (R193). -/
def commitRow (s : State) (o : Op) (sub v : Nat) (ps : List Bool) : State :=
  let a := rowAddr (ibStack o) sub (ibRow o 140)
  let bs := leBytes 1024 v
  poisonRow (memWrite (scratchSet s o sub bs) a bs) a ps

/-- The dimension count of an RSCORE. -/
def scoreDim (o : Op) : Nat := 64 + 32 * bodyF o 137 3

/-- The steps of an in-bank operation (R94 to R96, R193, R202). -/
def ibSteps (o : Op) : Nat :=
  match o.op with
  | 0 | 1 | 2 => 2
  | 3 | 4 => 3
  | 5 | 6 => 4
  | 7 => scoreDim o + 6
  | _ => (namedSubs o).length + 5

/-- A row operation over rows a, b and c of every named subarray, read as they stood before any was written
(R94, R193, R198). -/
def rowOp (o : Op) (srcs : List Nat) (f : List Nat → Nat) (s : State) : State :=
  let st := ibStack o
  let res := (namedSubs o).map fun b =>
    let rows := srcs.map fun lo => ibRow o lo
    let v := f (rows.map (readRow s st b)) % 2 ^ 8192
    let ps := (List.range 16).map fun j => rows.any fun r => linePoison s (rowAddr st b r / 64 + j)
    (b, v, ps)
  opEnd (res.foldl (fun s (b, v, ps) => commitRow s o b v ps) s) o.ticket St.complete (ibSteps o)

def row1 (f : Nat → Nat) : List Nat → Nat | [a] => f a | _ => 0
def row2 (f : Nat → Nat → Nat) : List Nat → Nat | [a, b] => f a b | _ => 0
def row3 (f : Nat → Nat → Nat → Nat) : List Nat → Nat | [a, b, c] => f a b c | _ => 0

/-- RCOPY (R94): dst := a. -/
def execRcopy (p : Posted) (s : State) : Res :=
  posted 0 false (namedInbank false) 5 0 p (fun o => rowOp o [167] (row1 id)) s

/-- RZERO (R94, R198): dst := 0. -/
def execRzero (p : Posted) (s : State) : Res :=
  posted 0 false (namedInbank false) 5 1 p (fun o => rowOp o [] (fun _ => 0)) s

/-- RNOT (R94): dst := not a. -/
def execRnot (p : Posted) (s : State) : Res :=
  posted 0 false (namedInbank false) 5 2 p (fun o => rowOp o [167] (row1 fun a => 2 ^ 8192 - 1 - a)) s

/-- RAND (R94): dst := a and b. -/
def execRand (p : Posted) (s : State) : Res :=
  posted 0 false (namedInbank false) 5 3 p (fun o => rowOp o [167, 158] (row2 fun a b => a &&& b)) s

/-- ROR (R94): dst := a or b. -/
def execRor (p : Posted) (s : State) : Res :=
  posted 0 false (namedInbank false) 5 4 p (fun o => rowOp o [167, 158] (row2 fun a b => a ||| b)) s

/-- RXOR (R94): dst := a xor b. -/
def execRxor (p : Posted) (s : State) : Res :=
  posted 0 false (namedInbank false) 5 5 p (fun o => rowOp o [167, 158] (row2 fun a b => a ^^^ b)) s

/-- RMAJ (R94): dst := majority(a, b, c). -/
def execRmaj (p : Posted) (s : State) : Res :=
  posted 0 false (namedInbank false) 5 6 p
    (fun o => rowOp o [167, 158, 149] (row3 fun a b c => (a &&& b) ||| (b &&& c) ||| (a &&& c))) s

/-- The similarity of column c: dimensions whose sketch bit equals the query's (R200). -/
def simCol (rows : List Nat) (q c : Nat) : Nat :=
  (indexed rows).countP fun (j, r) => r.testBit c = q.testBit j

/-- The score of slot k: 128 × the best similarity + the count at it, at most 127 (R200). -/
def slotScore (rows : List Nat) (q k : Nat) : Nat :=
  let sims := (List.range 256).map fun i => simCol rows q (256 * k + i)
  let m := sims.foldl max 0
  128 * m + min (sims.countP fun x => x = m) 127

/-- The score row of a subarray: 32 scores of 16 bits, the rest zero (R200). -/
def scoreRow (rows : List Nat) (q : Nat) : Nat :=
  ((List.range 32).map fun k => slotScore rows q k % 2 ^ 16 * 2 ^ (16 * k)).foldl (· + ·) 0

/-- The work of RSCORE. -/
def scoreWork (o : Op) (s : State) : State :=
  let st := ibStack o
  let d := scoreDim o
  let res := (indexed (namedSubs o)).map fun (i, b) =>
    let q := memNum s (bodyF o 320 64 + 32 * (i % (bodyF o 131 6 + 1))) 32
    (b, scoreRow ((List.range d).map fun j => readRow s st b j) q)
  opEnd (res.foldl (fun s (b, v) => commitRow s o b v []) s) o.ticket St.complete (ibSteps o)

/-- RSCORE (R199, R200). -/
def execRscore (p : Posted) (s : State) : Res := posted 0 false (namedInbank true) 5 7 p scoreWork s

/-- Insertion into a list sorted by a key, smaller keys first. -/
def insBy (k : Nat × Nat → Nat) (x : Nat × Nat) : List (Nat × Nat) → List (Nat × Nat)
  | [] => [x]
  | y :: r => if k x < k y then x :: y :: r else y :: insBy k x r

/-- A candidate position with its highest score, listed once (R202). -/
def addCand (x : Nat × Nat) : List (Nat × Nat) → List (Nat × Nat)
  | [] => [x]
  | y :: r => if y.1 = x.1 then (y.1, max y.2 x.2) :: r else y :: addCand x r

/-- The entries of one group: kind, group position and score of every slot of its subarrays (R201). -/
def groupSlots (s : State) (o : Op) (g : Nat) : List (Nat × Nat × Nat) :=
  ((indexed (namedSubs o)).filter fun (i, _) => i % rselGroups o = g).flatMap fun (i, b) =>
    let sc := readRow s (ibStack o) b (ibRow o 167)
    (List.range 32).map fun k =>
      let e := memNum s (bodyF o 89 64 + 2 * (32 * i + k)) 2
      (e / 2 ^ 14, e % 2 ^ 12, bf sc (16 * k) 16)

/-- The positions selected for a group (R202): the forced ones, and the k best candidates; ties at the k-th place by
the lower position in the ordered form, else by free bits (R96; log entry 3). -/
def selectGroup (s : State) (o : Op) (g : Nat) : List Nat :=
  let es := groupSlots s o g
  let forced := (es.filter fun e => e.1 = 2).map fun e => e.2.1
  let cand := (es.filter fun e => e.1 = 1 && !forced.contains e.2.1).foldl (fun l e => addCand (e.2.1, e.2.2) l) []
  let tie (p : Nat) : Nat := if o.ord then p else (Config.freeWord (s.free + 4096 * g + p)).toNat % 2 ^ 12 * 2 ^ 12 + p
  let order (x : Nat × Nat) : Nat := (2 ^ 16 - x.2) * 2 ^ 24 + tie x.1
  let best := (cand.foldl (fun l x => insBy order x l) []).take (bodyF o 159 8)
  (forced ++ best.map fun x => x.1).foldl (fun l p => insNat p l) []

/-- The work of RSELECT. -/
def selectWork (o : Op) (s : State) : State :=
  let areas := (List.range (rselGroups o)).map fun g => selectGroup s o g
  let s' := (indexed areas).foldl (fun s (g, ps) =>
    memWrite s (bodyF o 320 64 + g * rselArea o) (leBytes 8 ps.length ++ ps.flatMap fun p => leBytes 2 p)) s
  let s' := if o.ord then s' else { s' with free := s'.free + 4096 * 64 }
  opEnd s' o.ticket St.complete (ibSteps o)

/-- RSELECT (R96, R201, R202). -/
def execRselect (p : Posted) (s : State) : Res := posted 0 true namedRselect 5 8 p selectWork s

/-! ## Pre-emption (R192) -/

/-- The work of an in-bank manifest. -/
def ibWork (o : Op) (s : State) : State :=
  match o.op with
  | 0 => rowOp o [167] (row1 id) s
  | 1 => rowOp o [] (fun _ => 0) s
  | 2 => rowOp o [167] (row1 fun a => 2 ^ 8192 - 1 - a) s
  | 3 => rowOp o [167, 158] (row2 fun a b => a &&& b) s
  | 4 => rowOp o [167, 158] (row2 fun a b => a ||| b) s
  | 5 => rowOp o [167, 158] (row2 fun a b => a ^^^ b) s
  | 6 => rowOp o [167, 158, 149] (row3 fun a b c => (a &&& b) ||| (b &&& c) ||| (a &&& c)) s
  | 7 => scoreWork o s
  | _ => selectWork o s

/-- A manifest held at a step boundary: what it will commit is that of its operands as they stood at its launch, whatever the one that
pre-empts it writes (R76, R192, R194, R215). -/
def ibSuspend (s : State) (o : Op) : State :=
  if o.due.isSome then opUpd s o.ticket fun p => { p with suspended := true }
  else
  let t := ibWork o s
  let rs := if o.op = 8 then [(bodyF o 320 64, rselGroups o * rselArea o)]
    else (namedSubs o).map fun b => (rowAddr (ibStack o) b (ibRow o 140), 1024)
  let g := rs.flatMap fun (a, n) => (List.range (ceilDiv n 64)).map fun i =>
    (a + 64 * i, memRead t (a + 64 * i) (min 64 (n - 64 * i)), poisoned t (a + 64 * i) (min 64 (n - 64 * i)))
  opUpd { s with free := t.free } o.ticket fun p =>
    { p with suspended := true,
             due := some { groups := [g], total := 1, status := St.complete, steps := ibSteps o, counts := false } }

/-- The launch of an in-bank manifest: those it pre-empts are held, and it runs in set B where it pre-empts (R192). -/
def ibLaunch (s : State) (o : Op) : State :=
  let ov := (ibRunning s (ibStack o)).filter fun r => overlaps o r && r.ticket ≠ o.ticket
  let s := opUpd s o.ticket fun p => { p with scratchB := !ov.isEmpty }
  ov.foldl ibSuspend s

end Sys2Proof.Machine
end

