-- ==== Sys2Proof/Machine/Numeric.lean ====
section
/-! DEFINITION. The arithmetic of numeric profile NP-3 that the spec states: binary formats as exact dyadic numbers,
rounding to nearest with ties to even, MX groups and their conversions, dot products (R133, R219, R226, R227). The
approximations the spec leaves to NP-3 are constants of Config (log entry 9). -/
namespace Sys2Proof.Machine

/-- A number of a binary format: NaN, an infinity, or (−1)^neg × m × 2^e exactly. -/
inductive Num where
  | nan
  | inf (neg : Bool)
  | fin (neg : Bool) (m : Nat) (e : Int)
  deriving DecidableEq, Repr

def Num.zero : Num := .fin false 0 0

/-- m × 2^k as a natural number, k any integer, rounded to nearest with ties to even. -/
def scaleRne (m : Nat) (k : Int) : Nat :=
  match k with
  | .ofNat n => m * 2 ^ n
  | .negSucc n =>
    let d := 2 ^ (n + 1)
    let q := m / d
    let r := m % d
    if 2 * r < d then q else if 2 * r > d then q + 1 else q + q % 2

/-- The magnitude code of m × 2^e in a format of p significant bits whose least place is 2^emin: subnormal and normal
codes follow each other, ties to even. -/
def roundMag (p : Nat) (emin : Int) (m : Nat) (e : Int) : Nat :=
  if m = 0 then 0
  else
    let place := max (e + ((m.log2 + 1 : Nat) : Int) - p) emin
    (place - emin).toNat * 2 ^ (p - 1) + scaleRne m (e - place)

/-- The magnitude m × 2^e of a code below the format's special codes. -/
def magOf (p : Nat) (emin : Int) (code : Nat) : Nat × Int :=
  let x := code / 2 ^ (p - 1)
  if x = 0 then (code, emin) else (code % 2 ^ (p - 1) + 2 ^ (p - 1), emin + (x : Int) - 1)

/-- An FP32 bit pattern as a number. -/
def dec32 (w : W32) : Num :=
  let n := w.toNat
  let c := n % 2 ^ 31
  let neg := n.testBit 31
  if c > 0x7F80_0000 then .nan else if c = 0x7F80_0000 then .inf neg
  else let (m, e) := magOf 24 (-149) c; .fin neg m e

/-- The FP32 NaN that arithmetic makes (log entry 9). -/
def nan32 : W32 := 0x7FC0_0000 ||| (Config.nanPayload &&& 0x803F_FFFF)

/-- A number rounded to FP32. -/
def enc32 : Num → W32
  | .nan => nan32
  | .inf neg => BitVec.ofNat 32 (boolNat neg * 2 ^ 31 + 0x7F80_0000)
  | .fin neg m e => BitVec.ofNat 32 (boolNat neg * 2 ^ 31 + min (roundMag 24 (-149) m e) 0x7F80_0000)

/-- A BF16 bit pattern as a number. -/
def dec16 (h : Half) : Num := dec32 (BitVec.ofNat 32 (h.toNat * 2 ^ 16))

/-- FP32 to BF16: overflow to infinity, a NaN to 0x7FC0 (R226). -/
def enc16 : Num → Half
  | .nan => 0x7FC0
  | .inf neg => BitVec.ofNat 16 (boolNat neg * 2 ^ 15 + 0x7F80)
  | .fin neg m e => BitVec.ofNat 16 (boolNat neg * 2 ^ 15 + min (roundMag 8 (-133) m e) 0x7F80)

def Num.neg : Num → Num
  | .nan => .nan | .inf b => .inf !b | .fin b m e => .fin (!b) m e

/-- The exact sum. -/
def Num.add : Num → Num → Num
  | .nan, _ => .nan
  | _, .nan => .nan
  | .inf a, .inf b => if a = b then .inf a else .nan
  | .inf a, _ => .inf a
  | _, .inf b => .inf b
  | .fin a m e, .fin b n f =>
    let g := min e f
    let x : Int := (m * 2 ^ (e - g).toNat : Nat)
    let y : Int := (n * 2 ^ (f - g).toNat : Nat)
    let z := (if a then -x else x) + (if b then -y else y)
    .fin (if z = 0 then a && b else decide (z < 0)) z.natAbs g

def Num.sub (x y : Num) : Num := x.add y.neg

/-- The exact product. -/
def Num.mul : Num → Num → Num
  | .nan, _ => .nan
  | _, .nan => .nan
  | .inf a, .inf b => .inf (a != b)
  | .inf a, .fin b m _ => if m = 0 then .nan else .inf (a != b)
  | .fin a m _, .inf b => if m = 0 then .nan else .inf (a != b)
  | .fin a m e, .fin b n f => .fin (a != b) (m * n) (e + f)

/-- Multiplication by 2^k. -/
def Num.scale (k : Int) : Num → Num
  | .fin a m e => .fin a m (e + k)
  | x => x

/-- Less than, false where either is NaN. -/
def Num.lt (x y : Num) : Bool :=
  match x, y with
  | .nan, _ => false
  | _, .nan => false
  | .inf a, .inf b => a && !b
  | .inf a, _ => a
  | _, .inf b => !b
  | x, y => match x.sub y with | .fin n m _ => n && m ≠ 0 | _ => false

/-- FP32 addition, product and difference, rounded once. -/
def add32 (a b : W32) : W32 := enc32 ((dec32 a).add (dec32 b))
def mul32 (a b : W32) : W32 := enc32 ((dec32 a).mul (dec32 b))
def sub32 (a b : W32) : W32 := enc32 ((dec32 a).sub (dec32 b))

/-- The greater of two FP32 values, a NaN where either is one. -/
def max32 (a b : W32) : W32 :=
  if dec32 a = .nan then a else if dec32 b = .nan then b else if (dec32 a).lt (dec32 b) then b else a

/-- The element types of the MX formats (R219, R226): significant bits, least place, largest finite magnitude code, width,
emax. -/
inductive Elem where
  | e2m1 | e3m2 | e2m3 | e4m3 | e5m2 | int8 | bf16
  deriving DecidableEq, Repr

/-- The weight format wfmt (R219); none where it is reserved. -/
def elemOf : Nat → Option Elem
  | 0 => some .e2m1 | 1 => some .e3m2 | 2 => some .e2m3 | 3 => some .e4m3 | 4 => some .e5m2 | 5 => some .int8
  | 6 => some .bf16 | _ => none

/-- p, emin, largest finite code, width in bits, emax. -/
def elemPar : Elem → Nat × Int × Nat × Nat × Int
  | .e2m1 => (2, -1, 7, 4, 2)
  | .e3m2 => (3, -4, 31, 6, 4)
  | .e2m3 => (4, -3, 31, 6, 2)
  | .e4m3 => (4, -9, 0x7E, 8, 8)
  | .e5m2 => (3, -16, 0x7B, 8, 15)
  | .int8 => (8, 0, 127, 8, 0)
  | .bf16 => (8, -133, 0x7F7F, 16, 127)

/-- Exponent field width ew and sign-and-mantissa width sm (R219). -/
def elemSplit : Elem → Nat × Nat
  | .e2m1 => (2, 2) | .e3m2 => (3, 3) | .e2m3 => (2, 4) | .e4m3 => (4, 4) | .e5m2 => (5, 3) | .int8 => (0, 8)
  | .bf16 => (8, 8)

/-- An element's bits as a number; an MXINT8 element as its integer (R226, R227). -/
def decElem (t : Elem) (bits : Nat) : Num :=
  match t with
  | .bf16 => dec16 (BitVec.ofNat 16 bits)
  | .int8 =>
    let v := bits % 256
    if v < 128 then .fin false v 0 else .fin true (256 - v) 0
  | _ =>
    let (p, emin, top, w, _) := elemPar t
    let neg := bits.testBit (w - 1)
    let c := bits % 2 ^ (w - 1)
    if t = .e5m2 && c = 0x7C then .inf neg
    else if c > top then .nan
    else let (m, e) := magOf p emin c; .fin neg m e

/-- ⌊log2⌋ of a magnitude. -/
def log2Mag (m : Nat) (e : Int) : Int := e + (m.log2 : Nat)

/-- The largest magnitude of a group as ⌊log2⌋; none for a group of zeros. -/
def groupLog (xs : List Num) : Option Int :=
  xs.foldl (fun a x => match x, a with
    | .fin _ m e, none => if m = 0 then none else some (log2Mag m e)
    | .fin _ m e, some b => if m = 0 then some b else some (max b (log2Mag m e))
    | _, a => a) none

/-- An MX element of v ÷ 2^X, rounded and saturated (R226). -/
def encElem (t : Elem) (x : Num) : Nat :=
  match x with
  | .fin neg m e =>
    let (p, emin, top, w, _) := elemPar t
    match t with
    | .int8 =>
      let v := min (scaleRne m (e + 6)) 127
      if neg then (256 - v) % 256 else v
    | _ => boolNat neg * 2 ^ (w - 1) + min (roundMag p emin m e) top
  | _ => 0

/-- An MX group: its scale byte and its elements. -/
structure MxGroup where
  scale : Nat
  elems : List Num
  deriving DecidableEq, Repr

/-- The conversion of a group to an MX format (R226): scale byte and element codes. -/
def toMxCodes (t : Elem) (xs : List Num) : Nat × List Nat :=
  if xs.any fun x => match x with | .fin _ _ _ => false | _ => true then (0xFF, xs.map fun _ => 0)
  else match groupLog xs with
    | none => (0, xs.map fun x => encElem t x)
    | some l =>
      let (_, _, _, _, emax) := elemPar t
      let k := min (max (l - emax) (-127)) 127
      ((k + 127).toNat, xs.map fun x => encElem t (x.scale (-k)))

def toMx (t : Elem) (xs : List Num) : MxGroup :=
  let (sc, cs) := toMxCodes t xs
  { scale := sc, elems := cs.map (decElem t) }

/-- An operand group at the array's port: MX with a scale, BF16 without, or poison. -/
inductive Grp where
  | mx (scale : Nat) (int8 : Bool) (elems : List Num)
  | bf (elems : List Num)
  | poison
  deriving DecidableEq, Repr

/-- The exact sum of a list of exact numbers. -/
def sumExact (xs : List Num) : Num := xs.foldl Num.add Num.zero

/-- One level of the pairwise tree, each addition rounded to FP32 (R227). -/
def pairLevel : List Num → List Num
  | a :: b :: r => dec32 (enc32 (a.add b)) :: pairLevel r
  | r => r

/-- The fixed pairwise tree over 32 products (R227). -/
def pairTree (xs : List Num) : Num := (pairLevel (pairLevel (pairLevel (pairLevel (pairLevel xs))))).headD Num.zero

/-- The values of an MX group's elements. -/
def mxVals (a : Nat) (int8 : Bool) (xs : List Num) : List Num := xs.map (Num.scale ((a : Int) - 127 - if int8 then 6 else 0))

/-- The dot product of two groups rounded to FP32; none where either is poison (R225, R227). A group without a scale is summed by the
pairwise tree, a group of the other kind beside it by its values (R204; log entry 125). -/
def groupDot : Grp → Grp → Option W32
  | .mx a i xs, .mx b j ys =>
    if a = 0xFF || b = 0xFF then some nan32
    else
      let k : Int := (a : Int) + (b : Int) - 254 - (if i then 6 else 0) - (if j then 6 else 0)
      some (enc32 ((sumExact (List.zipWith Num.mul xs ys)).scale k))
  | .bf xs, .bf ys => some (enc32 (pairTree (List.zipWith Num.mul xs ys)))
  | .mx a i xs, .bf ys => some (if a = 0xFF then nan32 else enc32 (pairTree (List.zipWith Num.mul (mxVals a i xs) ys)))
  | .bf xs, .mx b j ys => some (if b = 0xFF then nan32 else enc32 (pairTree (List.zipWith Num.mul xs (mxVals b j ys))))
  | .poison, _ => none
  | _, .poison => none

/-- Groups accumulated in ascending order onto an accumulator; none once a group is poison (R227). -/
def accumulate (acc : Option W32) : List Grp → List Grp → Option W32
  | a :: r, b :: q => accumulate (match acc, groupDot a b with | some x, some y => some (add32 x y) | _, _ => none) r q
  | _, _ => acc

/-- A list cut into groups of 32. -/
def groups32 {α : Type} (n : Nat) (xs : List α) : List (List α) :=
  (List.range n).map fun i => (xs.drop (32 * i)).take 32

/-- Operand groups of a vector for weights of a format (R204, R226). -/
def portGroups (w : Elem) (xs : List Num) : List Grp :=
  (groups32 (ceilDiv xs.length 32) xs).map fun g =>
    match w with
    | .bf16 => .bf (g.map fun x => dec16 (enc16 x))
    | .int8 => let m := toMx .int8 g; .mx m.scale true m.elems
    | _ => let m := toMx .e4m3 g; .mx m.scale false m.elems

/-- A vector converted to MXFP8 E4M3 groups. -/
def mxGroups (xs : List Num) : List Grp := portGroups .e4m3 xs

/-- An FP8 E4M3 element outside an MX group (R133): saturated; special values by Config. -/
def encFp8 (x : Num) : Byte :=
  match x with
  | .fin _ _ _ => BitVec.ofNat 8 (encElem .e4m3 x)
  | x => Config.fp8Special (enc32 x)

/-- Elements of b bits packed from bit 0 of the first byte upward, as n bytes. -/
def packBits (w : Nat) (xs : List Nat) (n : Nat) : List Byte :=
  leBytes n (xs.foldr (fun x a => x + a * 2 ^ w) 0)

/-- A head vector of d elements in a key/value format (R133). -/
def encHead (fmt d : Nat) (xs : List Num) : List Byte :=
  match fmt with
  | 0 => xs.map encFp8
  | 1 =>
    let gs := (groups32 (d / 32) xs).map (toMxCodes .e2m1)
    packBits 4 (gs.flatMap fun g => g.2) (d / 2) ++ gs.map fun g => BitVec.ofNat 8 g.1
  | _ => xs.flatMap fun x => leBytes 2 (enc16 x).toNat

/-- The elements of a head vector, as numbers before any scale, and the scales of MXFP4 (R133). -/
def headElems (fmt d : Nat) (bs : List Byte) : List Num × List Nat :=
  match fmt with
  | 0 => (bs.map fun b => decElem .e4m3 b.toNat, [])
  | 1 =>
    let v := ofLe (bs.take (d / 2))
    ((List.range d).map fun i => decElem .e2m1 (bf v (4 * i) 4), (bs.drop (d / 2)).map fun b => b.toNat)
  | _ => ((List.range d).map fun i => dec16 (BitVec.ofNat 16 (ofLe ((bs.drop (2 * i)).take 2))), [])

/-- The elements of a head vector as values, scales applied (R228). -/
def headVals (fmt d : Nat) (bs : List Byte) : List Num :=
  let (xs, sc) := headElems fmt d bs
  if fmt = 1 then
    (indexed xs).map fun (i, x) => let k := sc.getD (i / 32) 0; if k = 0xFF then .nan else x.scale ((k : Int) - 127)
  else xs

/-- Bytes of a head vector (R133). -/
def headBytes (fmt d : Nat) : Nat := match fmt with | 0 => d | 1 => d / 2 + d / 32 | _ => 2 * d

/-- The sketch bit of element j of a head vector (R133). -/
def sketchBit (fmt : Nat) (bs : List Byte) (j : Nat) : Bool :=
  match fmt with
  | 0 => ((bs.getD j 0).toNat).testBit 7
  | 1 => ((bs.getD (j / 2) 0).toNat).testBit (4 * (j % 2) + 3)
  | _ => ((bs.getD (2 * j + 1) 0).toNat).testBit 7

/-- A vector of n values in BF16 or FP32 as stored. -/
def decVec (f32 : Bool) (n : Nat) (bs : List Byte) : List Num :=
  (List.range n).map fun i =>
    if f32 then dec32 (BitVec.ofNat 32 (ofLe ((bs.drop (4 * i)).take 4)))
    else dec16 (BitVec.ofNat 16 (ofLe ((bs.drop (2 * i)).take 2)))

/-- One value as stored in BF16 or FP32. -/
def encVal (f32 : Bool) (x : W32) : List Byte :=
  if f32 then leBytes 4 x.toNat else leBytes 2 (enc16 (dec32 x)).toNat

def valBytes (f32 : Bool) : Nat := if f32 then 4 else 2

/-- One step of CRC-64/XZ on a bit (R151). -/
def crcBit (c : Nat) : Nat := if c % 2 = 1 then c / 2 ^^^ 0xC96C_5795_D787_0F42 else c / 2

/-- One byte of CRC-64/XZ. -/
def crcByte (c : Nat) (b : Byte) : Nat :=
  crcBit (crcBit (crcBit (crcBit (crcBit (crcBit (crcBit (crcBit (c ^^^ b.toNat))))))))

/-- CRC-64/XZ (R151). -/
def crc64 (bs : List Byte) : Word :=
  BitVec.ofNat 64 (bs.foldl crcByte 0xFFFF_FFFF_FFFF_FFFF ^^^ 0xFFFF_FFFF_FFFF_FFFF)

end Sys2Proof.Machine
end

