-- ==== Sys2Proof/Machine/Pool.lean ====
section
/-! DEFINITION. Page geometry, page trees, look-aside buffers, the shared pool, group records, and the reading of a page
(R133 to R145, R150 to R154, R167, R170, R177, R188, R190). -/
namespace Sys2Proof.Machine

/-- The first i from a start, within n places, that satisfies p. -/
def searchUp (p : Nat → Bool) : Nat → Nat → Option Nat
  | 0, _ => none
  | n + 1, i => if p i then some i else searchUp p n (i + 1)

/-! ## Ledger entries by request (R105, R106) -/

/-! States of a ledger entry (R108). -/
namespace LSt
abbrev free : Nat := 0
abbrev admitted : Nat := 1
abbrev running : Nat := 2
abbrev handing : Nat := 3
abbrev done : Nat := 4
abbrev refused : Nat := 5
abbrev aborted : Nat := 6
end LSt

/-- The entry of a request, in the hardware table or, in steward mode, in a record (R130); FREE where there is none. -/
def entryOf (s : State) (r : Nat) : LEntry :=
  match s.ldg.entries.find? fun x => x.1 = r with
  | some (_, e) => e
  | none => tget {} s.ldg.spilled r

/-- The 64 bytes of an entry as a number (R105). -/
def entryNum (e : LEntry) : Nat :=
  e.tag.toNat * 2 ^ 448 + e.steps.toNat * 2 ^ 432 + e.posted.toNat * 2 ^ 384 + e.charge.toNat * 2 ^ 320 +
  e.root.toNat * 2 ^ 268 + e.adapter.toNat * 2 ^ 240 + e.length.toNat * 2 ^ 220 + e.nleft.toNat * 2 ^ 200 +
  e.gval.toNat * 2 ^ 160 + e.gate.toNat * 2 ^ 148 + boolNat e.gateEn * 2 ^ 147 + boolNat e.late * 2 ^ 127 +
  e.part.val * 2 ^ 126 + e.sclass.toNat * 2 ^ 120 + e.status.toNat * 2 ^ 112 + e.deadline.toNat * 2 ^ 64 +
  e.ld.val * 2 ^ 60 + e.model.toNat * 2 ^ 48 + e.share.toNat * 2 ^ 40 + e.prio.toNat * 2 ^ 36 +
  e.state.toNat * 2 ^ 32 + e.request.toNat

/-- The record of a spilled request written at its place from LDG_SPILL on; a request that went FREE gives its place back
(R130, R131; log entry 116). -/
def writeSpilled (s : State) (r : Nat) (e : LEntry) : State :=
  let k := tget 0 s.ldg.spillAt r
  let s := memWriteNum s (s.ldg.spill.toNat * 2 ^ 28 + 64 * (k - 1)) 64 (entryNum e)
  if e.state.toNat = 0 then { s with ldg := { s.ldg with spillAt := tdel s.ldg.spillAt r } } else s

/-- The entry of a request changed, where it lies. -/
def entrySet (s : State) (r : Nat) (e : LEntry) : State :=
  if s.ldg.spilled.any fun x => x.1 = r then writeSpilled { s with ldg := { s.ldg with spilled := tset {} s.ldg.spilled r e } } r e
  else { s with ldg := { s.ldg with entries := tset {} s.ldg.entries r e } }

/-- The entry of a request in a partition; none where it is FREE or of the other partition. -/
def entryIn (s : State) (p : Part) (r : Nat) : Option LEntry :=
  let e := entryOf s r
  if e.state.toNat = LSt.free || e.part ≠ p then none else some e

/-- The entry of an operation's request, ADMITTED or RUNNING in its partition. -/
def activeEntry (s : State) (o : Op) : Option LEntry :=
  (entryIn s o.part o.request.toNat).filter fun e => e.state.toNat = LSt.admitted || e.state.toNat = LSt.running

/-! ## Geometry and tables (R134 to R138) -/

/-- The geometry fields, 38 bits: model, layers, heads, dcode, fmt, gcount (R136, R137). -/
def geLayers (g : Nat) : Nat := bf g 18 8 + 1
def geHeads (g : Nat) : Nat := bf g 12 6 + 1
def geDcode (g : Nat) : Nat := bf g 9 3
def geDim (g : Nat) : Nat := 64 + 32 * geDcode g
def geFmt (g : Nat) : Nat := bf g 7 2
def geGran (g : Nat) : Nat := bf g 0 7 + 1
/-- Bytes of a head vector, of a token row, of a page (R133, R134). -/
def geVec (g : Nat) : Nat := headBytes (geFmt g) (geDim g)
def geRow (g : Nat) : Nat := 2 * geHeads g * geVec g
def gePage (g : Nat) : Nat := geGran g * 16384

/-- The geometry keeps the limits of R134. -/
def geomOk (g : Nat) : Bool :=
  geDcode g ≠ 7 && geFmt g ≠ 3 && ceilDiv (256 * geRow g) 16384 = geGran g && decide (gePage g ≤ 2 ^ 21)

def rootAddr (e : LEntry) : Nat := e.root.toNat * 4096
def rootGeom (s : State) (root : Nat) : Nat := bf (tabNum s root 16) 90 38
/-- cap − 1, the highest group position of the root table. -/
def rootCap (s : State) (root : Nat) : Nat := bf (tabNum s root 16) 77 13

/-- The group table of a group position; none where the root entry is not valid. -/
def rootEntry (s : State) (root g : Nat) : Option Nat :=
  let e := tabNum s (root + 64 + 8 * g) 8
  if e.testBit 0 && decide (g ≤ rootCap s root) then some (e / 64 * 64) else none

def setRoot (s : State) (root g v : Nat) : State := memWriteNum s (root + 64 + 8 * g) 8 v

/-- The mapped group positions of a tree, with their tables. -/
def mappedGroups (s : State) (root : Nat) : List (Nat × Nat) :=
  (List.range (min 4096 (rootCap s root + 1))).filterMap fun g => (rootEntry s root g).map fun gt => (g, gt)

def gtHeader (s : State) (gt : Nat) : Nat := tabNum s gt 64
def hdState (h : Nat) : Nat := bf h 0 2
def hdSealed (h : Nat) : Nat := bf h 57 9
def hdGeom (h : Nat) : Nat := bf h 66 38
def hdGroup (h : Nat) : Nat := bf h 104 24
def hdDigest (h : Nat) : Nat := bf h 384 128

def mkHeader (digest group geom nsealed st : Nat) : Nat :=
  digest * 2 ^ 384 + group * 2 ^ 104 + geom * 2 ^ 66 + nsealed * 2 ^ 57 + st

def setHeader (s : State) (gt h : Nat) : State := memWriteNum s gt 64 h

def sumAddr (gt layers l : Nat) : Nat := gt + 64 + 16 * layers + 8 * l

def peCaddr (e : Nat) : Nat := bf e 16 48
def peNode (e : Nat) : Nat := bf e 82 14
def pePoff (e : Nat) : Nat := bf e 16 36
def peTicket (e : Nat) : Nat := bf e 64 32

/-! The kinds of page table entries (R138). -/
namespace PK
abbrev unmapped : Nat := 0
abbrev vat : Nat := 1
abbrev dram : Nat := 2
abbrev cave : Nat := 3
abbrev peer : Nat := 4
abbrev transit : Nat := 5
end PK

/-- An entry with the geometry's fmt and gcount; place holds bits 95:16 at their places. -/
def mkPte (kind : Nat) (cv : Bool) (geom place group age : Nat) : Nat :=
  kind + boolNat cv * 8 + geFmt geom * 2 ^ 7 + (geGran geom - 1) * 2 ^ 9 + place + group * 2 ^ 96 + age * 2 ^ 120

def whereVat (fill st gran : Nat) : Nat := fill * 2 ^ 87 + st * 2 ^ 43 + gran * 2 ^ 21
def whereDram (slot sub st gran : Nat) : Nat := slot * 2 ^ 91 + sub * 2 ^ 71 + st * 2 ^ 43 + gran * 2 ^ 21
def whereTransit (ticket st gran : Nat) : Nat := ticket * 2 ^ 64 + st * 2 ^ 43 + gran * 2 ^ 21

/-! ## Walkers (R141 to R144) -/

def walkersIn (s : State) : List Nat := below 16 fun w => unitIn s (uid 5 w)

/-- The walker that serves a request (R141). -/
def walkerOf (s : State) (r : Nat) : Option Nat :=
  let ws := walkersIn s
  ws[r % ws.length]?

/-- Look-aside entries dropped in every walker. -/
def laDrop (s : State) (p : LaEntry → Bool) : State :=
  { s with wlk := { s.wlk with la :=
    (s.wlk.la.map fun (w, es) => (w, es.filter fun e => !p e)).filter fun x => x.2 ≠ [] } }

/-- A page table entry written, and the look-aside entries of it dropped (R144). -/
def setPte (s : State) (gt l v : Nat) : State :=
  laDrop (memWriteNum s (pteAddr gt l) 16 v) fun e => e.gt = gt && e.layer = l

/-- A look-aside entry filled, replacing the one of the same tags; a fill sets touched (R142, R179). A buffer holds 512 (R21): DESIGN
CHOICE (log entry 141), the oldest leaves a full one. -/
def laFill (s : State) (w : Nat) (e : LaEntry) : State :=
  let es := ((tget [] s.wlk.la w).filter fun x => !(x.req = e.req && x.g = e.g && x.layer = e.layer)) ++ [e]
  { s with wlk := { s.wlk with la := tset [] s.wlk.la w (es.drop (es.length - 512)) } }

/-- The walk of R142. -/
def walk (s : State) (r : Nat) (e : LEntry) (layer tok : Nat) : Nat × State :=
  let g := tok / 256
  match rootEntry s (rootAddr e) g with
  | none => (0, s)
  | some gt =>
    if geLayers (hdGeom (gtHeader s gt)) ≤ layer then (0, s)
    else
      let v := getPte s gt layer
      if peKind v = PK.dram && peCv v then
        match walkerOf s r with
        | some w => (v, laFill s w { req := BitVec.ofNat 32 r, g := g, layer := layer, gt := gt,
                                     pte := BitVec.ofNat 128 v, touched := true })
        | none => (v, s)
      else (v, s)

/-- A translation: a look-aside hit returns the held entry and touches it, a miss walks (R142, R143). -/
def translate (s : State) (r : Nat) (e : LEntry) (layer tok : Nat) : Nat × State :=
  let g := tok / 256
  let hit (x : LaEntry) : Bool := x.req.toNat = r && x.g = g && x.layer = layer
  match walkerOf s r with
  | none => walk s r e layer tok
  | some w =>
    let es := tget [] s.wlk.la w
    match es.find? hit with
    | some x =>
      (x.pte.toNat, { s with wlk := { s.wlk with
        la := tset [] s.wlk.la w (updFirst hit (fun y => { y with touched := true }) es) } })
    | none => walk s r e layer tok

/-- The group table of a translation: that of the look-aside entry hit, else of the walk. -/
def tableOf (s : State) (r : Nat) (e : LEntry) (layer g : Nat) : Option Nat :=
  let held := ((walkerOf s r).map fun w => tget [] s.wlk.la w).getD []
  match held.find? fun x => x.req.toNat = r && x.g = g && x.layer = layer with
  | some x => some x.gt
  | none => rootEntry s (rootAddr e) g

/-! ## Rows of a granule and the pool (R177, R187, R188, R190) -/

def stackGrans (s : State) : Nat := stackCap s / 16384

/-- Every granule of a range lies in the stack and in rows of a kind: 1,024 granules a position, by its code and its
first granule used. -/
def gransOk (s : State) (st gran n : Nat) (ok : Nat → Nat → Bool) : Bool :=
  decide (0 < n) && decide (gran + n ≤ stackGrans s) &&
  (List.range ((gran + n - 1) / 1024 + 1 - gran / 1024)).all fun i =>
    ok (rowCode s st ((gran / 1024 + i) % 64)) (if i = 0 then gran % 1024 else 0)

def gransProtected (s : State) (st gran n : Nat) : Bool := gransOk s st gran n fun c _ => c = 0
def gransOpen (s : State) (st gran n : Nat) : Bool := gransOk s st gran n fun c _ => c = 1 || c = 2

/-- A byte range lies wholly in protected rows of one stack. -/
def bytesProtected (s : State) (a n : Nat) : Bool :=
  match placeOf s a n with
  | .dram st => reachable s a n &&
      gransProtected s st (a % 2 ^ 36 / 16384) ((a % 2 ^ 36 + n - 1) / 16384 + 1 - a % 2 ^ 36 / 16384)
  | _ => false

/-- A granule touches a retired subarray, or a channel slot with no channel: those of its 16 channel slots (R23, R185, R341). -/
def deadGranule (s : State) (st gran n : Nat) : Bool :=
  ((chanGone s st).any fun k => decide (2 ≤ n) || gran % 2 = k / 16) ||
  s.plan.deadSubs.any fun d =>
    d / 2 ^ 20 = st &&
    (let sub := d % 2 ^ 20
     let blk := sub % 2048 / 32 * 64 + sub / 2048
     decide (gran / 1024 ≤ blk) && decide (blk ≤ (gran + n - 1) / 1024) &&
     (decide (2 ≤ n) || gran % 2 = sub % 32 / 16))

/-- A region of the pool: n granules of data rows that no region holds (R177, R188). -/
def regionFree (s : State) (st : Nat) (vat : Bool) (gran n : Nat) : Bool :=
  gransOk s st gran n (fun c lo => if vat then c = 0 else c = 1 || (c = 2 && decide (544 ≤ lo))) &&
  !deadGranule s st gran n &&
  !s.wlk.regions.any fun r => r.stack = st && decide (gran < r.gran + r.len) && decide (r.gran < gran + n)

/-- The free run of granules: the one a free value names if it fits, else the first that begins a position's data rows or
follows a region (log entry 16). -/
def findGrans (s : State) (st : Nat) (vat : Bool) (n : Nat) : Option Nat :=
  let any := (Config.freeWord s.free).toNat % max 1 (stackGrans s)
  if regionFree s st vat any n then some any
  else
    match searchUp (fun b => regionFree s st vat (b * 1024) n || (!vat && regionFree s st vat (b * 1024 + 544) n))
        (stackGrans s / 1024) 0 with
    | some b => some (if regionFree s st vat (b * 1024) n then b * 1024 else b * 1024 + 544)
    | none =>
      ((s.wlk.regions.filter fun r => r.stack = st).find? fun r => regionFree s st vat (r.gran + r.len) n).map
        fun r => r.gran + r.len

/-- A sketch slot is free in heads consecutive in-service subarrays of sketch bands (R177, R188). -/
def sketchFree (s : State) (st sub slot heads : Nat) : Bool :=
  (List.range heads).all fun i =>
    subIn s st (sub + i) && rowCode s st ((sub + i) / 2048) = 2 &&
    !s.wlk.regions.any fun r =>
      r.stack = st && !r.vat && r.slot = slot && decide (r.sub ≤ sub + i) && decide (sub + i < r.sub + r.heads)

/-- A free sketch slot: searched upward and around from the hint, or from a free value (R177; log entry 16). -/
def findSketch (s : State) (st heads : Nat) (hint : Option Nat) : Option (Nat × Nat) :=
  let start := hint.getD ((Config.freeWord (s.free + 1)).toNat % 2 ^ 17) % 2 ^ 17
  let k0 := (Config.freeWord (s.free + 2)).toNat % 32
  let slotOf (sub : Nat) : Option Nat :=
    ((List.range 32).map fun i => (k0 + i) % 32).find? fun k => sketchFree s st sub k heads
  (searchUp (fun i => (slotOf (i % 2 ^ 17)).isSome) (2 ^ 17) start).map fun i =>
    (i % 2 ^ 17, (slotOf (i % 2 ^ 17)).getD 0)

/-- Open-row granules and sketch slots that a partition's pool holds taken. -/
def poolTaken (s : State) (p : Part) : Nat × Nat :=
  (s.wlk.regions.filter fun r => r.part = p && !r.vat).foldl (fun (a, b) r => (a + r.len, b + r.heads)) (0, 0)

/-- The stacks a partition's pool draws on, in service and ready (R104, R177). -/
def poolStacks (s : State) (p : Part) : List Nat :=
  below 32 fun st => (partDesc s p).stackSet.toNat.testBit st && stackIn s st && stackReady s st

/-- The open data granules of a stack: 1,024 of a position of code 1, 480 of code 2, those of retired subarrays and of unbound channel slots apart (R23). -/
def openGrans (s : State) (st : Nat) : Nat :=
  let per (pos : Nat) : Nat := match rowCode s st pos with | 1 => 1024 | 2 => 480 | _ => 0
  let halves := [0, 1].filter fun h => !(chanGone s st).any fun k => k / 16 = h
  let dead := (s.plan.deadSubs.filter fun d => d / 2 ^ 20 = st && halves.contains (d % 32 / 16)).map fun d =>
    let sub := d % 2 ^ 20
    (sub % 2048 / 32 * 64 + sub / 2048) * 2 + sub % 32 / 16
  bankCount s * ((List.range 64).map per).foldl (· + ·) 0 / 2 * halves.length -
    ((dead.eraseDups).map fun k => per (k / 2 % 64) / 2).foldl (· + ·) 0

/-- WLK_FREE.free: the free open-row granules of a partition's pool, within its quota (R177). -/
def poolFree (s : State) (p : Part) : Nat :=
  min (partDesc s p).granules (((poolStacks s p).map (openGrans s)).foldl (· + ·) 0) - (poolTaken s p).1

/-- The row map of a stack accepts no more writes (R190). -/
def freezeMap (s : State) (st : Nat) : State :=
  { s with mem := { s.mem with frozen := setF s.mem.frozen st 1 1 } }

/-- One region taken on one of some stacks, by the quota of the partition's pool (R104, R177). -/
def takeRegion (s : State) (p : Part) (geom : Nat) (vat : Bool) (hint : Option Nat) : List Nat → Option (Region × State)
  | [] => none
  | st :: r =>
    let n := if vat then geLayers geom * geGran geom else geGran geom
    let h := geHeads geom
    let (g, k) := poolTaken s p
    let quota := vat || (decide (g + n ≤ (partDesc s p).granules) && decide (k + h ≤ (partDesc s p).slots))
    let found : Option (Nat × Nat × Nat) := match findGrans s st vat n with
      | none => none
      | some gran => if vat then some (gran, 0, 0) else (findSketch s st h hint).map fun (sub, slot) => (gran, sub, slot)
    match found with
    | some (gran, sub, slot) =>
      if quota then
        let x : Region := { part := p, stack := st, gran := gran, len := n, slot := slot, sub := sub,
                            heads := if vat then 0 else h, vat := vat, named := false }
        let s := { s with wlk := { s.wlk with regions := s.wlk.regions ++ [x] }, free := s.free + 3 }
        some (x, if vat then s else freezeMap s st)
      else none
    | none => takeRegion s p geom vat hint r

/-- n regions, or none of them (R177). -/
def takeRegions (s : State) (p : Part) (geom : Nat) (vat : Bool) (hint : Option Nat) (sts : List Nat) :
    Nat → Option (List Region × State)
  | 0 => some ([], s)
  | n + 1 =>
    match takeRegion s p geom vat hint sts with
    | none => none
    | some (x, s) => (takeRegions s p geom vat hint sts n).map fun (xs, s) => (x :: xs, s)

/-- The region word (R177). -/
def regionWord (r : Region) : Nat :=
  r.slot * 2 ^ 59 + r.sub * 2 ^ 39 + r.gran * 2 ^ 17 + r.stack * 2 ^ 12 + boolNat r.vat

/-- The taken region that a region word names exactly. -/
def regionOf (s : State) (p : Part) (w : Nat) : Option Region :=
  s.wlk.regions.find? fun r => r.part = p && regionWord r = w && !r.released

/-- Where a pool's free granules are no longer below WLK_WATER.low, the keeper's next shortage is a new crossing (R180). -/
def recross (s : State) : State :=
  let up (t : Table (BitVec 3)) (x : Nat × BitVec 3) : Table (BitVec 3) :=
    if poolFree s (Fin.ofNat 2 x.1) < (tget 0 s.wlk.low x.1).toNat then t else tset 0 t x.1 (setF x.2 2 1 0)
  { s with wlk := { s.wlk with crossed := s.wlk.crossed.foldl up s.wlk.crossed } }

/-- The pages that an operation translates to noted with it (R154). -/
def noteUses (s : State) (t : Ticket) (us : List (Nat × Nat × Nat)) : State := opUpd s t fun o => { o with uses := us ++ o.uses }

/-- An operation that is not completed has translated to a page in the granules of a region (R154). -/
def regionUsed (s : State) (r : Region) : Bool :=
  s.ops.any fun o => o.phase ≠ .recorded && o.uses.any fun (st, g, n) => st = r.stack && decide (g < r.gran + r.len) && decide (r.gran < g + n)

/-- Granules of a stack released: the regions that hold them lose them, but what an operation under way has translated to, which
returns to the pool when that has completed (R154). -/
def releaseGrans (s : State) (st gran n : Nat) : State :=
  let left (r : Region) : List Region := if regionUsed s r then [{ r with released := true }] else []
  let cut (r : Region) : List Region :=
    if !r.released && r.stack = st && decide (gran < r.gran + r.len) && decide (r.gran < gran + n) then
      if !r.vat then left r
      else
        (if r.gran < gran then [{ r with len := gran - r.gran }] else []) ++
        left { r with gran := max gran r.gran, len := min (gran + n) (r.gran + r.len) - max gran r.gran } ++
        (if gran + n < r.gran + r.len then [{ r with gran := gran + n, len := r.gran + r.len - (gran + n) }] else [])
    else [r]
  recross { s with wlk := { s.wlk with regions := s.wlk.regions.flatMap cut } }

/-- The released regions that no operation under way uses any more return to the pool (R154). -/
def returnReleased (s : State) : State :=
  if s.wlk.regions.any fun r => r.released && !regionUsed s r then
    recross { s with wlk := { s.wlk with regions := s.wlk.regions.filter fun r => !(r.released && !regionUsed s r) } }
  else s

/-- The regions that hold granules of a range were named by an instruction (R177). -/
def nameGrans (s : State) (st gran n : Nat) : State :=
  let mark (r : Region) : Region :=
    if r.stack = st && decide (gran < r.gran + r.len) && decide (r.gran < gran + n) then { r with named := true } else r
  { s with wlk := { s.wlk with regions := s.wlk.regions.map mark } }

/-! ## Group records (R167) -/

def setRec (s : State) (p : Part) (n v : Nat) : State := memWriteNum s (recAddr s p n) 16 v

def mkRec (gt : Nat) (indexed : Bool) (place live refs : Nat) : Nat :=
  gt / 64 * 2 ^ 70 + boolNat indexed * 2 ^ 66 + place * 2 ^ 64 + live % 2 ^ 32 * 2 ^ 32 + refs % 2 ^ 32

/-- A free group record: the one a free value names, else the next free one upward and around (log entry 16). -/
def findRec (s : State) (p : Part) : Option Nat :=
  let k := recCount s p
  if k = 0 then none
  else (searchUp (fun i => rcGt (getRec s p (i % k)) = 0) k ((Config.freeWord s.free).toNat % k)).map fun i => i % k

/-- A record of a number changed in its counts by a function of live and refs. -/
def recCounts (s : State) (p : Part) (n : Nat) (f : Nat × Nat → Nat × Nat) : State :=
  let v := getRec s p n
  let (l, r) := f (rcLive v, rcRefs v)
  setRec s p n (mkRec (rcGt v) (rcIndexed v) (rcPlace v) l r)

/-- The group records of a partition in use, ascending. -/
def usedRecs (s : State) (p : Part) : List Nat := below (recCount s p) fun n => rcGt (getRec s p n) ≠ 0

/-! ## Pages: layout, sketch, checksum (R135, R150, R151, R153) -/

/-- The first byte of a page at a stack and granule. -/
def pageAddr (st gran : Nat) : Nat := st * 2 ^ 36 + gran * 16384

/-- The compute layout of a page's bytes in vat layout, with its zero pad (R135). -/
def computeLayout (geom : Nat) (vat : List Byte) : List Byte :=
  let r := geVec geom
  let row := geRow geom
  let blocks := (List.range (2 * geHeads geom)).flatMap fun b =>
    (List.range 256).flatMap fun t => (vat.drop (t * row + b * r)).take r
  blocks ++ List.replicate (gePage geom - 256 * row) 0

/-- The sketch bytes of head h, dimension j: bit t of the segment is token t's sketch bit (R150, R151). -/
def sketchSegment (geom : Nat) (page : List Byte) (h j : Nat) : List Byte :=
  let r := geVec geom
  leBytes 32 (((List.range 256).map fun t =>
    boolNat (sketchBit (geFmt geom) ((page.drop (h * 256 * r + t * r)).take r) j) * 2 ^ t).foldl (· + ·) 0)

/-- The sketch of a page in compute layout. -/
def sketchOf (geom : Nat) (page : List Byte) : List Byte :=
  (List.range (geHeads geom)).flatMap fun h => (List.range (geDim geom)).flatMap fun j => sketchSegment geom page h j

/-- The segment's place: row j of subarray sub + h, from bit slot × 256 (R150). -/
def segAddr (st sub slot h j : Nat) : Nat := rowAddr st (sub + h) j + 32 * slot

/-- The sketch bytes that lie in the sketch band. -/
def storedSketch (s : State) (geom st sub slot : Nat) : List Byte :=
  (List.range (geHeads geom)).flatMap fun h => (List.range (geDim geom)).flatMap fun j =>
    memRead s (segAddr st sub slot h j) 32

/-- The sketch written into the sketch band. -/
def writeSketch (s : State) (geom st sub slot : Nat) (sk : List Byte) : State :=
  (List.range (geHeads geom)).foldl (fun s h => (List.range (geDim geom)).foldl (fun s j =>
    memWrite s (segAddr st sub slot h j) ((sk.drop (32 * (h * geDim geom + j))).take 32)) s) s

/-- The checksum of R151 over a page in compute layout and its sketch. -/
def pageSum (page sk : List Byte) : Nat :=
  let lines := page.length / 64
  let ls := cutEvery 64 lines page ++ cutEvery 64 (sk.length / 64) sk
  (indexed ls).foldl (fun x (i, l) => x ^^^ (crc64 (leBytes 4 i ++ l)).toNat) 0

/-- A DRAM page, at the place that an entry gives, verifies: none of its lines, of its page or its sketch, is poison, and its
checksum is that of its group table (R151, R153). -/
def verifyEntry (s : State) (gt l e : Nat) : Bool :=
  let geom := hdGeom (gtHeader s gt)
  let st := peStack e
  let a := pageAddr st (peGran e)
  let p := gePage geom
  !poisoned s a p &&
  (List.range (geHeads geom)).all (fun h => (List.range (geDim geom)).all fun j =>
    !poisoned s (segAddr st (peSub e) (peSlot e) h j) 32) &&
  pageSum (memRead s a p) (storedSketch s geom st (peSub e) (peSlot e)) = tabNum s (sumAddr gt (geLayers geom) l) 8

/-- A DRAM page verifies at the place of its present entry. -/
def verifyPage (s : State) (gt l : Nat) : Bool := verifyEntry s gt l (getPte s gt l)

/-- A page handed to the repair agent of a partition (R343). -/
def queuePage (s : State) (p : Part) (group layer : Nat) : State :=
  { s with wlk := { s.wlk with repair := tset [] s.wlk.repair p.val (tget [] s.wlk.repair p.val ++ [(group, layer)]) } }

/-- A page failed: its entry rewritten with cv 0, one record, and the page handed to the repair agent (R153, R343). -/
def failPage (s : State) (p : Part) (gt l : Nat) : State :=
  let e := getPte s gt l
  let s := setPte s gt l (e - boolNat (peCv e) * 8)
  queuePage (raise s 0x06 p.val (uid 9 (peStack e)) (peGroup e) l) p (peGroup e) l

/-- How an engine may use a page (R153): the bytes of a verified page in compute layout; the rows below fill of a vat
page, each line's poison kept; or no data, with CHECKSUM. -/
inductive PageUse where
  | sealed (addr : Nat)
  | vat (addr fill : Nat)
  | absent
  deriving DecidableEq, Repr

/-- The reading of a DRAM page and its sketch in full noted (R194). -/
def noteEntry (s : State) (gt e : Nat) : State :=
  let geom := hdGeom (gtHeader s gt)
  let st := peStack e
  let s := noteRead s (pageAddr st (peGran e)) (gePage geom)
  (List.range (geHeads geom)).foldl (fun s h => noteRead s (segAddr st (peSub e) (peSlot e) h 0) 32) s

/-- The PAGE_ABSENT record of an entry (R153, R346). -/
def raiseAbsent (s : State) (p : Part) (l e : Nat) : State := raise s 0x07 p.val 0 (peGroup e) (l + peKind e * 256)

/-- A page read in full by an engine at the entry of its translation (R153): one that fails has its entry rewritten where that is
still its entry, but for the age, which the sweep writes in place (R143). -/
def usePage (s : State) (p : Part) (gt l e : Nat) : PageUse × State :=
  if peKind e = PK.dram && peCv e then
    let s := noteEntry s gt e
    if verifyEntry s gt l e then (.sealed (pageAddr (peStack e) (peGran e)), s)
    else (.absent, if getPte s gt l % 2 ^ 120 = e % 2 ^ 120 then failPage s p gt l else s)
  else if peKind e = PK.vat then
    (.vat (pageAddr (peStack e) (peGran e)) (peFill e), noteRead s (pageAddr (peStack e) (peGran e)) (peFill e * geRow (hdGeom (gtHeader s gt))))
  else (.absent, raiseAbsent s p l e)

end Sys2Proof.Machine
end

