-- ==== Sys2Proof/Machine/Shard.lean ====
section
/-! DEFINITION. The index shard: its sets and entries, and what it does with a lookup, a claim, an insertion and a removal
(R160 to R166). -/
namespace Sys2Proof.Machine

/-- The partition whose shard table the device serves: the lower one that has one (log entry 17). -/
def shardPart (s : State) : Nat := if (tget 0 s.wlk.shardS 0).toNat ≠ 0 then 0 else 1
def shardS (s : State) : Nat := (tget 0 s.wlk.shardS (shardPart s)).toNat

/-- The address of a way of a digest's set (R161). -/
def wayAddr (s : State) (digest way : Nat) : Nat :=
  (tget 0 s.wlk.shardBase (shardPart s)).toNat * 2 ^ 22 + (digest % 2 ^ shardS s * 4 + way) * 64

def wayGet (s : State) (digest way : Nat) : Nat := memNum s (wayAddr s digest way) 64
def waySet (s : State) (digest way v : Nat) : State := memWriteNum s (wayAddr s digest way) 64 v

/-- The shard answers: it holds no table, or its set is not poisoned by the loss of its stack (R161, R344). -/
def shardAlive (s : State) (digest : Nat) : Bool := shardS s = 0 || !poisoned s (wayAddr s digest 0) 256

def ixState (v : Nat) : Nat := bf v 0 2
def ixDigest (v : Nat) : Nat := bf v 384 128
def ixGeom (v : Nat) : Nat := bf v 172 38
def ixHit (v : Nat) : Nat := bf v 124 48
def ixCexp (v : Nat) : Nat := bf v 76 48
def ixCnode (v : Nat) : Nat := bf v 62 14
def ixHas (v k : Nat) : Bool := v.testBit (2 + k)
/-- Holder k as a fabric address. -/
def ixHolder (v k : Nat) : Nat := bf v (326 - 58 * k) 58 * 64

/-- The valid holders in slot order. -/
def ixHolders (v : Nat) : List Nat := ([0, 1, 2].filter (ixHas v)).map (ixHolder v)

/-- An entry from its fields; holders in slot order, none for a free slot. -/
def mkIx (digest : Nat) (hs : List (Option Nat)) (geom hit cexp cnode st : Nat) : Nat :=
  digest * 2 ^ 384 + geom * 2 ^ 172 + hit * 2 ^ 124 + cexp * 2 ^ 76 + cnode * 2 ^ 62 + st +
  ((indexed hs).map fun (k, h) => match h with
    | some a => a / 64 * 2 ^ (326 - 58 * k) + 2 ^ (2 + k)
    | none => 0).foldl (· + ·) 0

def ixSlots (v : Nat) : List (Option Nat) := [0, 1, 2].map fun k => if ixHas v k then some (ixHolder v k) else none

/-- A claim whose time has come (R162, R164). -/
def claimOver (s : State) (v : Nat) : Bool := reached48 s (ixCexp v)

/-- The way that holds a digest, VALID or CLAIMED. -/
def wayOf (s : State) (digest : Nat) : Option Nat :=
  [0, 1, 2, 3].find? fun w => let v := wayGet s digest w; (ixState v = 1 || ixState v = 2) && ixDigest v = digest

/-- The way for a new entry of a claim: EMPTY, else a claim whose time has come (R162). -/
def wayForClaim (s : State) (digest : Nat) : Option Nat :=
  match [0, 1, 2, 3].find? fun w => let k := ixState (wayGet s digest w); k = 0 || k = 3 with
  | some w => some w
  | none => [0, 1, 2, 3].find? fun w => let v := wayGet s digest w; ixState v = 1 && claimOver s v

/-- The way for a new entry of an insertion: as for a claim, else the least hit, or cexp of a claim (R162). -/
def wayForInsert (s : State) (digest : Nat) : Nat :=
  match wayForClaim s digest with
  | some w => w
  | none =>
    (leastBy (fun w => let v := wayGet s digest w; if ixState v = 1 then ixCexp v else ixHit v) [0, 1, 2, 3]).getD 0

/-- A lookup (R164): a hit, a VALID entry of the geometry asked, takes the shard's bell. -/
def shardLookup (s : State) (m : IndexMsg) : State × IndexAnswer :=
  let d := m.digest.toNat
  if shardS s = 0 then (s, .absent)
  else match wayOf s d with
  | none => (s, .absent)
  | some w =>
    let v := wayGet s d w
    if ixState v = 1 then (s, if claimOver s v then .absent else .claimedBy (BitVec.ofNat 14 (ixCnode v)))
    else
      let s := if ixGeom v = m.geometry.toNat then
          waySet s d w (mkIx d (ixSlots v) (ixGeom v) (bell48 s) (ixCexp v) (ixCnode v) 2)
        else s
      (s, .valid (BitVec.ofNat 38 (ixGeom v)) ((ixHolders v).map (BitVec.ofNat 64)))

/-- A claim (R164, R174): one that finds the digest claimed learns by whom; its time in the shard's own bell counts, ⌊ctime ÷ (P × 1.005 33)⌋ with P 2.5 ns × div. DESIGN CHOICE (log entry 147): a digest
whose own claim has expired keeps its way. -/
def shardClaim (s : State) (m : IndexMsg) (ctime : Nat) : State × IndexAnswer :=
  let d := m.digest.toNat
  let held := (wayOf s d).bind fun w =>
    let v := wayGet s d w
    if ixState v = 2 then some IndexAnswer.claimRefused
    else if claimOver s v then none else some (.claimedBy (BitVec.ofNat 14 (ixCnode v)))
  if shardS s = 0 then (s, .claimRefused)
  else match held with
  | some x => (s, x)
  | none =>
    let w := match wayOf s d with | some w => some w | none => wayForClaim s d
    match w with
    | none => (s, .claimRefused)
    | some w =>
      let cexp := (bell48 s + ctime * 200000 / (s.clk.div.toNat * 502665)) % 2 ^ 48
      (waySet s d w (mkIx d [none, none, none] 0 0 cexp m.src.toNat 1), .claimMade)

/-- An insertion and its outcome (R165); a node without a shard ignores it, and its answer is free (R161; log entry 3). -/
def shardInsert (s : State) (m : IndexMsg) : State × IndexAnswer :=
  let d := m.digest.toNat
  let g := m.geometry.toNat
  let h := m.holder.toNat / 64 * 64
  let fresh (w : Nat) : State × IndexAnswer :=
    (waySet s d w (mkIx d [some h, none, none] g (bell48 s) 0 0 2), .outcome 0)
  if shardS s = 0 then ({ s with free := s.free + 1 }, .outcome (BitVec.ofNat 8 ((Config.freeWord s.free).toNat % 6)))
  else match wayOf s d with
  | none => fresh (wayForInsert s d)
  | some w =>
    let v := wayGet s d w
    let slots := ixSlots v
    let put (hs : List (Option Nat)) : State := waySet s d w (mkIx d hs g (bell48 s) (ixCexp v) (ixCnode v) 2)
    if ixState v = 1 then fresh w
    else if ixGeom v ≠ g then (s, .outcome 5)
    else if slots.contains (some h) then (put slots, .outcome 2)
    else if (ixHolders v).any fun a => a / 2 ^ 50 = m.src.toNat then (s, .outcome 3)
    else match slots.findIdx? fun x => x.isNone with
      | some k => (put (slots.set k (some h)), .outcome 1)
      | none => (s, .outcome 4)

/-- A removal: the holder's slot cleared, an entry with no holder EMPTY (R166). -/
def shardRemove (s : State) (m : IndexMsg) : State × IndexAnswer :=
  let d := m.digest.toNat
  let h := m.holder.toNat / 64 * 64
  if shardS s = 0 then (s, .outcome 0)
  else match wayOf s d with
  | none => (s, .outcome 0)
  | some w =>
    let v := wayGet s d w
    if ixState v ≠ 2 then (s, .outcome 0)
    else
      let hs := (ixSlots v).map fun x => if x = some h then none else x
      let v' := if hs.all fun x => x.isNone then 0 else mkIx d hs (ixGeom v) (ixHit v) (ixCexp v) (ixCnode v) 2
      (waySet s d w v', .outcome 0)

/-- A message at the shard by kind. -/
def shardServe (s : State) : IndexBody → State × IndexAnswer
  | .lookup m => shardLookup s m
  | .claim m t => shardClaim s m t.toNat
  | .insert m => shardInsert s m
  | .removal m => shardRemove s m
  | .answer x => (s, x)

/-- An index request to a shard. -/
def indexMsg (s : State) (edition : W32) (digest geometry holder : Nat) : IndexMsg :=
  { src := ownNode s, tag := 0, edition := edition, digest := BitVec.ofNat 128 digest,
    geometry := BitVec.ofNat 38 geometry, holder := BitVec.ofNat 64 holder }

/-- The fabric address of a table of this device. -/
def fabricOf (s : State) (a : Nat) : Nat := (ownNode s).toNat * 2 ^ 50 + a

/-- An index request sent to the shard of its digest under an edition. -/
def sendIndex (s : State) (owner : Owner) (node : Node) (edition : W32) (b : IndexBody) : State :=
  sendRequest s owner false { dst := node, op := 0x09, edition := edition } (some b)

/-- A removal put to its digest's shard: at once where that is this device's own, else by packet; to a node that the live set excludes it ends
as unanswered (R166, R253). A digest whose bucket names no node has no shard. -/
def putRemoval (s : State) (again : Bool) (m : IndexMsg) : State :=
  match shardOf s m.digest.toNat with
  | none => s
  | some n =>
    if n = ownNode s then (if shardAlive s m.digest.toNat then (shardRemove s m).1 else s)
    else if excluded s n then deadRecord s n
    else sendIndex s (.removal again) n m.edition (.removal m)

/-- The removal of a freed group's holder, under the current edition (R166). -/
def sendRemoval (s : State) (digest gt : Nat) : State :=
  putRemoval s false (indexMsg s s.isf.map.edition digest 0 (fabricOf s gt))

end Sys2Proof.Machine
end

