-- ==== Sys2Proof/Machine/Pages.lean ====
section
/-! DEFINITION. Translation, vats, pressing, mapping and unmapping of page groups (R139 to R159, R168 to R173, R177, R178,
R182). -/
namespace Sys2Proof.Machine

/-! ## Release of groups (R154, R166, R170) -/

/-- The kind and place of a return record (R182; log entry 20). -/
def retKind (v : Nat) : Nat := bf v 32 3
def retWhere (v : Nat) : Nat := bf v 48 80

/-- The return record of a page that an enrolment brings back, where its entry still is that enrolment's. -/
def returnRecordOf (s : State) (gt l e : Nat) : Option Nat :=
  (s.wlk.enrolled.flatMap fun x => x.2).findSome? fun q =>
    if q.ticket.toNat = peTicket e then (q.pages.find? fun x => x.gt = gt && x.layer = l).map fun x => memNum s x.record 16 else none

/-- The regions and the cave copy of one page of a freed group returned (R170): of a TRANSIT page its cave copy, while the return
agent releases the region (R183). -/
def releasePage (s : State) (gt l : Nat) : State :=
  let e := getPte s gt l
  let n := bf e 9 7 + 1
  if peKind e = PK.vat || peKind e = PK.dram then releaseGrans s (peStack e) (peGran e) n
  else if peKind e = PK.cave then freeRun s (peCaddr e) n
  else if peKind e = PK.transit then
    match returnRecordOf s gt l e with
    | some v => if retKind v = PK.cave then freeRun s (retWhere v % 2 ^ 48) n else s
    | none => s
  else s

/-- A group at refs 0 (R170). -/
def freeGroup (s : State) (p : Part) (n gt : Nat) : State :=
  let v := getRec s p n
  let h := gtHeader s gt
  let s := (List.range (geLayers (hdGeom h))).foldl (fun s l => releasePage s gt l) s
  let s := laDrop s fun e => e.gt = gt
  let s := setRec s p n 0
  if rcIndexed v then sendRemoval s (hdDigest h) gt else s

/-- One root entry unmapped (R170); the look-aside entries of the request and position are dropped in any case (R144). -/
def unmapPos (s : State) (p : Part) (r root : Nat) (lowerLive : Bool) (g : Nat) : State :=
  let s := laDrop s fun e => e.req.toNat = r && e.g = g
  match rootEntry s root g with
  | none => s
  | some gt =>
    let n := hdGroup (gtHeader s gt)
    let v := getRec s p n
    let s := setRoot s root g 0
    let s := recCounts s p n fun (l, c) => ((if lowerLive then l - 1 else l), c - 1)
    if rcRefs v ≤ 1 then freeGroup s p n gt else s

/-- States in which an entry's mappings count as live (R167). -/
def liveState (e : LEntry) : Bool :=
  e.state.toNat = LSt.admitted || e.state.toNat = LSt.running || e.state.toNat = LSt.handing

/-- Every position of a request unmapped, as an entry goes FREE (R170). -/
def unmapAll (s : State) (r : Nat) (e : LEntry) (lowerLive : Bool) : State :=
  (mappedGroups s (rootAddr e)).foldl (fun s x => unmapPos s e.part r (rootAddr e) lowerLive x.1) s

/-- The walk of R172: live raised or lowered for every group mapped in the request's tree. -/
def liveWalk (s : State) (r : Nat) (up : Bool) : State :=
  let e := entryOf s r
  (mappedGroups s (rootAddr e)).foldl (fun s x =>
    recCounts s e.part (hdGroup (gtHeader s x.2)) fun (l, c) => ((if up then l + 1 else l - 1), c)) s

/-- LIVE_WALK (R172): the earliest walk that waits for the request. -/
def execLiveWalk (r : W32) (s : State) : Res :=
  match s.ldg.walks.find? fun w => w.1 = r with
  | none => .next s
  | some w =>
    .next (tryWork true (.walk r) [] (fun s => liveWalk { s with ldg := { s.ldg with walks := s.ldg.walks.erase w } } r.toNat w.2) s)

/-! ## PXLATE and PINV -/

/-- PXLATE (R142): sd even; a request without an entry in the issuer's partition raises PROTECT. -/
def execPxlate (c : CtxId) (w : Ins128) (s : State) : Res :=
  .next (issue 16 0 (w.len && w.resv = 0 && !w.ord && w.whn = 0 && w.tl = 0 && w.tc = 0 && w.q = 0 && w.sd.toNat % 2 = 0)
    w.pred w.pneg c (fun s =>
      let x := ctxGet s c
      let r := (opA x w.sa).toNat % 2 ^ 32
      let b := (getS x w.sb.toNat).toNat
      match entryIn s (partOf x) r with
      | none => .exc s Cause.protect none
      | some e =>
        let (v, s) := if (opA x w.sa).toNat < 2 ^ 32 then translate s r e (bf b 20 8) (bf b 0 20) else (0, s)
        if (opA x w.sa).toNat < 2 ^ 32 then
          .adv (regSet (regSet s c w.sd.toNat (BitVec.ofNat 64 v)) c (w.sd.toNat + 1) (BitVec.ofNat 64 (v / 2 ^ 64)))
        else .exc s Cause.protect none) s)

/-- PINV (R93, R139): every look-aside entry of the request dropped in every walker. The spec gives the token range no
encoding in s[sb]; every range of the request is dropped (log entry 18). -/
def execPinv (c : CtxId) (w : Ins128) (s : State) : Res :=
  issue128 1 c w (fun s =>
    let r := opA (ctxGet s c) w.sa
    .adv (laDrop s fun e => e.req.toNat = r.toNat)) s

/-! ## PMAP -/

/-- An operation completes with PROTECT and steps 0 where its check fails; else its effect. -/
def checked (ok : State → Op → Bool) (f : Op → State → State) (o : Op) (s : State) : State :=
  if ok s o then f o s else opEnd s o.ticket St.protect 0

/-- The steps of PMAP and PUNMAP (R93). -/
def mapSteps (n : Nat) : Nat := 1 + ceilDiv n 512

/-- A walk of R172 for the request is still to run. -/
def walkWaits (s : State) (o : Op) : Bool := s.ldg.walks.any fun w => w.1 = o.request

/-- The mode of a PMAP body (R168). -/
def pmapMode (n : Nat) (o : Op) : Bool := bodyF o 0 4 = n

/-- Fields of modes 2 to 6. -/
def pmA0 (o : Op) : Nat := bodyF o 192 64
def pmCount (o : Op) : Nat := bodyF o 28 24 + 1
def pmPos (o : Op) : Nat := bodyF o 52 12

/-- Bytes of a group table of a geometry (R137). -/
def gtBytes (geom : Nat) : Nat := 64 + 24 * geLayers geom

/-- The places of the group tables that a SHARE makes for the remote ones of its list, from a3 on (R169). -/
def shareTables (s : State) (o : Op) : List (Nat × Nat) :=
  match entryIn s o.part o.request.toNat with
  | none => []
  | some e =>
    let n := gtBytes (rootGeom s (rootAddr e))
    (List.range (pmCount o)).filterMap fun k =>
      if memNum s (pmA0 o + 8 * k) 8 / 2 ^ 50 = (ownNode s).toNat then none
      else some (bodyF o 256 64 + k * (ceilDiv n 64 * 64), n)

/-- What a PMAP names: lists it reads and words it writes, and of a SHARE the tables it makes (R168, R381). -/
def namedPmap (s : State) (o : Op) : Named :=
  let n := pmCount o
  match bodyF o 0 4 with
  | 2 => [(false, pmA0 o, 8 * n), (false, bodyF o 128 64, 16 * n), (true, bodyF o 64 64, 8)] ++
      if decide (n ≤ 4096) then (shareTables s o).map fun x => (true, x.1, x.2) else []
  | 3 => [(true, pmA0 o, 8 * n)]
  | 5 => [(true, pmA0 o, 16 * n)]
  | 6 => [(false, pmA0 o, 8 * n)]
  | _ => []

/-- Reads of a PMAP list meet poison: the operation completes with POISON and changes nothing (R189; log entry 19). -/
def poisonOr (a n : Nat) (f : Op → State → State) (o : Op) (s : State) : State :=
  if poisoned s a n then opEnd s o.ticket St.poison 0 else f o s

/-- The checks of mode OPEN (R145). -/
def openOk (s : State) (o : Op) : Bool :=
  match activeEntry s o with
  | none => false
  | some e =>
    let root := rootAddr e
    let geom := rootGeom s root
    let g := bodyF o 31 12
    let gt := bodyF o 70 58 * 64
    decide (g ≤ rootCap s root) && (rootEntry s root g).isNone && geomOk geom &&
    stackIn s (bodyF o 43 5) && stackReady s (bodyF o 43 5) &&
    gransProtected s (bodyF o 43 5) (bodyF o 48 22) (geLayers geom * geGran geom) &&
    bytesProtected s gt (64 + 24 * geLayers geom) && (findRec s o.part).isSome

/-- PMAP mode OPEN (R145). -/
def execPmapOpen (p : Posted) (s : State) : Res :=
  postedMode 1 namedPmap 4 2 (pmapMode 1) p (fun o s =>
    if walkWaits s o then s
    else checked openOk (fun o s =>
      match activeEntry s o, findRec s o.part with
      | some e, some n =>
        let root := rootAddr e
        let geom := rootGeom s root
        let gt := bodyF o 70 58 * 64
        let (st, gran) := (bodyF o 43 5, bodyF o 48 22)
        let s := setRec { s with free := s.free + 1 } o.part n (mkRec gt false 0 1 1)
        let s := nameGrans s st gran (geLayers geom * geGran geom)
        let s := setHeader s gt (mkHeader 0 n geom 0 1)
        let s := (List.range (geLayers geom)).foldl (fun s l =>
          memWriteNum (setPte s gt l (mkPte PK.vat false geom (whereVat 0 st (gran + l * geGran geom)) n 0))
            (sumAddr gt (geLayers geom) l) 8 0) s
        opEnd (setRoot s root (bodyF o 31 12) (gt + 1)) o.ticket St.complete (mapSteps 1)
      | _, _ => s) o s) s

/-- The stacks that a TAKE searches. -/
def takeStacks (s : State) (o : Op) : List Nat :=
  let ss := poolStacks s o.part
  if (o.body.toNat).testBit 10 then ss else ss.filter fun st => st = bodyF o 11 5

/-- The checks of mode TAKE less the search (R168, R177). DESIGN CHOICE (log entry 146): a0 is 8-byte aligned, here and in GIVE. -/
def takeOk (s : State) (o : Op) : Bool :=
  match activeEntry s o with
  | none => false
  | some e => geomOk (rootGeom s (rootAddr e)) && decide (bodyF o 8 2 < 2) && pmA0 o % 8 = 0

/-- PMAP mode TAKE (R177). -/
def execPmapTake (p : Posted) (s : State) : Res :=
  postedMode 1 namedPmap 4 2 (pmapMode 3) p (fun o s =>
    if walkWaits s o then s
    else checked takeOk (fun o s =>
      match activeEntry s o with
      | none => s
      | some e =>
        let geom := rootGeom s (rootAddr e)
        let hint := if (o.body.toNat).testBit 107 then some (bodyF o 108 20) else none
        match takeRegions s o.part geom (bodyF o 8 2 = 1) hint (takeStacks s o) (pmCount o) with
        | none => opEnd s o.ticket St.protect 0
        | some (rs, s) =>
          opEnd (memWrite s (pmA0 o) (rs.flatMap fun r => leBytes 8 (regionWord r))) o.ticket St.complete
            (mapSteps (pmCount o))) o s) s

/-- The region words of a GIVE. -/
def giveWords (s : State) (o : Op) : List Nat := (List.range (pmCount o)).map fun k => memNum s (pmA0 o + 8 * k) 8

/-- The checks of mode GIVE: every word names, once, a region of the partition never named by an instruction (R177). -/
def giveOk (s : State) (o : Op) : Bool :=
  (activeEntry s o).isSome && pmA0 o % 8 = 0 &&
  (poisoned s (pmA0 o) (8 * pmCount o) ||
    ((giveWords s o).all (fun w => match regionOf s o.part w with | some r => !r.named | none => false) &&
     (giveWords s o).Nodup))

/-- PMAP mode GIVE (R177). -/
def execPmapGive (p : Posted) (s : State) : Res :=
  postedMode 1 namedPmap 4 2 (pmapMode 6) p (fun o s =>
    if walkWaits s o then s
    else checked giveOk (poisonOr (pmA0 o) (8 * pmCount o) (fun o s =>
      let ws := giveWords s o
      let rs := s.wlk.regions.filter fun r => !(r.part = o.part && ws.contains (regionWord r))
      opEnd (recross { s with wlk := { s.wlk with regions := rs } })
        o.ticket St.complete (mapSteps (pmCount o)))) o s) s

/-- The checks of mode PLACE (R168, R178). -/
def placeOk (s : State) (o : Op) : Bool :=
  match activeEntry s o with
  | none => false
  | some e => bodyF o 8 2 ≠ 3 && decide (pmCount o ≤ 4096) &&
      decide (pmPos o + pmCount o - 1 ≤ rootCap s (rootAddr e))

/-- PMAP mode PLACE (R178). -/
def execPmapPlace (p : Posted) (s : State) : Res :=
  postedMode 1 namedPmap 4 2 (pmapMode 4) p (fun o s =>
    if walkWaits s o then s
    else checked placeOk (fun o s =>
      match activeEntry s o with
      | none => s
      | some e =>
        let s := (List.range (pmCount o)).foldl (fun s i =>
          match rootEntry s (rootAddr e) (pmPos o + i) with
          | none => s
          | some gt =>
            let n := hdGroup (gtHeader s gt)
            let v := getRec s o.part n
            setRec s o.part n (mkRec (rcGt v) (rcIndexed v) (bodyF o 8 2) (rcLive v) (rcRefs v))) s
        opEnd s o.ticket St.complete (mapSteps (pmCount o))) o s) s

/-- A CREAD of a page is under way (R318, R330). -/
def creadActive (s : State) (p : Part) (group layer : Nat) : Bool :=
  s.ops.any fun o => o.cls = 9 && o.op = 0 && o.phase = .launched && !o.settled && o.part = p && bodyF o 104 24 = group && bodyF o 96 8 = layer

/-- The pages of a request that are in the cave or on a peer: group table and layer, in tree order, those of a group mapped at two
positions once (R182, R330). -/
def returning (s : State) (p : Part) (root : Nat) : List (Nat × Nat) :=
  ((mappedGroups s root).map fun x => x.2).eraseDups.flatMap fun gt =>
    ((List.range (geLayers (hdGeom (gtHeader s gt)))).filter fun l =>
      let e := getPte s gt l
      (peKind e = PK.cave || peKind e = PK.peer) && !creadActive s p (peGroup e) l).map fun l => (gt, l)

/-- A return record: the group record, the layer and the prior location; the spec gives no layout (log entry 20). -/
def returnRecord (group layer pte : Nat) : Nat := group + layer * 2 ^ 24 + peKind pte * 2 ^ 32 + peWhere pte * 2 ^ 48

/-- The checks of mode RETURN less the search (R168, R182). -/
def returnOk (s : State) (o : Op) : Bool :=
  match activeEntry s o with
  | none => false
  | some e =>
    geomOk (rootGeom s (rootAddr e)) && holdsTally s o.part (bodyF o 16 12) &&
    bytesProtected s (pmA0 o) (16 * pmCount o) &&
    decide ((returning s o.part (rootAddr e)).length ≤ pmCount o)

/-- The page marked TRANSIT with its return record written (R182). -/
def markTransit (o : Op) (a : Nat) (x : (Nat × Nat) × Region) (s : State) : State :=
  let ((gt, l), r) := x
  let e := getPte s gt l
  let s := memWriteNum s a 16 (returnRecord (peGroup e) l e)
  setPte s gt l (mkPte PK.transit false (hdGeom (gtHeader s gt)) (whereTransit o.ticket.toNat r.stack r.gran) (peGroup e) (peAge e))

/-- PMAP mode RETURN (R182). -/
def execPmapReturn (p : Posted) (s : State) : Res :=
  postedMode 1 namedPmap 4 2 (pmapMode 5) p (fun o s =>
    if walkWaits s o then s
    else checked returnOk (fun o s =>
      match activeEntry s o with
      | none => s
      | some e =>
        let root := rootAddr e
        let ps := returning s o.part root
        let groups := (mappedGroups s root).length
        match takeRegions s o.part (rootGeom s root) false none (poolStacks s o.part) ps.length with
        | none => opEnd s o.ticket St.protect 0
        | some (rs, s) =>
          let s := (indexed (ps.zip rs)).foldl (fun s (i, x) => markTransit o (pmA0 o + 16 * i) x s) s
          let s := (rs.foldl (fun s r => nameGrans s r.stack r.gran r.len) s)
          let q : Enrol := {
            request := o.request, ticket := o.ticket, ltally := bodyF o 16 12, layer := 0,
            layers := geLayers (rootGeom s root),
            pages := (indexed (ps.zip rs)).map fun (i, ((gt, l), r)) =>
              { gt := gt, layer := l, stack := r.stack, gran := r.gran, record := pmA0 o + 16 * i } }
          let s := { s with wlk := { s.wlk with
            enrolled := tset [] s.wlk.enrolled o.part.val (tget [] s.wlk.enrolled o.part.val ++ [q]) } }
          opEnd s o.ticket St.complete (mapSteps groups)) o s) s

/-! ## Mode SHARE (R169) -/

/-- The checks of mode SHARE (R137, R168): group tables at 64-byte places in protected rows. DESIGN CHOICE (log entry 146): a2 is 8-byte aligned. -/
def shareOk (s : State) (o : Op) : Bool :=
  match activeEntry s o with
  | none => false
  | some e => geomOk (rootGeom s (rootAddr e)) && decide (pmCount o ≤ 4096) && bodyF o 64 64 % 8 = 0 &&
    (poisoned s (pmA0 o) (8 * pmCount o) || (shareTables s o).all fun (a, n) => a % 64 = 0 && bytesProtected s a n)

/-- SHARE ends: the count mapped and the stop written (R169). -/
def endShare (s : State) (o : Op) (k stop : Nat) : State :=
  let s := memWriteNum s (bodyF o 64 64) 8 (k + stop * 2 ^ 16)
  opEnd s o.ticket (if stop = 5 then St.timeout else St.complete) (mapSteps (pmCount o))

/-- The 4 KiB blocks of a remote table that are not yet read: from its fabric address. -/
def missingBlocks (s : State) (o : Op) (a n : Nat) : List Nat :=
  ((List.range ((a + n - 1) / 4096 + 1 - a / 4096)).map fun i => a / 4096 + i).filter fun b =>
    !((o.buf.any fun x => x.1 = b) || s.isf.lcache.any fun x => x.1 = b)

/-- Bytes of a remote table, from what was read for it and from the landing cache. -/
def remoteBytes (s : State) (o : Op) (a n : Nat) : List Byte :=
  let blocks := (List.range ((a + n - 1) / 4096 + 1 - a / 4096)).flatMap fun i =>
    match (o.buf ++ s.isf.lcache).find? fun x => x.1 = a / 4096 + i with
    | some (_, bs) => bs
    | none => List.replicate 4096 0
  (blocks.drop (a % 4096)).take n

/-- A remote group table mapped: a record and a table of PEER entries made (R169); the stop code where it fails. -/
def importGroup (s : State) (o : Op) (e : LEntry) (k fab digest : Nat) : Except Nat State :=
  let root := rootAddr e
  let geom := rootGeom s root
  let ly := geLayers geom
  let t := ofLe (remoteBytes s o fab (gtBytes geom))
  let h := t % 2 ^ 512
  let pte (l : Nat) : Nat := bf t (8 * (64 + 16 * l)) 128
  if hdState h ≠ 2 || hdDigest h ≠ digest then .error 2
  else if hdGeom h ≠ geom then .error 3
  else if !(List.range ly).all fun l => peKind (pte l) = PK.dram && peCv (pte l) then .error 4
  else match findRec s o.part with
  | none => .error 6
  | some n =>
    let gt := bodyF o 256 64 + k * (ceilDiv (gtBytes geom) 64 * 64)
    if !bytesProtected s gt (gtBytes geom) then .error 2
    else
      let s := setRec { s with free := s.free + 1 } o.part n (mkRec gt false 0 1 1)
      let s := setHeader s gt (mkHeader digest n geom ly 2)
      let s := (List.range ly).foldl (fun s l =>
        let poff := (peStack (pte l) * 2 ^ 36 + peGran (pte l) * 16384) / 2 ^ 14
        let place := fab / 2 ^ 50 * 2 ^ 82 + poff * 2 ^ 16
        memWriteNum (setPte s gt l (mkPte PK.peer false geom place n 0)) (sumAddr gt ly l) 8
          (bf t (8 * (64 + 16 * ly + 8 * l)) 64)) s
      .ok (setRoot s root (pmPos o + k) (gt + 1))

/-- A local group table mapped (R169); the stop code where it fails. -/
def shareLocal (s : State) (o : Op) (e : LEntry) (k a digest : Nat) : Except Nat State :=
  let root := rootAddr e
  let h := match placeOf s a 64 with | .dram _ => gtHeader s a | _ => 0
  let v := getRec s o.part (hdGroup h)
  if hdState h ≠ 2 || hdDigest h ≠ digest || rcRefs v = 0 || rcGt v ≠ a then .error 2
  else if hdGeom h ≠ rootGeom s root then .error 3
  else .ok (setRoot (recCounts s o.part (hdGroup h) fun (l, c) => (l + 1, c + 1)) root (pmPos o + k) (a + 1))

/-- The reads of a remote table sent through the landing, which routes by the current edition (R169, R262). -/
def sendShareReads (s : State) (o : Op) (k : Nat) (bs : List Nat) : State :=
  bs.foldl (fun s b =>
    sendRequest s (.share o.ticket k) true
      { op := 0x01, dst := BitVec.ofNat 14 (b * 4096 / 2 ^ 50), off := BitVec.ofNat 50 (b * 4096),
        edition := s.isf.map.edition, arg := 4096 }) s

/-- SHARE from position k on (R169): it maps a leading run, stops at the first position that fails, and waits where a
remote table is still to be read. It has committed once it has mapped a position. DESIGN CHOICE (log entry 162): a request that is
no longer ADMITTED or RUNNING as it goes on stops it with code 2. -/
def shareFrom (s : State) (t : Ticket) : Nat → Nat → State
  | 0, k => match opGet s t with | some o => endShare s o k 0 | none => s
  | fuel + 1, k =>
    match opGet s t with
    | none => s
    | some o =>
      match activeEntry s o with
      | none => endShare s o k 2
      | some e =>
        let root := rootAddr e
        if rootCap s root < pmPos o + k || (rootEntry s root (pmPos o + k)).isSome then endShare s o k 1
        else
          let a := memNum s (pmA0 o + 8 * k) 8 / 64 * 64
          let d := memNum s (bodyF o 128 64 + 16 * k) 16
          let next (x : Except Nat State) : State := match x with
            | .ok s => shareFrom s t fuel (k + 1)
            | .error c => endShare s o k c
          if a / 2 ^ 50 = (ownNode s).toNat then next (shareLocal s o e k (a % 2 ^ 50) d)
          else
            let n := gtBytes (rootGeom s root)
            let miss := missingBlocks s o a n
            let node : Node := BitVec.ofNat 14 (a / 2 ^ 50)
            if miss.isEmpty then next (importGroup s o e k a d)
            else if excluded s node then endShare (deadRecord s node) o k 5
            else
              let kept := o.buf.filter fun x => decide (a / 4096 ≤ x.1) && decide (x.1 ≤ (a + n - 1) / 4096)
              let s := opUpd s t fun o =>
                { o with phase := if k = 0 then o.phase else .committed, await := miss.length, progress := k, buf := kept }
              sendShareReads s o k miss

/-- PMAP mode SHARE (R169). -/
def execPmapShare (p : Posted) (s : State) : Res :=
  postedMode 1 namedPmap 4 2 (pmapMode 2) p (fun o s =>
    if walkWaits s o || o.await ≠ 0 then s
    else checked shareOk (poisonOr (pmA0 o) (8 * pmCount o) (poisonOr (bodyF o 128 64) (16 * pmCount o)
      (fun o s => shareFrom s o.ticket (pmCount o) 0))) o s) s

/-- A block of a remote table arrives for a SHARE; with its last one the mapping goes on (R169). -/
def shareBlock (s : State) (t : Ticket) (block : Nat) (bs : List Byte) : State :=
  match opGet s t with
  | none => s
  | some o =>
    let s := opUpd s t fun o => { o with buf := o.buf ++ [(block, bs)], await := o.await - 1 }
    if o.await ≤ 1 then shareFrom s t (pmCount o - o.progress) o.progress else s

/-- A holder's table cannot be read (R169): code 5 where it is not reached, code 2 where it is refused or poisoned. -/
def shareFail (s : State) (t : Ticket) (code : Nat) : State :=
  match opGet s t with
  | none => s
  | some o => endShare s o o.progress code

/-! ## PUNMAP -/

/-- The checks of PUNMAP (R171). -/
def punmapOk (s : State) (o : Op) : Bool :=
  match entryIn s o.part o.request.toNat with
  | none => false
  | some e => e.state.toNat ≠ LSt.handing &&
      decide (pmCount o ≤ 4096) && decide (pmPos o + pmCount o - 1 ≤ rootCap s (rootAddr e))

/-- PUNMAP (R170, R171). -/
def execPunmap (p : Posted) (s : State) : Res :=
  posted 1 false (fun _ _ => []) 4 3 p (checked punmapOk fun o s =>
    match entryIn s o.part o.request.toNat with
    | none => s
    | some e =>
      let s := (List.range (pmCount o)).foldl (fun s i =>
        unmapPos s o.part o.request.toNat (rootAddr e) (liveState e) (pmPos o + i)) s
      opEnd s o.ticket St.complete (mapSteps (pmCount o))) s

/-! ## PDIGEST -/

def namedPdigest (_ : State) (o : Op) : Named :=
  let n := bodyF o 44 12 + 1
  [(false, bodyF o 192 64, 1024 * n), (true, bodyF o 128 64, 16 * n)]

/-- The checks of PDIGEST (R159). -/
def pdigestOk (_ : State) (o : Op) : Bool :=
  decide (bodyF o 56 12 + (bodyF o 44 12 + 1) ≤ 4096) && bodyF o 192 64 % 4 = 0 && bodyF o 128 64 % 16 = 0

/-- The digests of n positions from one with its predecessor's digest (R157). -/
def chainDigests (s : State) (o : Op) : Nat → Nat → List Byte → List Byte
  | 0, _, _ => []
  | n + 1, k, prev =>
    let m := prev ++ leBytes 2 (bodyF o 68 12) ++ leBytes 2 (bodyF o 80 16) ++ leBytes 4 (bodyF o 96 32) ++
      memRead s (bodyF o 192 64 + 1024 * k) 1024
    let d := (sha384 m).take 16
    d ++ chainDigests s o n (k + 1) d

/-- PDIGEST (R157, R159). -/
def execPdigest (p : Posted) (s : State) : Res :=
  posted 1 false namedPdigest 4 6 p (checked pdigestOk fun o s =>
    let n := bodyF o 44 12 + 1
    poisonOr (bodyF o 192 64) (1024 * n) (fun o s =>
      let prev := if bodyF o 56 12 = 0 then 0 else bodyF o 256 128
      opEnd (memWrite s (bodyF o 128 64) (chainDigests s o n 0 (leBytes 16 prev))) o.ticket St.complete (ceilDiv n 8)) o s) s

/-! ## PAPPEND -/

/-- The vat page that a body names: the table of group position g in state VAT, layer l in range. -/
def vatPage (s : State) (e : LEntry) (g l : Nat) : Option Nat :=
  match rootEntry s (rootAddr e) g with
  | none => none
  | some gt =>
    let h := gtHeader s gt
    if hdState h = 1 && decide (l < geLayers (hdGeom h)) && peKind (getPte s gt l) = PK.vat then some gt else none

def paRows (o : Op) : Nat := bodyF o 30 6 + 1

/-- The bytes of the strip, as a named read: by the geometry of the request's table. -/
def namedPappend (s : State) (o : Op) : Named :=
  match activeEntry s o with
  | none => []
  | some e => [(false, bodyF o 64 64, paRows o * geRow (rootGeom s (rootAddr e)))]

/-- The checks of PAPPEND (R146). -/
def pappendOk (s : State) (o : Op) : Bool :=
  let pos := bodyF o 44 20
  let l := bodyF o 36 8
  match activeEntry s o with
  | none => false
  | some e => match vatPage s e (pos / 256) l with
    | none => false
    | some gt =>
      let v := getPte s gt l
      let hub := peStack v / 4
      let base := hubBase + hub * 0x400_0000
      let n := paRows o * geRow (hdGeom (gtHeader s gt))
      pos % 256 = peFill v && decide (peFill v + paRows o ≤ 256) &&
      decide (base ≤ bodyF o 64 64) && decide (bodyF o 64 64 + n ≤ base + 32 * 2 ^ 20) && windowIn s hub 0 1

/-- Another operation of a class and op on the same vat page launched earlier and is not done (R147). -/
def earlierAppend (s : State) (o : Op) : Bool :=
  s.ops.any fun q => q.cls = 4 && q.op = 7 && q.phase = .launched && q.request = o.request && q.part = o.part &&
    bodyF q 52 12 = bodyF o 52 12 && bodyF q 36 8 = bodyF o 36 8 && decide (q.launchNo < o.launchNo)

/-- Bytes copied with the poison of their source lines carried to every line they touch. -/
def copyBytes (s : State) (src dst n : Nat) : State :=
  let bs := memRead s src n
  let bad := (List.range ((dst + n + 63) / 64 - dst / 64)).filter fun i =>
    let lo := max dst ((dst / 64 + i) * 64)
    let hi := min (dst + n) ((dst / 64 + i) * 64 + 64)
    poisoned s (src + (lo - dst)) (hi - lo)
  bad.foldl (fun s i => poisonLine s (dst / 64 + i)) (memWrite s dst bs)

/-- PAPPEND (R146, R147). -/
def execPappend (p : Posted) (s : State) : Res :=
  posted 0 false namedPappend 4 7 p (fun o s =>
    if earlierAppend s o then s
    else checked pappendOk (fun o s =>
      let l := bodyF o 36 8
      match (activeEntry s o).bind fun e => vatPage s e (bodyF o 52 12) l with
      | none => s
      | some gt =>
        let v := getPte s gt l
        let row := geRow (hdGeom (gtHeader s gt))
        let n := paRows o * row
        let st := if poisoned s (bodyF o 64 64) n then St.poison else St.complete
        let s := noteUses s o.ticket [(peStack v, peGran v, geGran (hdGeom (gtHeader s gt)))]
        let s := copyBytes s (bodyF o 64 64) (pageAddr (peStack v) (peGran v) + peFill v * row) n
        let s := setPte s gt l (v + paRows o * 2 ^ 87)
        opEnd (addBytes s o n) o.ticket st 1) o s) s

/-! ## PPRESS and PVERIFY -/

/-- As a PPRESS launches, another of the same page is in flight and has not ended with ABORTED (R148, R156). -/
def otherPress (s : State) (o : Op) : Bool :=
  s.ops.any fun q => q.cls = 4 && q.op = 8 && (q.phase = .launched || (q.phase = .ended && q.launchNo ≠ 0 && q.status ≠ St.aborted)) &&
    q.request = o.request && q.part = o.part &&
    bodyF q 52 12 = bodyF o 52 12 && bodyF q 44 8 = bodyF o 44 8 && q.ticket ≠ o.ticket

/-- The checks of PPRESS (R148). -/
def ppressOk (s : State) (o : Op) : Bool :=
  let l := bodyF o 44 8
  let st := bodyF o 101 5
  match activeEntry s o with
  | none => false
  | some e => match vatPage s e (bodyF o 52 12) l with
    | none => false
    | some gt =>
      let geom := hdGeom (gtHeader s gt)
      peFill (getPte s gt l) = 256 && !o.settled && stackIn s st && stackReady s st &&
      gransOpen s st (bodyF o 106 22) (geGran geom) &&
      (List.range (geHeads geom)).all fun i => subIn s st (bodyF o 81 20 + i)

/-- The chunks of a press of a geometry (R149). -/
def pressChunks (geom : Nat) : Nat := ceilDiv (gePage geom) 65536

/-- The seal (R152). -/
def sealPage (s : State) (gt l st gran sub slot sum : Nat) : State :=
  let h := gtHeader s gt
  let v := getPte s gt l
  let geom := hdGeom h
  let s := memWriteNum s (sumAddr gt (geLayers geom) l) 8 sum
  let s := setPte s gt l (mkPte PK.dram true geom (whereDram slot sub st gran) (peGroup v) 0)
  let n := hdSealed h + 1
  let s := setHeader s gt (mkHeader (hdDigest h) (hdGroup h) geom n (if n = geLayers geom then 2 else 1))
  releaseGrans s (peStack v) (peGran v) (geGran geom)

/-- PPRESS (R149 to R152). DESIGN CHOICE (log entry 19): a vat line that is poison ends it with POISON before its seal, as an abort
would, with every chunk's steps run. -/
def execPpress (p : Posted) (s : State) : Res :=
  posted 1 false (fun _ _ => []) 4 8 p (checked ppressOk fun o s =>
    let l := bodyF o 44 8
    match (activeEntry s o).bind fun e => vatPage s e (bodyF o 52 12) l with
    | none => s
    | some gt =>
      let v := getPte s gt l
      let geom := hdGeom (gtHeader s gt)
      let (st, gran, sub, slot) := (bodyF o 101 5, bodyF o 106 22, bodyF o 81 20, bodyF o 76 5)
      let va := pageAddr (peStack v) (peGran v)
      let chunks := pressChunks geom
      let s := noteUses s o.ticket [(peStack v, peGran v, geGran geom)]
      let s := nameGrans (noteRead s va (256 * geRow geom)) st gran (geGran geom)
      if poisoned s va (256 * geRow geom) then
        opEnd (releaseGrans s st gran (geGran geom)) o.ticket St.poison (2 * chunks)
      else
        let page := computeLayout geom (memRead s va (256 * geRow geom))
        let sk := sketchOf geom page
        let s := writeSketch (memWrite s (pageAddr st gran) page) geom st sub slot sk
        opEnd (sealPage s gt l st gran sub slot (pageSum page sk)) o.ticket St.complete (2 * chunks + 2)) s

/-- The table and geometry that a group record and layer name; none where the record is free or the layer too high. -/
def recordPage (s : State) (o : Op) : Option (Nat × Nat) :=
  let v := getRec s o.part (bodyF o 104 24)
  let geom := hdGeom (gtHeader s (rcGt v))
  if rcGt v = 0 || geLayers geom ≤ bodyF o 96 8 then none else some (rcGt v, geom)

def namedPverify (_ : State) (o : Op) : Named := [(true, bodyF o 32 64, 1)]

/-- The checks of PVERIFY (R155). -/
def pverifyOk (s : State) (o : Op) : Bool := (recordPage s o).isSome

/-- The steps of a PVERIFY of a geometry. -/
def verifySteps (geom : Nat) : Nat := ceilDiv (gePage geom) (256 * 1024) + 1

/-- PVERIFY (R155). -/
def execPverify (p : Posted) (s : State) : Res :=
  posted 1 false namedPverify 4 9 p (checked pverifyOk fun o s =>
    match recordPage s o with
    | none => s
    | some (gt, geom) =>
      let l := bodyF o 96 8
      let e := getPte s gt l
      let s := noteUses s o.ticket [(peStack e, peGran e, geGran geom)]
      let steps := verifySteps geom
      let put (s : State) (v : Nat) : State := memWriteNum s (bodyF o 32 64) 1 v
      if peKind e = PK.dram && peCv e then
        let s := noteEntry s gt e
        if verifyPage s gt l then opEnd (put s 0) o.ticket St.complete steps
        else opEnd (put (failPage s o.part gt l) 1) o.ticket St.checksum steps
      else opEnd (put s 2) o.ticket St.complete steps) s

end Sys2Proof.Machine
end

