-- ==== Sys2Proof/Machine/Index.lean ====
section
/-! DEFINITION. Lookups, claims and insertions of the prefix index, at the issuer and at the shard (R160 to R166, R174,
R247, R262). -/
namespace Sys2Proof.Machine

/-! ## At the shard -/

/-- The answer to an index request. -/
def indexReply (s : State) (m : IndexMsg) (st : Byte) (x : Option IndexBody) : OutPkt :=
  { pkt := { dst := m.src, src := ownNode s, vc := 1, tag := m.tag, op := 0x09, status := st,
             edition := if st = St.moved then s.isf.map.edition else m.edition },
    index := x, route := m.tag.toNat }

/-- An index request done at its shard, with its answer; PROTECT where the shard lies in an extent that the device may not write (R162,
R194, R247, R288, R296). -/
def shardAnswers (m : IndexMsg) (b : IndexBody) (once : Bool) (s : State) : State :=
  tryWork true (.index m b once) [] (fun s =>
    let (t, x) := shardServe s b
    let r := indexReply t m St.complete (some (.answer x))
    if once then rememberAndSend t m.src m.tag r else sendPacket t r) s
    (fun s => some (sendPacket s (indexReply s m St.protect (some (.answer .refused)))))

/-- An index request served: dropped where a Resv bit of its header is set; an insertion that was applied answered as before; PROTECT for a refused source, MOVED for an edition not served, nothing from a shard that is
lost; an insertion once only (R161, R246, R247, R262, R344). -/
def serveIndex (s : State) (m : IndexMsg) (b : IndexBody) (once : Bool) : State :=
  if !fabricUp s then s
  else
    let s := arrive s 0 m.tag 32
    if m.resv ≠ 0 then dropPacket s
    else match (if once then remembered s m.src m.tag else none) with
    | some r => sendPacket s r
    | none =>
      if (inLevel s m.src).isNone then sendPacket s (indexReply s m St.protect (some (.answer .refused)))
      else if !editionServed s m.edition then
        sendPacket s (indexReply s m St.moved (some (.answer (.moved s.isf.map.edition))))
      else if !shardAlive s m.digest.toNat then s
      else shardAnswers m b once s

/-- INDEX_LOOKUP (R164). -/
def execIndexLookup (m : IndexMsg) (s : State) : Res := .next (serveIndex s m (.lookup m) false)

/-- INDEX_CLAIM (R162, R164). -/
def execIndexClaim (m : IndexMsg) (ctimeNs : W32) (s : State) : Res := .next (serveIndex s m (.claim m ctimeNs) false)

/-- INDEX_INSERT (R162, R165, R247). -/
def execIndexInsert (m : IndexMsg) (s : State) : Res := .next (serveIndex s m (.insert m) true)

/-- INDEX_REMOVAL (R166). -/
def execIndexRemoval (m : IndexMsg) (s : State) : Res := .next (serveIndex s m (.removal m) false)

/-! ## At the issuer -/

def ixWork (s : State) (t : Ticket) : Option IndexWork := s.wlk.index.find? fun w => w.ticket = t
def ixPut (s : State) (w : IndexWork) : State :=
  { s with wlk := { s.wlk with index := w :: s.wlk.index.filter fun x => x.ticket ≠ w.ticket } }
def ixDrop (s : State) (t : Ticket) : State :=
  { s with wlk := { s.wlk with index := s.wlk.index.filter fun x => x.ticket ≠ t } }

/-- The fields PLOOK and PINDEX share: digest list, result address; the counts. -/
def ixSrc (o : Op) : Nat := bodyF o 320 64
def ixDst (o : Op) : Nat := bodyF o 256 64
def plN (o : Op) : Nat := bodyF o 212 12 + 1
def piN (o : Op) : Nat := bodyF o 232 12 + 1
def piPos (o : Op) : Nat := bodyF o 244 12
def ixDigestAt (s : State) (o : Op) (k : Nat) : Nat := memNum s (ixSrc o + 16 * k) 16

/-- A request of an operation on digest k put to its shard: at once where the device is the shard, else by packet. The
answer of a digest whose shard cannot be reached is none. -/
def askShard (s : State) (o : Op) (k : Nat) (b : IndexBody) (digest : Nat) : State × Option (Option IndexAnswer) :=
  match shardOf s digest with
  | none => (s, some none)
  | some n =>
    if n = ownNode s then
      if !editionServed s o.edition then (s, some (some (.moved s.isf.map.edition)))
      else if !shardAlive s digest then (s, some none)
      else let (t, x) := shardServe s b; (t, some (some x))
    else if excluded s n then (deadRecord s n, some none)
    else (sendIndex s (.index o.ticket k) n o.edition b, none)

/-- An answer, or that there is none, noted with a lookup or an insertion. DESIGN CHOICE (log entry 98): a shard that refuses the device is
as one that does not answer. -/
def noteAnswer (w : IndexWork) (k : Nat) : Option IndexAnswer → IndexWork
  | none | some .refused =>
    let w := { w with dead := insNat k w.dead }
    if w.claiming then { w with claims := tins k .claimRefused (tdel w.claims k) } else w
  | some x => if w.claiming then { w with claims := tins k x (tdel w.claims k) } else { w with answers := tins k x (tdel w.answers k) }

/-- Requests put to the shards of several digests, the answers at hand noted. -/
def askAll (s : State) (o : Op) (body : Nat → IndexBody) (w : IndexWork) : List Nat → State × IndexWork
  | [] => (s, w)
  | k :: r =>
    match askShard s o k (body k) (ixDigestAt s o k) with
    | (s, some x) => askAll s o body (noteAnswer w k x) r
    | (s, none) => askAll s o body w r

/-! ### PLOOK (R163, R164) -/

def namedPlook (_ : State) (o : Op) : Named := [(false, ixSrc o, 16 * plN o), (true, ixDst o, 16 + 8 * plN o)]

/-- The checks of PLOOK. -/
def plookOk (s : State) (o : Op) : Bool := (activeEntry s o).isSome && ixDst o % 8 = 0

/-- The geometry that a lookup compares: of the request's root header. DESIGN CHOICE (log entry 161): as it is when the lookup begins. -/
def opGeom (s : State) (o : Op) : Nat := match entryIn s o.part o.request.toNat with | some e => rootGeom s (rootAddr e) | none => 0

/-- Digest k hit: VALID with equal geometry; its holders. -/
def plHit (geom : Nat) (w : IndexWork) (k : Nat) : Option (List Word) :=
  match w.answers.find? fun x => x.1 = k with
  | some (_, .valid g hs) => if g.toNat = geom then some hs else none
  | _ => none

/-- The leading hits. -/
def plHits (geom : Nat) (w : IndexWork) : Nat := ((List.range w.n).takeWhile fun k => (plHit geom w k).isSome).length

/-- The holder written for a hit: one on the issuing node, else that of the lowest slot (R164). -/
def plHolder (s : State) (hs : List Word) : Word :=
  (hs.find? fun h => h.toNat / 2 ^ 50 = (ownNode s).toNat).getD (hs.headD 0)

/-- The digests that a claim names: those from number hits on that their shards answered absent. -/
def plMissed (w : IndexWork) (hits : Nat) : List Nat :=
  (List.range w.n).filter fun k => decide (hits ≤ k) && tget (.claimRefused) w.answers k = IndexAnswer.absent

/-- The stop of a lookup, its queries and its claims answered or not: its code, the claimant of a pending digest, the edition of a moved one (R163, R164, R174). -/
def plStop (w : IndexWork) (hits : Nat) : Nat × Node × Option W32 :=
  if hits = w.n then (0, 0, none)
  else if w.dead.contains hits then (5, 0, none)
  else match tget (.absent) w.answers hits with
  | .absent =>
    match w.claims.find? fun x => x.1 = hits with
    | some (_, .claimMade) => (3, 0, none)
    | some (_, .claimedBy n) => (2, n, none)
    | some (_, .moved e) => (6, 0, some e)
    | _ => (1, 0, none)
  | .claimedBy n => (2, n, none)
  | .moved e => (6, 0, some e)
  | _ => (4, 0, none)

/-- The result record written and the lookup ended (R163). -/
def plFinish (s : State) (o : Op) (w : IndexWork) : State :=
  let geom := w.geom
  let hits := plHits geom w
  let (stop, cnode, moved) := plStop w hits
  let hdr := stop + hits * 2 ^ 16 + cnode.toNat * 2 ^ 82 + (moved.getD o.edition).toNat * 2 ^ 96
  let hs := (List.range hits).flatMap fun k => leBytes 8 (plHolder s ((plHit geom w k).getD [])).toNat
  let st := if stop = 5 then St.timeout else if stop = 6 then St.moved else St.complete
  opEnd (ixDrop (memWrite s (ixDst o) (leBytes 16 hdr ++ hs)) o.ticket) o.ticket st (ceilDiv w.n 256)

/-- A lookup goes on once all its shards have answered: claims are sent where it missed, then its result is written. -/
def plProgress (s : State) (o : Op) (w : IndexWork) : State :=
  if w.claiming then
    if w.claims.length < (plMissed w (plHits (w.geom) w)).length then ixPut s w else plFinish s o w
  else if w.answers.length + w.dead.length < w.n then ixPut s w
  else
    let hits := plHits (w.geom) w
    let (stop, _, _) := plStop w hits
    if o.body.toNat.testBit 211 && stop = 1 then
      let body (k : Nat) : IndexBody :=
        .claim (indexMsg s o.edition (ixDigestAt s o k) (w.geom) 0) (BitVec.ofNat 32 (bodyF o 224 32))
      let (s, w) := askAll s o body { w with claiming := true } (plMissed w hits)
      if w.claims.length < (plMissed w hits).length then ixPut s w else plFinish s o w
    else plFinish s o w

/-- PLOOK (R163, R164). -/
def execPlook (p : Posted) (s : State) : Res :=
  posted 1 false namedPlook 4 4 p (fun o s =>
    if (ixWork s o.ticket).isSome then s
    else checked plookOk (fun o s => poisonOr (ixSrc o) (16 * plN o) (fun o s =>
      let g := opGeom s o
      let (s, w) := askAll s o (fun k => .lookup (indexMsg s o.edition (ixDigestAt s o k) g 0))
        { ticket := o.ticket, n := plN o, geom := g } (List.range (plN o))
      plProgress s o w) o s) o s) s

/-! ### PINDEX (R165) -/

def namedPindex (_ : State) (o : Op) : Named := [(false, ixSrc o, 16 * piN o), (true, ixDst o, piN o)]

/-- The group table of group position pos + k. -/
def piTable (s : State) (o : Op) (k : Nat) : Option Nat :=
  (entryIn s o.part o.request.toNat).bind fun e => rootEntry s (rootAddr e) (piPos o + k)

/-- The checks of PINDEX: every group table is SEALED. -/
def pindexOk (s : State) (o : Op) : Bool :=
  (entryIn s o.part o.request.toNat).isSome && 
  (List.range (piN o)).all fun k => match piTable s o k with | some gt => hdState (gtHeader s gt) = 2 | none => false

/-- The outcome byte of an answer. -/
def piOutcome : Option IndexAnswer → Nat
  | some (.outcome c) => c.toNat
  | some (.moved _) => 7
  | _ => 6

/-- One outcome: its byte written; where the digest was entered, the digest into the header of the table that was sent and the
record's indexed bit, while the record still names that table. -/
def piNote (s : State) (o : Op) (w : IndexWork) (k : Nat) (x : Option IndexAnswer) : State :=
  let c := piOutcome x
  let s := memWriteNum s (ixDst o + k) 1 c
  let (gt, d) := w.tables.getD k (0, 0)
  let h := gtHeader s gt
  let n := hdGroup h
  let v := getRec s o.part n
  if c ≤ 2 && rcGt v = gt && gt ≠ 0 then
    let s := if hdDigest h = 0 then setHeader s gt (h + d * 2 ^ 384) else s
    setRec s o.part n (mkRec (rcGt v) true (rcPlace v) (rcLive v) (rcRefs v))
  else s

/-- The end of an insertion run once every outcome is known. -/
def piProgress (s : State) (o : Op) (w : IndexWork) : State :=
  if w.answers.length + w.dead.length < w.n then ixPut s w
  else
    let moved := w.answers.any fun x => piOutcome (some x.2) = 7
    opEnd (ixDrop s o.ticket) o.ticket (if moved then St.moved else if w.dead.isEmpty then St.complete else St.timeout)
      (ceilDiv w.n 256)

/-- PINDEX (R165). -/
def execPindex (p : Posted) (s : State) : Res :=
  posted 1 false namedPindex 4 5 p (fun o s =>
    checked pindexOk (fun o s => poisonOr (ixSrc o) (16 * piN o) (fun o s =>
      let g := opGeom s o
      let body (k : Nat) : IndexBody :=
        .insert (indexMsg s o.edition (ixDigestAt s o k) g (fabricOf s ((piTable s o k).getD 0)))
      let tables := (List.range (piN o)).map fun k => ((piTable s o k).getD 0, ixDigestAt s o k)
      let (s, w) := askAll s o body { ticket := o.ticket, n := piN o, geom := g, tables := tables } (List.range (piN o))
      let s := w.answers.foldl (fun s x => piNote s o w x.1 (some x.2)) s
      let s := w.dead.foldl (fun s k => piNote s o w k none) s
      let s := opUpd s o.ticket fun o => { o with phase := .committed }
      piProgress s o w) o s) o s) s

/-! ### Answers (R163 to R166, R253, R262) -/

/-- The answer to digest k of an operation, none where its shard did not answer. -/
def indexAnswered (s : State) (t : Ticket) (k : Nat) (x : Option IndexAnswer) : State :=
  match opGet s t, ixWork s t with
  | some o, some w =>
    let w := noteAnswer w k x
    if o.op = 5 then piProgress (piNote s o w k x) o w else plProgress s o w
  | _, _ => s

/-- A removal refused with MOVED is sent once more under the returned edition (R166). -/
def removalMoved (s : State) (b : Option IndexBody) (again : Bool) (e : W32) : State :=
  match b with
  | some (.removal m) => if again then s else putRemoval s true { m with edition := e }
  | _ => s

/-- An answer to an index request at its issuer; MOVED under an edition not newer than the request's is tried again later (R262). -/
def indexCame (tag : W32) (x : IndexReply) (s : State) : State :=
  match outReq s tag with
  | none => dropPacket s
  | some r =>
    match r.owner with
    | .index t k =>
      (match x.answer with
      | .moved e =>
        if editionNewer e r.pkt.pkt.edition then indexAnswered (outDel s tag) t k (some x.answer) else holdResend s tag true
      | _ => indexAnswered (outDel s tag) t k (some x.answer))
    | .removal again =>
      (match x.answer with
      | .moved e => removalMoved (outDel s tag) r.pkt.index again e
      | _ => outDel s tag)
    | _ => dropPacket s

/-- INDEX_RESPONSE (R163 to R166, R245, R262): dropped where a Resv bit of its header is set. -/
def execIndexResponse (tag : W32) (x : IndexReply) (s : State) : Res :=
  if !fabricUp s then .next s
  else
    let s := arrive s 1 tag 32
    .next (if x.resv ≠ 0 then dropPacket s else tryWork true (.indexEnd tag x) [] (indexCame tag x) s)

end Sys2Proof.Machine
end

