-- ==== Sys2Proof/Machine/Ledger.lean ====
section
/-! DEFINITION. The request ledger: entries and their transitions, class records, admission, the ledger instructions but
the batch step and LABORT, deadlines, steward mode, the host rings (R105 to R112, R113, R123, R124, R126, R130 to R132,
R259, R394, R395, R414). -/
namespace Sys2Proof.Machine

/-! ## Entries (R105, R108) -/

/-- The fields of an entry image that the device writes, taken from e; the rest from the image (R105). -/
def withImage (e : LEntry) (x : Nat) : LEntry :=
  { e with
    tag := BitVec.ofNat 64 (x >>> 448), root := BitVec.ofNat 52 (x >>> 268), adapter := BitVec.ofNat 16 (x >>> 240),
    length := BitVec.ofNat 20 (x >>> 220), nleft := BitVec.ofNat 20 (x >>> 200), gval := BitVec.ofNat 32 (x >>> 160),
    gate := BitVec.ofNat 12 (x >>> 148), gateEn := x.testBit 147, sclass := BitVec.ofNat 6 (x >>> 120),
    deadline := BitVec.ofNat 48 (x >>> 64), model := BitVec.ofNat 12 (x >>> 48), share := BitVec.ofNat 8 (x >>> 40),
    prio := BitVec.ofNat 4 (x >>> 36), request := BitVec.ofNat 32 x }

/-- The Resv fields of an entry image are zero. -/
def entryResvOk (x : Nat) : Bool := bf x 256 12 = 0 && bf x 192 8 = 0 && bf x 128 19 = 0

/-- An adapter value that is not reserved (R105). -/
def adapterOk (a : Nat) : Bool := decide (a ≤ 4095) || a = 0xFFFF

/-- A request has an entry or a spilled record on the device, in any state. -/
def isKnown (s : State) (r : Nat) : Bool := (entryOf s r).state.toNat ≠ LSt.free

/-- The walks that wait for a request, made now. -/
def flushWalks (s : State) (r : Nat) : State :=
  let ws := s.ldg.walks.filter fun w => w.1.toNat = r
  ws.foldl (fun s w => liveWalk s r w.2)
    { s with ldg := { s.ldg with walks := s.ldg.walks.filter fun w => w.1.toNat ≠ r } }

/-- A request that stops being ADMITTED leaves the list of a batch step that has not committed (R117, R127). -/
def leaveList (s : State) (p : Nat) (r : W32) : State :=
  match tget none s.ldg.batch p with
  | none => s
  | some b =>
    if b.committed.isSome || b.items.all (fun i => i.request ≠ r) then s
    else { s with ldg := { s.ldg with batch := tset none s.ldg.batch p (some { b with items := b.items.filter fun i => i.request ≠ r }) } }

/-- An entry written with a new state: a walk is due where it begins or ceases to count as live (R108, R167, R172). -/
def moveEntry (s : State) (e : LEntry) (n : Nat) : State :=
  let r := e.request.toNat
  let was := liveState (entryOf s r)
  let e := { e with state := BitVec.ofNat 4 n }
  let now := liveState e
  let s := entrySet s r e
  let s := if n = LSt.admitted then s else leaveList s e.part.val e.request
  let s := if was = now then s else { s with ldg := { s.ldg with walks := s.ldg.walks ++ [(e.request, now)] } }
  refreshShares s

/-- The LABORTs launched on a request that goes FREE find it ended (R109). -/
def settleAborts (s : State) (r : Nat) : State :=
  { s with ops := s.ops.map fun o =>
      if o.cls = 3 && o.op = 5 && o.phase = .launched && o.request.toNat = r then { o with settled := true } else o }

/-- An entry goes FREE: its page references are dropped (R108, R170). -/
def freeEntry (s : State) (r : Nat) : State :=
  let s := flushWalks (settleAborts s r) r
  let e := entryOf s r
  refreshShares (entrySet (leaveList (unmapAll s r e (liveState e)) e.part.val e.request) r {})

/-! ## Class records (R113, R414) -/

/-- A step-class record as it stands in memory; none where its valid bit is 0 or counts as 0. DESIGN CHOICE (log entry 168): a poisoned
record reads as 0, so it is not valid. -/
def classRec (s : State) (p c : Nat) : Option Nat :=
  let v := tabNum s ((tget 0 s.ldg.classBase p).toNat * 2 ^ 11 + 32 * c) 32
  let kind := bf v 178 2
  let bmax := bf v 112 16
  if v.testBit 177 && (kind = 1 || kind = 2) && decide (1 ≤ bmax) && decide (bmax ≤ 4096) then some v else none

def crPlan (v : Nat) : Nat := bf v 198 58 * 64
def crCount (v : Nat) : Nat := bf v 180 12
def crModel (v : Nat) : Nat := bf v 164 12
def crChunk (v : Nat) : Nat := bf v 144 16
def crBdl (v : Nat) : Nat := bf v 128 16
def crBmax (v : Nat) : Nat := bf v 112 16
def crReserve (v : Nat) : Nat := bf v 64 32
def crLead (v : Nat) : Nat := bf v 32 32
def crWcet (v : Nat) : Nat := bf v 0 32

/-- The valid classes of a partition, in index order. -/
def classes (s : State) (p : Nat) : List Nat := below 64 fun c => (classRec s p c).isSome

/-- A model is resident in a partition (R414). -/
def resident (s : State) (p model : Nat) : Bool :=
  (List.range 64).any fun c => match classRec s p c with | some v => crModel v = model | none => false

/-- The sum S of wcet over the valid classes (R124). -/
def wcetSum (s : State) (p : Nat) : Nat :=
  ((classes s p).map fun c => ((classRec s p c).map crWcet).getD 0).foldl (· + ·) 0

/-! ## Deadlines and admission (R112, R124) -/

/-- Count x is earlier than count y (R112). -/
def earlier48 (x y : Nat) : Bool := let d := span48 x y; decide (1 ≤ d) && decide (d < 2 ^ 47)

/-- Entries of a class with a deadline that are live, one request apart. -/
def deadlinesIn (s : State) (p c r : Nat) : Nat :=
  s.ldg.entries.countP fun (k, e) => k ≠ r && e.part.val = p && e.sclass.toNat = c && e.deadline ≠ 0 && liveState e

/-- Admission passes (R124, R112); no request passes for a role that a change issued is to end (R11). -/
def admits (s : State) (e : LEntry) : Bool :=
  if oldRole s e.part.val e then false
  else if e.deadline = 0 then true
  else match classRec s e.part.val e.sclass.toNat with
  | none => false
  | some v =>
    let d := span48 (bell48 s) e.deadline.toNat
    decide (deadlinesIn s e.part.val e.sclass.toNat e.request.toNat < crBdl v) && decide (d < 2 ^ 47) &&
    decide (crLead v + (e.nleft.toNat + 1) * wcetSum s e.part.val + crReserve v ≤ d)

/-- An entry put through admission: posted, status and state written (R106, R108); a failed one goes to a given state. A
waiting build runs again where it passes (R117). -/
def admitAs (s : State) (e : LEntry) (ok : Bool) (failTo : Nat) : State :=
  let e := { e with posted := BitVec.ofNat 48 (bell48 s), status := if ok then St.complete else St.timeout }
  let s := moveEntry s e (if ok then LSt.admitted else failTo)
  if ok then wakeBuild s e.part.val else s

/-- At a batch-step boundary of a partition: a role whose change was issued is taken up once no live entry of the role before it
is left (R11, R127). -/
def takeRole (s : State) (p : Nat) : State :=
  let r := roleOfPart s p
  let old := (s.ldg.entries ++ s.ldg.spilled).any fun x =>
    x.2.part.val = p && liveState x.2 && r.cur = some (requestRole p x.2)
  if r.next.isSome && !old then setRole s p { r with cur := r.next, next := none } else s

/-! ## LPOST (R106, R107, R359) -/

/-- A partition's reset is under way (R359). -/
def resetting (s : State) (p : Part) : Bool := s.pwr.resets.contains (.partition p)

/-- The hardware entries of a partition. -/
def entryCount (s : State) (p : Part) : Nat := s.ldg.entries.countP fun (_, e) => e.part = p

/-- The partition's ledger quota, and the table of 65,536 entries, have room for n more entries (R21, R104, R130). -/
def quotaRoom (s : State) (p : Part) (n : Nat) : Bool :=
  decide (entryCount s p + n ≤ (partDesc s p).ledger) && decide (s.ldg.entries.length + n ≤ 65536)

/-- The checks of LPOST for an entry image. -/
def imageOk (s : State) (p : Part) (x : Nat) : Bool :=
  let r := bf x 0 32
  let e := entryOf s r
  let reopen := e.state.toNat = LSt.done && e.part = p
  r ≠ 0 && partExists s p && !resetting s p && entryResvOk x && adapterOk (bf x 240 16) &&
  (classRec s p.val (bf x 120 6)).isSome && resident s p.val (bf x 48 12) &&
  quotaRoom s p 1 && (!isKnown s r || (reopen && e.model.toNat = bf x 48 12))

/-- A spilled record brought into the hardware table; its place is free again. DESIGN CHOICE (log entry 116): the record is the one spilled,
whatever steward code stored to its place since. -/
def bringIn (s : State) (r : Nat) : State :=
  match s.ldg.spilled.find? fun x => x.1 = r with
  | none => s
  | some (_, e) =>
    { s with ldg := { s.ldg with spilled := tdel s.ldg.spilled r, spillAt := tdel s.ldg.spillAt r, entries := tset {} s.ldg.entries r e } }

/-- An entry image that passed its checks is posted: a new entry, or the reopening of a DONE one, which keeps root, length
and charge and clears late (R106, R107, R111). -/
def postEntry (s : State) (p : Part) (ld : LdId) (x : Nat) : State :=
  let r := bf x 0 32
  if isKnown s r then
    let s := bringIn s r
    let old := entryOf s r
    let e := { withImage old x with root := old.root, length := old.length, late := false, ld := ld }
    admitAs s e (admits s e) LSt.done
  else
    let e : LEntry := { withImage {} x with part := p, ld := ld }
    admitAs s e (admits s e) LSt.refused

/-- The entry image of an LPOST manifest: its body, and the 16 bytes after the image (R106). -/
def lpostImage (o : Op) : Nat := o.body.toNat + o.extra.toNat * 2 ^ 384

def lpostOk (s : State) (o : Op) : Bool := imageOk s o.part (lpostImage o)

/-- An LPOST of the same request launched before and has not run: posts of one request are applied in launch order (R109). -/
def lpostBefore (s : State) (o : Op) : Bool :=
  s.ops.any fun x => x.cls = 3 && x.op = 0 && x.phase = .launched && decide (x.launchNo < o.launchNo) &&
    bf (lpostImage x) 0 32 = bf (lpostImage o) 0 32

/-- LPOST (R106 to R109). -/
def execLpost (p : Posted) (s : State) : Res :=
  posted 1 false (fun _ _ => []) 3 0 p (fun o s =>
    if lpostBefore s o then s
    else checked lpostOk (fun o s => opEnd (postEntry s o.part o.ld (lpostImage o)) o.ticket St.complete 1) o s) s

/-! ## LREAD and LSET (R105, R112) -/

/-- The entry of a request number in a scalar register, in the context's partition. -/
def regEntry (s : State) (c : CtxId) (v : Word) : Option LEntry :=
  if v.toNat < 2 ^ 32 then entryIn s (partOf (ctxGet s c)) v.toNat else none

/-- The work of LREAD on memory. -/
def lreadWork (c : CtxId) (w : Ins128) : State → After :=
  ctxTry c (.redo (.lread c w)) [] fun s =>
    let x := ctxGet s c
    match ctxAccess s c true (getS x w.sb.toNat) 64 8 with
    | .error (cause, fa) => .exc s cause fa
    | .ok k =>
      match regEntry s c (opA x w.sa) with
      | none => .adv (statusTo s c w.sd.toNat St.protect)
      | some e => .adv (statusTo (memWriteNum s k 64 (entryNum e)) c w.sd.toNat St.complete)

/-- LREAD (R105). -/
def execLread (c : CtxId) (w : Ins128) (s : State) : Res := issue128 1 c w (lreadWork c w) s

/-- The entry with the fields that an LSET mask selects, from an image. -/
def setFields (e : LEntry) (m x : Nat) : LEntry :=
  let i := withImage e x
  let e := if m.testBit 0 then { e with prio := i.prio } else e
  let e := if m.testBit 1 then { e with share := i.share } else e
  let e := if m.testBit 2 then { e with deadline := i.deadline } else e
  let e := if m.testBit 3 then { e with adapter := i.adapter } else e
  let e := if m.testBit 4 then { e with gate := i.gate } else e
  let e := if m.testBit 5 then { e with gateEn := i.gateEn } else e
  if m.testBit 6 then { e with gval := i.gval } else e

/-- The work of LSET on memory. DESIGN CHOICE (log entry 112): a spilled record that it gives a deadline stays spilled. -/
def lsetWork (c : CtxId) (w : Ins128) (s : State) : After :=
  ctxTry c (.redo (.lset c w)) [((getS (ctxGet s c) w.sb.toNat).toNat, 64)] (fun s =>
    let x := ctxGet s c
    match ctxRead s c (getS x w.sb.toNat) 64 8 with
    | .error (cause, fa) => .exc s cause fa
    | .ok img =>
      let m := w.imm64.toNat
      match regEntry s c (opA x w.sa) with
      | none => .adv (statusTo s c w.sd.toNat St.protect)
      | some e =>
        if m < 128 && (!m.testBit 3 || adapterOk (bf img 240 16)) then
          let s := entrySet s e.request.toNat (setFields e m img)
          let s := if m % 4 ≠ 0 || m / 16 % 8 ≠ 0 then wakeBuild s e.part.val else s
          .adv (statusTo (refreshShares s) c w.sd.toNat St.complete)
        else .adv (statusTo s c w.sd.toNat St.protect)) s

/-- LSET (R112, R117). -/
def execLset (c : CtxId) (w : Ins128) (s : State) : Res := issue128 1 c w (lsetWork c w) s

/-! ## LEND and LSWAP (R109, R131, R132) -/

/-- The checks of LEND. -/
def lendOk (s : State) (o : Op) : Bool :=
  match entryIn s o.part o.request.toNat with | some e => !liveState e | none => false

/-- LEND (R108, R109, R132). -/
def execLend (p : Posted) (s : State) : Res :=
  posted 1 false (fun _ _ => []) 3 4 p (checked lendOk fun o s =>
    let n := (mappedGroups s (rootAddr (entryOf s o.request.toNat))).length
    opEnd (freeEntry s o.request.toNat) o.ticket St.complete (1 + ceilDiv n 4096)) s

def lsIn (o : Op) : Nat := bodyF o 236 20
def lsOut (o : Op) : Nat := bodyF o 216 20
def lsList (s : State) (a n : Nat) : List Nat := (List.range n).map fun i => memNum s (a + 4 * i) 4

/-- The lists that an LSWAP reads; the address of an empty list is not used (R67, R132). -/
def namedLswap (_ : State) (o : Op) : Named :=
  [(false, bodyF o 320 64, 4 * lsIn o), (false, bodyF o 256 64, 4 * lsOut o)].filter fun x => decide (x.2.2 ≠ 0)

/-- An entry that may be spilled (R131). -/
def maySpill (e : LEntry) : Bool :=
  let n := e.state.toNat
  (n = LSt.admitted && e.deadline = 0) || n = LSt.done || n = LSt.refused || n = LSt.aborted

/-- The checks of LSWAP. DESIGN CHOICE (log entry 113): an identifier named twice in a list, or by both lists, names no entry or
record the second time, so the swap ends with PROTECT. DESIGN CHOICE (log entry 159): so does a count above 65,535, which the 20-bit fields
hold and R132 does not allow. -/
def lswapOk (s : State) (o : Op) : Bool :=
  let a := bodyF o 320 64
  let b := bodyF o 256 64
  s.ldg.mode && decide (lsIn o ≤ 65535) && decide (lsOut o ≤ 65535) &&
  (poisoned s a (4 * lsIn o) || poisoned s b (4 * lsOut o) ||
    (let outs := lsList s b (lsOut o)
     let ins := lsList s a (lsIn o)
     outs.Nodup && ins.Nodup &&
     (outs.all fun r => s.ldg.entries.any fun (k, e) => k = r && e.part = o.part && maySpill e) &&
     (ins.all fun r => s.ldg.spilled.any fun (k, e) => k = r && e.part = o.part) &&
     decide (entryCount s o.part + ins.length ≤ (partDesc s o.part).ledger + outs.length) &&
     decide (s.ldg.entries.length + ins.length ≤ 65536 + outs.length) &&
     decide (s.ldg.spilled.length + outs.length ≤ 4194304 + ins.length)))

/-- The lowest free place of a spilled record, from 1 (log entry 116). -/
def freeSpill (s : State) : Nat := ((List.range (s.ldg.spillAt.length + 1)).find? fun k => !s.ldg.spillAt.any fun x => x.2 = k + 1).getD 0 + 1

/-- An entry spilled: its record written at the lowest free place, the index made to name it; it is eligible no more and leaves the list
of a batch step that has not committed (R130, R131). -/
def spillOut (s : State) (r : Nat) : State :=
  match s.ldg.entries.find? fun x => x.1 = r with
  | none => s
  | some (_, e) =>
    let s := leaveList s e.part.val e.request
    writeSpilled { s with ldg := { s.ldg with
      entries := tdel s.ldg.entries r, spilled := tset {} s.ldg.spilled r e, spillAt := tset 0 s.ldg.spillAt r (freeSpill s) } } r e

/-- LSWAP (R131, R132): it spills first, then brings records in. -/
def execLswap (p : Posted) (s : State) : Res :=
  posted 2 false namedLswap 3 6 p (checked lswapOk fun o s =>
    poisonOr (bodyF o 320 64) (4 * lsIn o) (poisonOr (bodyF o 256 64) (4 * lsOut o) fun o s =>
      let outs := lsList s (bodyF o 256 64) (lsOut o)
      let ins := lsList s (bodyF o 320 64) (lsIn o)
      let s := ins.foldl bringIn (outs.foldl spillOut s)
      opEnd (refreshShares s) o.ticket St.complete (max 1 (ceilDiv (ins.length + outs.length) 256))) o s) s

/-! ## Deadlines (R111) -/

/-- DEADLINE_REACHED (R111): late is set once while the entry is live, with its record. -/
def execDeadlineReached (r : W32) (s : State) : Res :=
  let e := entryOf s r.toNat
  whenOk (e.deadline ≠ 0 && !e.late && liveState e && reached48 s e.deadline.toNat)
    (tryWork true (.deadline r) [] (fun s =>
      raise (entrySet s r.toNat { e with late := true }) 0x04 e.part.val 0 r.toNat e.deadline.toNat) s) s

/-! ## Hand-off (R126, R259) -/

/-- The entry of a hand-off record at its destination (R126, R259); with it, whether a deadline was carried that has no
time left, which admission then fails. -/
def handEntry (s : State) (p : Part) (x remaining transit : Nat) : LEntry × Bool :=
  let e : LEntry := { withImage {} x with part := p, ld := Fin.ofNat 16 (bf x 60 4) }
  if e.deadline = 0 then (e, false)
  else
    let n := (remaining - transit) * 10 * 100000 / (s.clk.div.toNat * 25 * 100533)
    let d := (bell48 s + n) % 2 ^ 48
    ({ e with deadline := BitVec.ofNat 48 (if d = 0 then 1 else d) }, n = 0)

/-- The refusals of a hand-off record (R259). -/
def handOk (s : State) (p : Part) (x : Nat) : Bool :=
  bf x 0 32 ≠ 0 && partExists s p && !resetting s p && !isKnown s (bf x 0 32) && (classRec s p.val (bf x 120 6)).isSome &&
  adapterOk (bf x 240 16) && quotaRoom s p 1 && resident s p.val (bf x 48 12)

/-- A hand-off record accepted: admission decides the state (R259). -/
def acceptHand (s : State) (p : Part) (x remaining transit : Nat) : State :=
  let (e, spent) := handEntry s p x remaining transit
  admitAs s e (!spent && admits s e) LSt.refused

/-! ## Steward mode (R130) -/

/-- A context at a level that may write a device-wide register; a host function never may (R387). -/
def stewardAgent (s : State) : Agent → Bool
  | .core c => privOf (ctxGet s c) = 2
  | .host _ => false

/-- LEDGER_MODE_WRITE (R130): LDG_CTL.mode, while every entry of the device is FREE. -/
def execLedgerModeWrite (a : Agent) (v : Word) (s : State) : Res :=
  asAgent a 0x50_0000 (fun s =>
    whenOk (s.phase = .running && stewardAgent s a && s.ldg.entries.isEmpty && s.ldg.spilled.isEmpty)
      { s with ldg := { s.ldg with mode := v.toNat.testBit 0 } } s) s

/-! ## Host rings (R394, R395) -/

def ringGet (s : State) (ld : Nat) : Ring := tget {} s.ldg.rings ld
def ringSet (s : State) (ld : Nat) (r : Ring) : State := { s with ldg := { s.ldg with rings := tset {} s.ldg.rings ld r } }

/-- An agent may write the host-ring registers of a logical device: its function, operator code of the ring's partition,
steward code (R387). -/
def ringAgent (s : State) (ld : LdId) : Agent → Bool
  | .core c =>
    let x := ctxGet s c
    privOf x = 2 || (privOf x = 1 && partOf x = (ringGet s ld).part)
  | .host n => n = ld

/-- HOST_RING_DOORBELL (R394): a tail write, ignored with ovf set where the ring would overflow. -/
def execHostRingDoorbell (a : Agent) (ld : LdId) (v : Word) (s : State) : Res :=
  asAgent a (0x50_1008 + 0x40 * ld.val) (fun s =>
    let r := ringGet s ld
    let t : Half := v.setWidth 16
    whenOk (s.phase = .running && ringAgent s ld a)
      (if (t - r.head).toNat ≤ 2 ^ r.depth.toNat then ringSet s ld { r with tail := t } else ringSet s ld { r with ovf := true }) s) s

/-- The completion of a ring record (R69, R394). -/
def ringCompletion (s : State) (index steps : Nat) (st : Byte) : List Byte :=
  leBytes 16 (index * 2 ^ 96 + bell48 s * 2 ^ 48 + steps * 2 ^ 32 + 2 ^ 31 + st.toNat)

/-- The address of the record at a ring's head (R394). -/
def ringRecord (r : Ring) : Nat := r.base.toNat * 4096 + 128 * (r.head.toNat % 2 ^ r.depth.toNat)

/-- The record at the head of a ring as it was taken completed: its completion written, head past it, the interrupt raised (R394). -/
def ringDone (s : State) (ld : LdId) (r : Ring) (steps : Nat) (st : Byte) : State :=
  let i := r.head.toNat % 2 ^ r.depth.toNat
  let bs := ringCompletion s i steps st
  let s := if r.host then { s with ldg := { s.ldg with hostRecs := tset [] s.ldg.hostRecs (ld.val * 4096 + i) bs } }
    else memWrite s (ringRecord r) bs
  let q := ringGet s ld
  let s := ringSet s ld { q with head := if q.head = r.head then r.head + 1 else q.head }
  if q.irq then raiseMsi s ld 3 else s

/-- The bytes of the record taken: none where they are poison; nothing where the ring does not match what was read. -/
def ringBytes (s : State) (r : Ring) (a : Nat) : RingRead → Option (Option (List Byte))
  | .own => if r.host then none else some (if poisoned s a 128 then none else some (memRead s a 128))
  | .hostBytes b => if r.host && b.length = 128 then some (some b) else none
  | .hostPoison => if r.host then some none else none
  | .hostFail => none

/-- The record's read cannot be made (R395). -/
def ringFails (s : State) (r : Ring) (a : Nat) : RingRead → Bool
  | .hostFail => r.host
  | _ => !r.host && !(opMemOk s 1 r.part false a 128 && opMemOk s 1 r.part true a 16)

/-- A ring record that its read gave, run as an LPOST at operator level (R394). -/
def ringRun (s : State) (ld : LdId) (r : Ring) (b : List Byte) : State :=
  let v := ofLe b
  let x := bf v 128 512
  if bf v 0 16 = 0x0009 && !hdrResvBits v && bf v 640 384 = 0 then
    if imageOk s r.part x then ringDone (postEntry s r.part ld x) ld r 1 St.complete
    else ringDone s ld r 0 St.protect
  else ringDone s ld r 0 St.protect

/-- A record of a ring is being taken: its read or its completion waits for memory. -/
def ringBusy (s : State) (ld : Nat) : Bool := s.mem.works.any fun w => match w with | .ring n _ _ => n.val = ld | _ => false

/-- A ring record being taken, of the ring as it was when it was taken: it completes whatever becomes of the ring's registers, of en or
of the logical device, with PROTECT where its partition is being reset (R359, R395). -/
def ringGo (ld : LdId) (x : RingRead) (r : Ring) (s : State) : Res :=
  let a := ringRecord r
  if s.phase ≠ .running then .next s
  else if ringFails s r a x then .next (ringSet s ld { ringGet s ld with rdfail := true, en := false })
  else .next (tryWork true (.ring ld x r) (if r.host then [] else [(a, 128)]) (fun s => match ringBytes s r a x with
    | none => s
    | some none => ringDone (ringSet s ld { ringGet s ld with rdfail := true }) ld r 0 St.poison
    | some (some b) => ringRun s ld r b) s)

/-- The record at the head of a ring is taken, where there is one (R394). -/
def ringTake (ld : LdId) (x : RingRead) (s : State) : Res :=
  let r := ringGet s ld
  if r.head = r.tail then .next s else ringGo ld x r s

/-- HOST_RING_RECORD (R394, R395): no record is taken while the logical device is DISABLING, nor before the one being taken is. -/
def execHostRingRecord (ld : LdId) (x : RingRead) (s : State) : Res :=
  if (ringGet s ld).en && (tget {} s.cxd.lds ld.val).state ≠ 1 && !ringBusy s ld.val then ringTake ld x s else .next s

end Sys2Proof.Machine
end

