-- ==== Sys2Proof/Machine/Target.lean ====
section
/-! DEFINITION. What a device does with the requests of other nodes: reads, writes, atomics, reductions, invalidations and
hand-off records (R245 to R248, R252, R254, R256, R257, R259, R262, R288, R296, R381). -/
namespace Sys2Proof.Machine

/-! ## Checks -/

/-- A packet of its kind comes in: its flits are received; it is dropped and counted where its op is reserved or a Resv field is not
zero (R245). -/
def inbound (op : Nat) (k : Packet) (f : State → State) (s : State) : State :=
  let bad := k.op.toNat = 0 || 0x0C < k.op.toNat
  if !(fabricUp s && k.dst = ownNode s && (k.op.toNat = op || bad)) then s
  else
    let s := arrive s k.vc.toNat k.tag (packetBytes k).length
    if bad || k.resv ≠ 0 || 4096 < k.data.length then dropPacket s else f s

/-- n bytes at a fabric offset lie in the stacks installed or in general shared SRAM (R248). -/
def fabricPlace (s : State) (a n : Nat) : Bool :=
  match placeOf s a n with | .dram _ | .sram => reachable s a n | _ => false

/-- A granted access at an inbound level, of either partition (R246, R381). -/
def inPermits (s : State) (level : Nat) (write : Bool) (a n : Nat) : Bool := permits s level none write a n

/-- The status with which a request is refused, if it is: its source, then its edition (R246, R262, R381). One accepted before, which
a bank or a recall held, finishes whatever came since (R262). -/
def inRefused (held : Bool) (s : State) (k : Packet) : Option Byte :=
  if held then none
  else if (inLevel s k.src).isNone then some St.protect
  else if !editionServed s k.edition then some St.moved
  else none

/-- A target of a write lies in an extent being released or released (R246, R294). -/
def revoked (s : State) (a n : Nat) : Bool := extentAt s (fun e => e.state = .revoking || e.state = .released) a n

/-- The status with which a write access is refused, if it is. -/
def writeRefused (held : Bool) (s : State) (k : Packet) (n : Nat) : Option Byte :=
  if held then none
  else match inRefused held s k with
  | some st => some st
  | none =>
    let a := k.off.toNat
    if !fabricPlace s a n || !inPermits s ((inLevel s k.src).getD 0) true a n || hdmHBlocked s a n then some St.protect
    else if revoked s a n then some St.revoked
    else none

/-- A request that waits at a bank for a step boundary, or for a recall (R194, R296). -/
def holdPacket (s : State) (k : Packet) : State :=
  if s.mem.waiting.contains (.packet k) then s
  else { s with mem := { s.mem with waiting := s.mem.waiting ++ [.packet k] } }

/-- A write that hosts' lines or a busy bank hold up waits; else it is made. -/
def afterHolds (k : Packet) (n : Nat) (f : State → State) (s : State) : State :=
  let ls := recallNeeded s k.off.toNat n
  if bankHolds s true k.off.toNat n then holdPacket s k
  else if ls.isEmpty then f s else holdPacket (startRecalls s ls) k

/-! ## READ and WRITE -/

/-- Bit i set where line i of a range of bytes is poisoned (R245). -/
def poisonMask (s : State) (a n : Nat) : Nat :=
  ((List.range (ceilDiv n 64)).map fun i => boolNat (poisoned s (a + 64 * i) (min 64 (n - 64 * i))) * 2 ^ i).foldl (· + ·) 0

/-- Bytes written with a poison mask. -/
def writeMasked (s : State) (a : Nat) (bs : List Byte) (mask : Nat) : State :=
  (List.range (ceilDiv bs.length 64)).foldl (fun s i =>
    if mask.testBit i then poisonRange s (a + 64 * i) (min 64 (bs.length - 64 * i)) else s) (memWrite s a bs)

/-- The bytes that a READ asks for. -/
def readLen (k : Packet) : Nat := k.arg.toNat % 2 ^ 13

def serveRead (k : Packet) (s : State) (held : Bool := false) : State :=
  let a := k.off.toNat
  let n := readLen k
  match inRefused held s k with
  | some st => respond s k 0x02 st
  | none =>
    if n % 64 ≠ 0 || n = 0 || 4096 < n || !fabricPlace s a n || !(held || inPermits s ((inLevel s k.src).getD 0) false a n) then
      respond s k 0x02 St.protect
    else if bankBusy s a n then holdPacket s k
    else respond s k 0x02 St.complete (BitVec.ofNat 64 (poisonMask s a n)) (memRead s a n)

/-- READ (R245, R246, R248, R262). -/
def execRead (k : Packet) (s : State) : Res := .next (inbound 0x01 k (serveRead k) s)

def serveWrite (k : Packet) (s : State) (held : Bool := false) : State :=
  let n := k.data.length
  match writeRefused held s k n with
  | some st => respond s k 0x04 st
  | none => afterHolds k n (fun s =>
      let s := writeMasked s k.off.toNat k.data k.arg.toNat
      let s := if k.talEn then tallyAdd s k.tally.toNat n else s
      respond s k 0x04 St.complete) s

/-- WRITE (R246, R248, R254, R296). -/
def execWrite (k : Packet) (s : State) : Res := .next (inbound 0x03 k (serveWrite k) s)

/-! ## ATOMIC -/

/-- The new value of an atomic over an old one: add, swap, compare and swap (R245). -/
def atomicNew (op old a b : Nat) : Nat :=
  if op = 0 then (old + a) % 2 ^ 64 else if op = 1 then a else if old = b then a else old

/-- An atomic on a tally: addition only, saturating (R73, R248). -/
def atomicTally (s : State) (k : Packet) (i : Nat) : State :=
  let r := response s k 0x06 St.complete 0 (leBytes 8 (tally s i).toNat)
  rememberAndSend (tallyAdd s i (ofLe (k.data.take 8))) k.src k.tag r

/-- An atomic on 8 bytes of memory; a poisoned line keeps its poison and answers POISON (log entry 30). -/
def atomicMem (s : State) (k : Packet) : State :=
  let a := k.off.toNat
  if poisoned s a 8 then respond s k 0x06 St.poison
  else
    let old := memNum s a 8
    let v := atomicNew (k.arg.toNat % 4) old (ofLe (k.data.take 8)) (ofLe ((k.data.drop 8).take 8))
    rememberAndSend (memWriteNum s a 8 v) k.src k.tag (response s k 0x06 St.complete 0 (leBytes 8 old))

def serveAtomic (k : Packet) (s : State) (held : Bool := false) : State :=
  let a := k.off.toNat
  let level := (inLevel s k.src).getD 0
  if k.arg.toNat % 4 = 3 then dropPacket s
  else match remembered s k.src k.tag with
  | some r => sendPacket s r
  | none =>
    match inRefused held s k with
    | some st => respond s k 0x06 st
    | none =>
      if a % 8 ≠ 0 || k.data.length ≠ 16 then respond s k 0x06 St.protect
      else match placeOf s a 8 with
      | .tally i =>
        if k.arg.toNat % 4 = 0 && inPermits s level true a 8 then atomicTally s k i else respond s k 0x06 St.protect
      | _ =>
        match writeRefused held s k 8 with
        | some st => respond s k 0x06 st
        | none =>
          if !(held || inPermits s level false a 8) then respond s k 0x06 St.protect
          else afterHolds k 8 (fun s => atomicMem s k) s

/-- ATOMIC (R246, R247). -/
def execAtomic (k : Packet) (s : State) : Res := .next (inbound 0x05 k (serveAtomic k) s)

/-! ## REDUCE (R256, R257) -/

/-- The lesser of two FP32 values, −0 below +0, a NaN where either is one; and the greater. -/
def lessFp (a b : Num) : Bool :=
  a.lt b || match a, b with | .fin true 0 _, .fin false 0 _ => true | _, _ => false
def minMax32 (mx : Bool) (a b : W32) : W32 :=
  if dec32 a = .nan || dec32 b = .nan then nan32
  else if lessFp (dec32 a) (dec32 b) then (if mx then b else a) else (if mx then a else b)
def minMax16 (mx : Bool) (a b : Half) : Half :=
  if dec16 a = .nan || dec16 b = .nan then enc16 .nan
  else if lessFp (dec16 a) (dec16 b) then (if mx then b else a) else (if mx then a else b)

/-- BF16 addition: FP32 addition, then rounded to BF16 (R257). -/
def add16 (a b : Half) : Half := enc16 (dec32 (add32 (enc32 (dec16 a)) (enc32 (dec16 b))))

/-- One element combined: fn 0 sum, 1 minimum, 2 maximum; efmt 0 FP32, 1 BF16, 2 INT32 (R257). -/
def combineElem (fn efmt a b : Nat) : Nat :=
  let (x, y) := (BitVec.ofNat 32 a, BitVec.ofNat 32 b)
  let (h, g) := (BitVec.ofNat 16 a, BitVec.ofNat 16 b)
  match efmt, fn with
  | 0, 0 => (add32 x y).toNat
  | 0, 1 => (minMax32 false x y).toNat
  | 0, _ => (minMax32 true x y).toNat
  | 1, 0 => (add16 h g).toNat
  | 1, 1 => (minMax16 false h g).toNat
  | 1, _ => (minMax16 true h g).toNat
  | _, 0 => (a + b) % 2 ^ 32
  | _, 1 => if x.toInt ≤ y.toInt then a else b
  | _, _ => if x.toInt ≤ y.toInt then b else a

/-- The fields of a REDUCE arg. -/
def rdFmt (k : Packet) : Nat := bf k.arg.toNat 0 2
def rdFn (k : Packet) : Nat := bf k.arg.toNat 2 2
def rdN (k : Packet) : Nat := bf k.arg.toNat 4 6 + 1
def rdRank (k : Packet) : Nat := bf k.arg.toNat 10 6
def rdOrdered (k : Packet) : Bool := k.arg.toNat.testBit 16
/-- What all contributions to a segment must share. -/
def rdForm (k : Packet) : Nat := k.arg.toNat % 2 ^ 10 + boolNat (rdOrdered k) * 2 ^ 16

/-- A contribution combined with the bytes in memory; lines that carry poison keep it. -/
def combineInto (s : State) (k : Packet) : State :=
  let a := k.off.toNat
  let w := if rdFmt k = 1 then 2 else 4
  let n := k.data.length / w
  let old := cutEvery w n (memRead s a (n * w))
  let new := cutEvery w n k.data
  let res := (List.zip old new).flatMap fun (x, y) => leBytes w (combineElem (rdFn k) (rdFmt k) (ofLe x) (ofLe y))
  writeMasked s a res (poisonMask s a (n * w))

def segGet (s : State) (k : Packet) : Option Segment := s.isf.segments.find? fun g => g.off = k.off.toNat
def segPut (s : State) (g : Segment) : State :=
  { s with isf := { s.isf with segments := g :: s.isf.segments.filter fun x => x.off ≠ g.off } }
def segDrop (s : State) (off : Nat) : State :=
  { s with isf := { s.isf with segments := s.isf.segments.filter fun x => x.off ≠ off } }

/-- What a contribution leads to: answers to be sent, by contributor's packet, and the state. -/
abbrev Answers := List (Packet × Byte × Bool)

/-- Contributions held in rank order, lowest first. -/
def byRank (l : List (Nat × Packet)) : List Packet :=
  (List.range 64).flatMap fun r => (l.filter fun x => x.1 = r).map fun x => x.2

/-- The segment's end: its bytes are added to the tally where every contribution was combined (R257). -/
def segFinish (s : State) (g : Segment) (k : Packet) : State :=
  let s := segDrop s g.off
  if k.talEn && !g.bad then tallyAdd s k.tally.toNat k.data.length else s

/-- The contributions that targets hold until their segments' last: each takes a buffer (R101, R257). -/
def heldCount (s : State) : Nat := (s.isf.segments.map fun g => g.held.length).foldl (· + ·) 0

/-- A contribution taken into its segment (R256, R257). One that differs from the first, or gives a rank given before, poisons the
segment's lines and is answered POISON, with the held one of its rank; the others are combined. -/
def contribute (s : State) (k : Packet) : Answers × State :=
  let g := (segGet s k).getD { off := k.off.toNat, form := rdForm k, n := rdN k, ranks := [], held := [], bad := false }
  let twice := g.form = rdForm k && g.ranks.contains (rdRank k)
  let clash := g.form ≠ rdForm k || twice
  let busy := ((segGet s k).isNone && decide (Config.reduceRecords ≤ s.isf.segments.length)) ||
    (!clash && rdOrdered k && decide (Config.reduceBuffers ≤ heldCount s))
  if busy then ([(k, St.complete, true)], s)
  else
    let mates := if twice then g.held.filter fun x => x.1 = rdRank k else []
    let s := if clash then poisonRange s k.off.toNat k.data.length else s
    let held := (g.held.filter fun x => !mates.contains x) ++ if !clash && rdOrdered k then [(rdRank k, k)] else []
    let s := if !clash && !rdOrdered k then combineInto s k else s
    let now : Answers := (mates.map fun x => (x.2, St.poison, false)) ++
      if clash then [(k, St.poison, false)] else if rdOrdered k then [] else [(k, St.complete, false)]
    let g := { g with ranks := if clash then g.ranks else g.ranks ++ [rdRank k], came := g.came + 1, held := held, bad := g.bad || clash }
    if g.came < g.n then (now, segPut s g)
    else
      let ks := byRank held
      (now ++ ks.map fun x => (x, St.complete, false), segFinish (ks.foldl combineInto s) g k)

/-- A piece of an operation is answered with a status; with the last one the operation ends, with the first status that is
not COMPLETE (log entry 32). -/
def pieceDone (s : State) (t : Ticket) (st : Byte) : State :=
  opUpd s t fun o =>
    let o := if o.status = St.complete then { o with status := st } else o
    { o with await := o.await - 1, phase := if o.await ≤ 1 && o.phase ≠ .ended then .ended else o.phase }

/-- A contribution is answered: one that was combined adds its bytes to its FRED's completion tally (R74, R256). -/
def reduceDone (s : State) (r : OutReq) (t : Ticket) (st : Byte) : State :=
  let s := outDel s r.pkt.pkt.tag
  let s := match opGet s t with
    | some o => if st = St.complete then addBytes s o r.pkt.pkt.data.length else s
    | none => s
  pieceDone s t st

/-- The answer to the device's own contribution. -/
def ownAnswer (s : State) (tag : W32) (st : Byte) (busy : Bool) : State :=
  match outReq s tag with
  | none => s
  | some r => match r.owner with
    | .reduce t => if busy then holdResend s tag false else reduceDone s r t st
    | _ => s

/-- The ACK of a contribution; one that was applied is remembered (R247). -/
def sendAnswers (s : State) (l : Answers) : State :=
  l.foldl (fun s (k, st, busy) =>
    let r := response s k 0x04 st (if busy then 1 else 0) []
    if k.src = ownNode s then ownAnswer s k.tag st busy
    else if busy then sendPacket s r else rememberAndSend s k.src k.tag r) s

/-- A REDUCE arg whose values are not reserved (R256). -/
def rdValid (k : Packet) : Bool := k.arg.toNat / 2 ^ 17 = 0 && rdFn k ≠ 3 && rdFmt k ≠ 3

def serveReduce (k : Packet) (s : State) (held : Bool := false) : State :=
  if !rdValid k then dropPacket s
  else match remembered s k.src k.tag with
  | some r => sendPacket s r
  | none =>
    match writeRefused held s k k.data.length with
    | some st => respond s k 0x04 st
    | none =>
      if !(held || inPermits s ((inLevel s k.src).getD 0) false k.off.toNat k.data.length) then respond s k 0x04 St.protect
      else if (segGet s k).any fun g => g.held.any fun x => x.2.src = k.src && x.2.tag = k.tag then s
      else afterHolds k k.data.length (fun s => let (l, t) := contribute s k; sendAnswers t l) s

/-- REDUCE (R256, R257). -/
def execReduce (k : Packet) (s : State) : Res := .next (inbound 0x07 k (serveReduce k) s)

/-! ## INVAL (R252) -/

/-- Landing blocks of a range dropped, by offset: the packet does not name the home node (log entry 31); reads under way
for them are not kept (R265). -/
def dropBlocks (s : State) (off n : Nat) : State :=
  let hit (a : Nat) : Bool := decide (a < off + n) && decide (off < a + 4096)
  { s with isf := { s.isf with
    lcache := s.isf.lcache.filter fun x => !hit (x.1 * 4096 % 2 ^ 50),
    out := s.isf.out.map fun r => match r.owner with
      | .load _ _ _ | .share _ _ => if hit (r.pkt.pkt.off.toNat / 4096 * 4096) then { r with noKeep := true } else r
      | _ => r } }

/-- The fabric address of a device physical address: its slot's node and offset (R249). -/
def dpaFabric (s : State) (dpa : Nat) : Option (Node × Nat) :=
  let c := stackCap s
  if c = 0 || 32 ≤ dpa / (32 * c) then none
  else
    let b := dpa % (32 * c)
    (slotNode s (dpa / (32 * c))).map fun n => (n, b / c * 2 ^ 36 + b % c)

/-- The lines that hosts hold of the blocks of a range of another node. -/
def blockLines (s : State) (off n : Nat) : List Nat :=
  let lo := off / 4096 * 4096
  let hi := ceilDiv (off + n) 4096 * 4096
  (s.cxd.dir.filter fun d => match dpaFabric s (d.line.toNat * 64) with
    | some (m, x) => m ≠ ownNode s && decide (lo ≤ x) && decide (x < hi)
    | none => false).map fun d => d.line.toNat

def serveInval (k : Packet) (s : State) (held : Bool := false) : State :=
  match inRefused held s k with
  | some st => respond s k 0x04 st
  | none =>
    let n := k.arg.toNat % 2 ^ 40
    let t := dropBlocks s k.off.toNat n
    let ls := blockLines t k.off.toNat n
    match placeOf s k.off.toNat 1 with
    | .reg _ | .hub _ | .localStore | .tally _ | .none => respond s k 0x04 St.protect
    | .dram _ | .sram => if ls.isEmpty then respond t k 0x04 St.complete else holdPacket (startRecalls t ls) k

/-- INVAL (R252). -/
def execInval (k : Packet) (s : State) : Res := .next (inbound 0x08 k (serveInval k) s)

/-! ## HAND (R126, R247, R259) -/

/-- A hand-off record: its Resv bytes 76 to 79 are checked first (R245). -/
def serveHand (k : Packet) (s : State) : State :=
  if ((k.data.drop 76).take 4).any (· ≠ 0) then dropPacket s
  else match remembered s k.src k.tag with
  | some r => sendPacket s r
  | none =>
    match inRefused false s k with
    | some st => respond s k 0x04 st
    | none =>
      let x := ofLe (k.data.take 64)
      let p : Part := if k.arg.toNat.testBit 0 then 1 else 0
      if k.data.length = 80 && handOk s p x then
        let t := acceptHand s p x (ofLe ((k.data.drop 64).take 8)) (ofLe ((k.data.drop 72).take 4))
        rememberAndSend t k.src k.tag (response t k 0x04 St.complete 0 [])
      else respond s k 0x04 St.protect

/-- HAND (R259). -/
def execHand (k : Packet) (s : State) : Res := .next (inbound 0x0A k (serveHand k) s)

end Sys2Proof.Machine
end

