-- ==== Sys2Proof/Machine/Ferry.lean ====
section
/-! DEFINITION. Ferry operations: copies, multicast, reductions, remote atomics, invalidation and hand-off, and the answers to
their requests (R74, R100, R101, R108, R153, R247, R250 to R259, R262, R390). -/
namespace Sys2Proof.Machine

/-- The steps of a ferry operation (R100). DESIGN CHOICE (log entry 139): the byte count of one that moves no range is 0 for FINV, 8
for FATOM and 80 for FHAND. -/
def ferrySteps (bytes : Nat) : Nat := ceilDiv bytes 65536 + 1

/-! ## Ranges -/

/-- The pages that a read of a range of this device must heed (R153): the sealed ones that lie whole in it, and those of which
no data may be used, DRAM with cv 0 or TRANSIT, that it touches. -/
def pagesIn (s : State) (a n : Nat) : List (Part × Nat × Nat) :=
  [0, 1].flatMap fun p => (usedRecs s p).flatMap fun r =>
    let gt := rcGt (getRec s p r)
    ((List.range (geLayers (hdGeom (gtHeader s gt)))).filter fun l =>
      let e := getPte s gt l
      let x := pageAddr (peStack e) (peGran e)
      let m := gePage (hdGeom (gtHeader s gt))
      if peKind e = PK.dram && peCv e then decide (a ≤ x) && decide (x + m ≤ a + n)
      else (peKind e = PK.dram || peKind e = PK.transit) && decide (x < a + n) && decide (a < x + m)).map fun l => (p, gt, l)

/-- The pages of a range read: those that fail or are absent give no data, as ranges (R153). -/
def readPages (s : State) (a n : Nat) : List (Nat × Nat) × State :=
  (pagesIn s a n).foldl (fun (bad, s) (p, gt, l) =>
    let e := getPte s gt l
    match usePage s p gt l e with
    | (.sealed _, s) => (bad, s)
    | (_, s) => (bad ++ [(pageAddr (peStack e) (peGran e), gePage (hdGeom (gtHeader s gt)))], s)) ([], s)

/-- A range, as offset and length from a base address, less ranges of addresses. -/
def cutOut (base n : Nat) (bad : List (Nat × Nat)) : List (Nat × Nat) :=
  bad.foldl (fun segs (b, m) => segs.flatMap fun (o, k) =>
    let x := base + o
    if b + m ≤ x || x + k ≤ b then [(o, k)]
    else (if x < b then [(o, b - x)] else []) ++ (if b + m < x + k then [(b + m - base, x + k - (b + m))] else [])) [(0, n)]

/-- A segment cut at every 4 KiB boundary of its destination (R254). -/
def cutPieces (dst : Nat) (seg : Nat × Nat) : List (Nat × Nat) :=
  let (o, n) := seg
  if n = 0 then []
  else
    let first := (dst + o) / 4096
    (List.range ((dst + o + n - 1) / 4096 + 1 - first)).map fun i =>
      let lo := max o ((first + i) * 4096 - dst)
      let hi := min (o + n) ((first + i + 1) * 4096 - dst)
      (lo, hi - lo)

/-- A poison mask of a source range by lines of the packet. -/
def sourceMask (s : State) (a n : Nat) : Nat := poisonMask s a n

/-- A WRITE of an operation to another node; the landing copy of its block is dropped (R251, R254). -/
def sendWrite (s : State) (o : Op) (node : Node) (off : Nat) (data : List Byte) (mask slot : Nat) (rt : Option Nat) : State :=
  let s := { s with isf := { s.isf with lcache := s.isf.lcache.filter fun x => x.1 ≠ (node.toNat * 2 ^ 50 + off) / 4096 } }
  sendRequest s (.ferryWrite o.ticket data.length slot) false
    { op := 0x03, dst := node, off := BitVec.ofNat 50 off, edition := o.edition, arg := BitVec.ofNat 64 mask, data := data,
      talEn := rt.isSome, tally := BitVec.ofNat 12 (rt.getD 0) }

/-- The addition to the destination's tally of a local write. -/
def localTally (s : State) (rt : Option Nat) (n : Nat) : State := match rt with | some i => tallyAdd s i n | none => s

/-- Bytes of this device copied within it; where the ranges overlap the result is undefined (log entry 33). -/
def copyLocal (s : State) (src dst n : Nat) : State :=
  if src ≠ dst && decide (src < dst + n) && decide (dst < src + n) then
    let (bs, s) := undefinedBytes s n
    memWrite s dst bs
  else copyBytes s src dst n

/-! ## The fields of a copy (R254) -/

def fcLen (o : Op) : Nat := bodyF o 192 40
def fcRt (o : Op) : Option Nat := if o.body.toNat.testBit 179 then some (bodyF o 180 12) else none
def fcSfab (o : Op) : Bool := o.body.toNat.testBit 178
def fcDfab (o : Op) : Bool := o.body.toNat.testBit 177

/-- One end of a copy: another node with its offset, or none with an address of this device (R254). -/
def copyEnd (s : State) (fab : Bool) (a : Nat) : Option Node × Nat :=
  if !fab then (none, a) else if fabNode a = ownNode s then (none, fabOff a) else (some (fabNode a), fabOff a)
def fcSrc (s : State) (o : Op) : Option Node × Nat := copyEnd s (fcSfab o) (bodyF o 320 64)
def fcDst (s : State) (o : Op) : Option Node × Nat := copyEnd s (fcDfab o) (bodyF o 256 64)

/-- Bytes of the piece of a copy that begins at a destination offset. -/
def pieceLen (s : State) (o : Op) (dst : Nat) : Nat := min (4096 - dst % 4096) (fcLen o - (dst - (fcDst s o).2))

/-! ## How requests end (R253, R258, R262) -/

def fmLen (o : Op) : Nat := bodyF o 152 40
def fmOff (o : Op) : Nat := bodyF o 206 50
def fmRt (o : Op) : Option Nat := if o.body.toNat.testBit 131 then some (bodyF o 132 12) else none
def fmMembers (s : State) (o : Op) : List Nat := groupSlotsOf s (bodyF o 144 8)

/-- This device is a member of the group of a multicast, and the range lies where it can be written: the range is named here too. -/
def fmHere (s : State) (o : Op) : Bool :=
  (fmMembers s o).any (fun k => slotNode s k = some (ownNode s)) && fabricPlace s (fmOff o) (fmLen o)

def namedFmcast (s : State) (o : Op) : Named :=
  [(false, bodyF o 320 64, fmLen o), (true, bodyF o 256 64, 32)] ++ if fmHere s o then [(true, fmOff o, fmLen o)] else []

def fmcastOk (s : State) (_ : Op) : Bool := s.isf.nodeValid

/-- The status of a member slot. -/
def fmStatus (o : Op) (k : Nat) : Byte :=
  match o.buf.find? fun x => x.1 = k with | some (_, b :: _) => b | _ => St.complete

/-- A member slot's first status that is not COMPLETE. -/
def fmNote (o : Op) (k : Nat) (st : Byte) : Op :=
  if st = St.complete || o.buf.any fun x => x.1 = k then o else { o with buf := o.buf ++ [(k, [st])] }

/-- The member slots that a multicast's run found, kept with its statuses under a number above every slot's. -/
def fmStarted (o : Op) : List Nat :=
  match o.buf.find? fun x => x.1 = 32 with | some (_, bs) => bs.map fun b => b.toNat | none => []

/-- The end of a multicast: the status bytes, and the first status in slot order; PROTECT where the device may not write the bytes
(R258, R288). -/
def fmEnd (s : State) (o : Op) : State :=
  let ms := fmStarted o
  let out := bodyF o 256 64
  let st := (ms.map (fmStatus o)).find? fun b => b ≠ St.complete
  if hdmHBlocked s out 32 then opUpd s o.ticket fun o => { o with phase := .ended, status := St.protect }
  else
    let s := memWrite s out ((List.range 32).map fun k => if ms.contains k then fmStatus o k else 0xFF)
    opUpd s o.ticket fun o => { o with phase := .ended, status := st.getD o.status }

/-- A member's piece answered; the multicast ends with the last one. -/
def fmPiece (s : State) (t : Ticket) (k : Nat) (st : Byte) : State :=
  let s := opUpd s t fun o => { fmNote o k st with await := o.await - 1 }
  match opGet s t with
  | some o => if o.await = 0 then fmEnd s o else s
  | none => s

/-- A hand-off ends with a status; the source entry moves as R108 lists. -/
def handEnd (s : State) (t : Ticket) (st : Byte) : State :=
  match opGet s t with
  | none => s
  | some o =>
    let e := entryOf s o.request.toNat
    let s :=
      if e.state.toNat ≠ LSt.handing then s
      else if st = St.complete then freeEntry s o.request.toNat
      else if st = St.aborted then moveEntry s { e with status := st } LSt.aborted
      else moveEntry s { e with status := st } o.prior.toNat
    opEnd s t st (ferrySteps 80)

/-- The state that a host's line takes (R286, R295): as asked where the host keeps the line's state; else what the directory
records, shared at most while it is off. -/
def grantOf (s : State) (ld : LdId) (dpa : Word) (want : LineWish) : LineWish :=
  if !s.cxd.flit256 || want = .uncached then want
  else if s.cxd.dirN = 0 then .shared
  else match s.cxd.dir.find? fun d => d.line.toNat = dpa.toNat / 64 && d.ld = ld with
    | some d => if d.excl then .exclusive else .shared
    | none => .uncached

/-! What an event record tells; the spec gives it no codes (log entry 45). -/
namespace Ev
abbrev refused : Nat := 0
abbrev poison : Nat := 1
abbrev offered : Nat := 2
abbrev releaseAsked : Nat := 3
abbrev released : Nat := 4
abbrev disabled : Nat := 5
abbrev failed : Nat := 6
end Ev

/-- An event record of a log: 0 to 15 a logical device's, 16 the fabric manager's. -/
def logEvent (s : State) (log kind : Nat) (st : Byte) (dpa : Nat) : State :=
  let e : EventRec := { log := log, handle := s.cxd.handle, kind := BitVec.ofNat 8 kind, status := st, dpa := BitVec.ofNat 64 dpa }
  { s with cxd := { s.cxd with events := s.cxd.events ++ [e], handle := s.cxd.handle + 1 } }

/-- A host load ends: its line, or all-ones with poison (R253, R291). -/
def loadEnd (s : State) (ld : LdId) (dpa : Word) (want : LineWish) (x : Option (List Byte × Bool)) : State :=
  let out : HostOut := match x with
    | some (bs, bad) => .data ld dpa (BitVec.ofNat 512 (ofLe bs)) bad (grantOf s ld dpa want)
    | none => .data ld dpa (BitVec.ofNat 512 (2 ^ 512 - 1)) true .uncached
  { s with cxd := { s.cxd with hostOut := s.cxd.hostOut ++ [out] } }

/-- Host stores end (R251, R253). -/
def storesEnd (s : State) (l : List (LdId × Word)) (dropped : Bool) : State :=
  { s with cxd := { s.cxd with hostOut := s.cxd.hostOut ++ l.map fun (ld, a) => .done ld a dropped } }

/-- The reads of an offered image dropped, and the offer with them. -/
def offerLost (s : State) (id : Nat) : State :=
  let s := dropOwned s fun w => match w with | .boot i _ => i = id | _ => false
  { s with sec := { s.sec with offers := s.sec.offers.filter fun x => x.id ≠ id } }

/-- An offered image arrived whole: it is verified, or waits until the one that is verified is rejected (R374). -/
def imageCame (s : State) (b : List Byte) : State :=
  if s.sec.imageSrc = 0 then { s with sec := { s.sec with image := b, imageSrc := 2 } }
  else { s with sec := { s.sec with arrived := s.sec.arrived ++ [b] } }

/-- A piece of an offered image; the first image to arrive whole is the one verified (R374). -/
def offerPiece (s : State) (id off : Nat) (bs : List Byte) : State :=
  let put (x : Offer) : Offer :=
    let b := x.buf ++ List.replicate (off + bs.length - x.buf.length) 0
    if x.id = id then { x with buf := b.take off ++ bs ++ b.drop (off + bs.length) } else x
  let s := { s with sec := { s.sec with offers := s.sec.offers.map put } }
  if s.isf.out.any fun r => match r.owner with | .boot i _ => i = id | _ => false then s
  else
    let t := { s with sec := { s.sec with offers := s.sec.offers.filter fun x => x.id ≠ id } }
    match s.sec.offers.find? fun x => x.id = id with
    | some x => imageCame t (x.buf.take x.len)
    | none => t

/-- An event record for each host access that the target's protection or a revoked extent refuses (R291, R294). -/
def refusedEvents (s : State) (l : List (LdId × Word)) (st : Byte) : State :=
  if st = St.protect || st = St.revoked then l.foldl (fun s x => logEvent s x.1.val Ev.refused st x.2.toNat) s else s

/-- A request ends with a status other than COMPLETE, by what it served; TIMEOUT is a dead target's, which leaves the bytes of a copy
that it was to give undefined (R253). -/
def requestEnd (s : State) (r : OutReq) (st : Byte) : State :=
  let s := outDel s r.pkt.pkt.tag
  match r.owner with
  | .ferryRead t dst none =>
    (match opGet s t with
    | some o =>
      if st = St.timeout then
        let (bs, s) := undefinedBytes s (pieceLen s o dst)
        pieceDone (memWrite s dst bs) t st
      else pieceDone s t st
    | none => s)
  | .ferryRead t _ _ | .atomic t _ | .reduce t | .inval t => pieceDone s t st
  | .ferryWrite t _ slot =>
    (match opGet s t with
    | some o => if o.op = 2 then fmPiece s t slot st else pieceDone s t st
    | none => s)
  | .hand t => handEnd s t st
  | .load ld dpa want => refusedEvents (loadEnd s ld dpa want none) [(ld, dpa)] st
  | .store l => refusedEvents (storesEnd s l true) l st
  | .index t k => indexAnswered s t k none
  | .removal _ => s
  | .share t _ => shareFail s t (if st = St.timeout then 5 else 2)
  | .boot id _ => offerLost s id

/-- A request ends with TIMEOUT (R253). -/
def endTimeout (tag : W32) (s : State) : State :=
  match outReq s tag with
  | some r => requestEnd s r St.timeout
  | none => s

/-- A request to a dead target ends, once no bank and no host's line holds up what it writes (R194, R253, R296). -/
def endDead (s : State) (r : OutReq) : State :=
  withinWork (.dead r.pkt.pkt.tag) (endTimeout r.pkt.pkt.tag) (deadRecord s r.pkt.pkt.dst)

/-- Every request to a node that the live set excludes ends at once (R253, R264, R265). -/
def endExcluded (s : State) : State :=
  (s.isf.out.filter fun r => excluded s r.pkt.pkt.dst).foldl (fun s r => endDead s r) s

/-- What an operation of a ferry leads to, its requests to excluded nodes at their end (R253). -/
def sending (f : Op → State → State) (o : Op) (s : State) : State := endExcluded (f o s)

/-- The same of an operation that has not handed its packets to the ports yet. -/
def sendOnce (f : Op → State → State) (o : Op) (s : State) : State := if o.await ≠ 0 then s else sending f o s

/-! ## FCOPY (R254) -/

def namedFcopy (s : State) (o : Op) : Named :=
  (match fcSrc s o with | (none, a) => [(false, a, fcLen o)] | _ => []) ++
  (match fcDst s o with | (none, a) => [(true, a, fcLen o)] | _ => [])

/-- A fabric end of the own node is an offset that exists. -/
def endOk (s : State) (fab : Bool) (a n : Nat) : Bool := !fab || fabNode a ≠ ownNode s || fabricPlace s (fabOff a) n

/-- The checks of FCOPY, made at its launch (R54, R254, R381). -/
def fcopyOk (s : State) (o : Op) : Bool :=
  fcLen o ≠ 0 && nodesOk s o && endOk s (fcSfab o) (bodyF o 320 64) (fcLen o) && endOk s (fcDfab o) (bodyF o 256 64) (fcLen o)

/-- The status that a copy has before its answers: CHECKSUM for a failed page, POISON for poisoned data. -/
def sourceStatus (s : State) (a n : Nat) (bad : List (Nat × Nat)) : Byte :=
  if !bad.isEmpty then St.checksum else if poisoned s a n then St.poison else St.complete

/-- An operation awaits n answers, or ends where there are none. -/
def awaitOrEnd (s : State) (t : Ticket) (n steps : Nat) (st : Byte) : State :=
  if n = 0 then opEnd s t st steps else opUpd (opAwait s t n steps) t fun o => { o with status := st }

/-- A copy within this device. -/
def copyHere (s : State) (o : Op) (src dst : Nat) : State :=
  if fcDfab o && revoked s dst (fcLen o) then opEnd s o.ticket St.revoked (ferrySteps (fcLen o))
  else
    let (bad, s) := readPages s src (fcLen o)
    let st := sourceStatus s src (fcLen o) bad
    let segs := cutOut src (fcLen o) bad
    let s := segs.foldl (fun s (x, n) => copyLocal s (src + x) (dst + x) n) s
    let n := (segs.map fun x => x.2).foldl (· + ·) 0
    opEnd (localTally (addBytes s o n) (fcRt o) n) o.ticket st (ferrySteps (fcLen o))

/-- A copy to another node. -/
def copyOut (s : State) (o : Op) (src : Nat) (node : Node) (dst : Nat) : State :=
  let (bad, s) := readPages s src (fcLen o)
  let st := sourceStatus s src (fcLen o) bad
  let ps := (cutOut src (fcLen o) bad).flatMap (cutPieces dst)
  let s := ps.foldl (fun s (x, n) =>
    sendWrite s o node (dst + x) (memRead s (src + x) n) (sourceMask s (src + x) n) 0 (fcRt o)) s
  awaitOrEnd s o.ticket ps.length (ferrySteps (fcLen o)) st

/-- The reads of a copy from another node: its first write is still to come, so it is not committed (R92, R265). -/
def copyIn (s : State) (o : Op) (node : Node) (src : Nat) (dnode : Option Node) (dst : Nat) : State :=
  let ps := cutPieces dst (0, fcLen o)
  let s := ps.foldl (fun s (x, n) =>
    sendRequest s (.ferryRead o.ticket (dst + x) (dnode.map fun d => BitVec.ofNat 64 (d.toNat * 2 ^ 50 + dst + x))) false
      { op := 0x01, dst := node, off := BitVec.ofNat 50 (src + x), edition := o.edition, arg := BitVec.ofNat 64 (ceilDiv n 64 * 64) }) s
  opUpd s o.ticket fun o => { o with await := ps.length, steps := min (ferrySteps (fcLen o)) 0xFFFF }

/-- FCOPY (R153, R254). -/
def execFcopy (p : Posted) (s : State) : Res :=
  posted 0 false namedFcopy 8 0 p (sendOnce fun o s =>
      match fcSrc s o, fcDst s o with
      | (none, a), (none, b) => copyHere s o a b
      | (none, a), (some n, b) => copyOut s o a n b
      | (some n, a), (d, b) => copyIn s o n a d b) s

/-- The data of a piece from another node arrives: written here, or sent on. -/
def pieceArrived (s : State) (o : Op) (dst : Nat) (fab : Option Word) (k : Packet) : State :=
  let n := pieceLen s o dst
  let bs := k.data.take n
  let s := opUpd s o.ticket fun o => { o with phase := if fab.isNone then .committed else o.phase,
                                               status := if o.status = 0 && k.arg ≠ 0 then St.poison else o.status }
  match fab with
  | some f => endExcluded (sendWrite s o (fabNode f.toNat) dst bs (k.arg.toNat % 2 ^ 64) 0 (fcRt o))
  | none =>
    if hdmHBlocked s dst n then pieceDone s o.ticket St.protect
    else if fcDfab o && revoked s dst n then pieceDone s o.ticket St.revoked
    else pieceDone (localTally (addBytes (writeMasked s dst bs k.arg.toNat) o n) (fcRt o) n) o.ticket St.complete

/-! ## FMCAST (R258) -/

/-- The writes of a multicast to one member; the packets sent. On this device the range was checked at launch (R54, R381). -/
def fmMember (o : Op) (segs : List (Nat × Nat)) (x : State × Nat) (k : Nat) : State × Nat :=
  let (s, sent) := x
  let src := bodyF o 320 64
  let note (s : State) (st : Byte) : State := opUpd s o.ticket fun o => fmNote o k st
  match slotNode s k with
  | none => (note s St.protect, sent)
  | some node =>
    if node = ownNode s then
      if !o.settled then (note s St.protect, sent)
      else if revoked s (fmOff o) (fmLen o) then (note s St.revoked, sent)
      else
        let s := segs.foldl (fun s (x, n) => copyLocal s (src + x) (fmOff o + x) n) (if segs.isEmpty then s else opCommit s o.ticket)
        let m := (segs.map fun x => x.2).foldl (· + ·) 0
        (localTally (addBytes s o m) (fmRt o) m, sent)
    else
      let ps := segs.flatMap (cutPieces (fmOff o))
      (ps.foldl (fun s (x, n) =>
        sendWrite s o node (fmOff o + x) (memRead s (src + x) n) (sourceMask s (src + x) n) k (fmRt o)) s, sent + ps.length)


/-- FMCAST (R258). -/
def execFmcast (p : Posted) (s : State) : Res :=
  posted 0 false namedFmcast 8 2 p (sendOnce (fun o s =>
    let src := bodyF o 320 64
    let (bad, s) := readPages s src (fmLen o)
    let st := sourceStatus s src (fmLen o) bad
    let ms := fmMembers s o
    let s := opUpd s o.ticket fun o => { o with buf := [(32, ms.map (BitVec.ofNat 8))] }
    let (s, sent) := ms.foldl (fmMember o (cutOut src (fmLen o) bad)) (s, 0)
    let steps := min (ferrySteps (fmLen o * ms.length)) 0xFFFF
    let s := opUpd s o.ticket fun o => { o with await := sent, steps := steps, status := st }
    match opGet s o.ticket with
    | some o => if sent = 0 then fmEnd s o else s
    | none => s)) s

/-! ## FRED (R101, R256) -/

def rdLen (o : Op) : Nat := bodyF o 192 40
def rdRt (o : Op) : Option Nat := if o.body.toNat.testBit 179 then some (bodyF o 180 12) else none
/-- The REDUCE arg of an operation: fn and efmt unchanged (R256). -/
def rdArg (o : Op) : Nat :=
  boolNat o.ord * 2 ^ 16 + bodyF o 169 6 * 2 ^ 10 + bodyF o 163 6 * 2 ^ 4 + bodyF o 177 2 * 2 ^ 2 + bodyF o 175 2

def namedFred (s : State) (o : Op) : Named :=
  (false, bodyF o 320 64, rdLen o) ::
    (if fabNode (bodyF o 256 64) = ownNode s then [(true, fabOff (bodyF o 256 64), rdLen o)] else [])

/-- The checks of FRED, made at its launch (R54, R256, R381). -/
def fredOk (s : State) (o : Op) : Bool :=
  rdLen o ≠ 0 && rdLen o % 64 = 0 && bodyF o 256 64 % 64 = 0 && bodyF o 177 2 ≠ 3 &&
  bodyF o 175 2 ≠ 3 && nodesOk s o && endOk s true (bodyF o 256 64) (rdLen o)

/-- A contribution to a segment on this device: it waits for its answer like one sent (R254, R256). -/
def contributeHere (s : State) (t : Ticket) (k : Packet) : State :=
  let tag := s.isf.nextTag
  let k := { k with src := ownNode s, tag := tag, len := BitVec.ofNat 13 k.data.length }
  let s := { s with isf := { s.isf with
    nextTag := tag + 1, out := s.isf.out ++ [{ pkt := { pkt := k }, sent := s.clk.bell, owner := .reduce t }] } }
  let (l, s) := contribute (opCommit s t) k
  sendAnswers s l

/-- The bytes of a contribution: of a poisoned line, undefined ones (log entry 34). -/
def sourceBytes (s : State) (a n : Nat) : List Byte × State :=
  (List.range (ceilDiv n 64)).foldl (fun (bs, s) i =>
    let m := min 64 (n - 64 * i)
    if poisoned s (a + 64 * i) m then let (u, s) := undefinedBytes s m; (bs ++ u, s) else (bs ++ memRead s (a + 64 * i) m, s)) ([], s)

/-- FRED (R101, R256): every piece is sent; poisoned data is undefined in it (log entry 34). -/
def execFred (p : Posted) (s : State) : Res :=
  posted 0 true namedFred 8 1 p (sendOnce (fun o s =>
    let src := bodyF o 320 64
    let dst := fabOff (bodyF o 256 64)
    let node := fabNode (bodyF o 256 64)
    let (bad, s) := readPages s src (rdLen o)
    let st := sourceStatus s src (rdLen o) bad
    let ps := (cutOut src (rdLen o) bad).flatMap (cutPieces dst)
    let pkt (x : Nat) (bs : List Byte) : Packet :=
      { op := 0x07, dst := node, off := BitVec.ofNat 50 (dst + x), edition := o.edition, arg := BitVec.ofNat 64 (rdArg o),
        data := bs, talEn := (rdRt o).isSome, tally := BitVec.ofNat 12 ((rdRt o).getD 0) }
    let s := awaitOrEnd s o.ticket ps.length (ferrySteps (rdLen o)) st
    ps.foldl (fun s (x, n) =>
      let (bs, s) := sourceBytes s (src + x) n
      if node = ownNode s then contributeHere s o.ticket (pkt x bs)
      else sendRequest s (.reduce o.ticket) false (pkt x bs)) s)) s

/-! ## FATOM (R246) -/

def faOp (o : Op) : Nat := bodyF o 126 2

def namedFatom (s : State) (o : Op) : Named :=
  (true, bodyF o 256 64, 8) ::
    (if fabNode (faTarget o) = ownNode s && (faTally s o).isNone then
      [(true, fabOff (faTarget o), 8), (false, fabOff (faTarget o), 8)] else [])

/-- The checks of FATOM, made at its launch (R54, R246, R381). -/
def fatomOk (s : State) (o : Op) : Bool :=
  faOp o ≠ 3 && faTarget o % 8 = 0 && nodesOk s o &&
  (fabNode (faTarget o) ≠ ownNode s || fabricPlace s (fabOff (faTarget o)) 8 || ((faTally s o).isSome && faOp o = 0))

/-- The old value written back: the operation ends. -/
def atomEnd (s : State) (t : Ticket) (result : Nat) (old : List Byte) : State :=
  if hdmHBlocked s result 8 then opEnd s t St.protect (ferrySteps 8)
  else opEnd (memWrite s result old) t St.complete (ferrySteps 8)

/-- FATOM (R246, R248, R254). -/
def execFatom (p : Posted) (s : State) : Res :=
  posted 0 false namedFatom 8 3 p (sendOnce (fun o s =>
    let a := fabOff (faTarget o)
    let result := bodyF o 256 64
    let ops := leBytes 8 (bodyF o 192 64) ++ leBytes 8 (bodyF o 128 64)
    if fabNode (faTarget o) = ownNode s then
      match faTally s o with
      | some i => atomEnd (tallyAdd s i (bodyF o 192 64)) o.ticket result (leBytes 8 (tally s i).toNat)
      | none =>
        if revoked s a 8 then opEnd s o.ticket St.revoked (ferrySteps 8)
        else if poisoned s a 8 then opEnd s o.ticket St.poison (ferrySteps 8)
        else
          let old := memNum s a 8
          let s := memWriteNum s a 8 (atomicNew (faOp o) old (bodyF o 192 64) (bodyF o 128 64))
          atomEnd s o.ticket result (leBytes 8 old)
    else
      let s := opAwait s o.ticket 1 (ferrySteps 8)
      sendRequest s (.atomic o.ticket result) false
        { op := 0x05, dst := fabNode (faTarget o), off := BitVec.ofNat 50 a, edition := o.edition,
          arg := BitVec.ofNat 64 (faOp o), data := ops })) s

/-! ## FINV (R252) -/

def fiLen (o : Op) : Nat := bodyF o 216 40
def namedFinv (_ : State) (o : Op) : Named := if fiGrp o then [] else [(false, bodyF o 256 64, 2 * fiN o)]

/-- The checks of FINV, made at its launch (R54, R252, R381): of its holders where their list carries no poison. -/
def finvOk (s : State) (o : Op) : Bool :=
  s.isf.nodeValid && (!fiGrp o || bodyF o 256 64 = 0) && nodesOk s o && (!fiListed s o || (fiHolders s o).all Option.isSome)

/-- FINV (R252): its holders are those that its launch checked, POISON where it could not read them; on this device its blocks are dropped
and their host lines recalled first. -/
def execFinv (p : Posted) (s : State) : Res :=
  posted 1 false namedFinv 8 4 p (sendOnce (fun o s =>
    match o.nodes with
    | none => opEnd s o.ticket St.poison 0
    | some ns =>
      let off := fabOff (bodyF o 320 64)
      let here := ns.contains (ownNode s)
      let s := if here then dropBlocks s off (fiLen o) else s
      let ls := if here then blockLines s off (fiLen o) else []
      if !ls.isEmpty then startRecalls s ls
      else
        let far := ns.filter fun n => n ≠ ownNode s
        let s := awaitOrEnd (if here then opCommit s o.ticket else s) o.ticket far.length (ferrySteps 0) St.complete
        far.foldl (fun s n => sendRequest s (.inval o.ticket) false
          { op := 0x08, vc := 2, dst := n, off := BitVec.ofNat 50 off, edition := o.edition,
            arg := BitVec.ofNat 64 (fiLen o) }) s)) s

/-! ## FHAND (R18, R108, R259) -/

def fhNode (o : Op) : Node := BitVec.ofNat 14 (bodyF o 370 14)

/-- The checks of FHAND (R108, R250). DESIGN CHOICE (log entry 160): a spilled record is handed off where the table has room for it. -/
def fhandOk (s : State) (o : Op) : Bool :=
  (activeOrDone s o).isSome && nodesOk s o &&
  (quotaRoom s o.part 1 || !s.ldg.spilled.any fun x => x.1 = o.request.toNat)
where
  activeOrDone (s : State) (o : Op) : Option LEntry :=
    (entryIn s o.part o.request.toNat).filter fun e => e.state.toNat = LSt.admitted || e.state.toNat = LSt.done

/-- The entry as its hand-off record carries it (R259). -/
def fhEntry (o : Op) (e : LEntry) : LEntry :=
  { e with root := BitVec.ofNat 52 (bodyF o 268 52), sclass := BitVec.ofNat 6 (bodyF o 262 6),
           nleft := BitVec.ofNat 20 (bodyF o 242 20), gate := BitVec.ofNat 12 (bodyF o 230 12),
           gateEn := o.body.toNat.testBit 229, gval := BitVec.ofNat 32 (bodyF o 197 32), ld := Fin.ofNat 16 (bodyF o 352 4) }

/-- The launch of an FHAND that passes its checks: the entry is HANDING (R108), in the table, as a HANDING entry stays there (R131). -/
def fhandLaunch (s : State) (o : Op) : State :=
  let s := bringIn s o.request.toNat
  let e := entryOf s o.request.toNat
  moveEntry (opUpd s o.ticket fun x => { x with prior := e.state }) e LSt.handing

/-- FHAND (R18, R126, R259): it is not committed until the destination accepts the record. -/
def execFhand (p : Posted) (s : State) : Res :=
  posted 1 false (fun _ _ => []) 8 5 p (sending fun o s =>
    if o.await ≠ 0 then s
    else
      let e := entryOf s o.request.toNat
      let data := leBytes 64 (entryNum (fhEntry o e)) ++ leBytes 8 (nsLeft s e.deadline.toNat) ++ leBytes 4 (bodyF o 320 32) ++ leBytes 4 0
      let s := opUpd s o.ticket fun o => { o with await := 1 }
      if fhNode o = ownNode s then handEnd s o.ticket St.protect
      else sendRequest s (.hand o.ticket) false
        { op := 0x0A, dst := fhNode o, edition := o.edition, arg := BitVec.ofNat 64 (bodyF o 369 1), data := data }) s

/-! ## Answers (R251, R253, R262) -/

/-- The landing's accesses: host loads and stores, and imports. -/
def isLanding : Owner → Bool | .load _ _ _ | .store _ | .share _ _ => true | _ => false

/-- The node that the present map gives a landing request (R249, R260, R262); none for a shared block, whose holder is named by node. -/
def landingNode (s : State) (r : OutReq) : Option Node :=
  match r.owner with
  | .load _ dpa _ => (dpaFabric s dpa.toNat).map fun x => x.1
  | .store (x :: _) => (dpaFabric s x.2.toNat).map fun x => x.1
  | _ => none

/-- A MOVED answer (R262): a landing access is sent once more under a newer current edition, else it ends as a dead one with
its record; another request ends MOVED where the edition returned is newer, else it is sent again after 10 µs. -/
def answerMoved (s : State) (r : OutReq) (e : W32) : State :=
  let tag := r.pkt.pkt.tag
  if isLanding r.owner then
    if !r.again && editionNewer s.isf.map.edition r.pkt.pkt.edition then
      let n := (landingNode s r).getD r.pkt.pkt.dst
      let p := { r.pkt with pkt := { r.pkt.pkt with edition := s.isf.map.edition, dst := n }, route := n.toNat }
      resend { s with isf := { s.isf with out := updFirst (fun x => x.pkt.pkt.tag = tag) (fun x => { x with pkt := p }) s.isf.out } } tag
    else requestEnd (raise s 0x0E 2 0 r.pkt.pkt.dst.toNat e.toNat) r St.timeout
  else if editionNewer e r.pkt.pkt.edition then requestEnd s r St.moved
  else holdResend s tag true

/-- A response: counted as dropped where nothing waits for it, or where its status is no code of R8 (log entry 120); MOVED and
refusals end or move its request; else it is done. -/
def answered (s : State) (k : Packet) (fit : Owner → Bool) (f : OutReq → State → State) : State :=
  match outReq s k.tag with
  | none => dropPacket s
  | some r =>
    if !fit r.owner || 0x0B < k.status.toNat then dropPacket s
    else if k.status = St.moved then answerMoved s r k.edition
    else if k.status ≠ St.complete then requestEnd s r k.status
    else f r s

/-- A landing block kept: the oldest goes where the cache is full (R251; log entry 35). A block with poison is not kept. -/
def keepBlock (s : State) (b : Nat) (bs : List Byte) : State :=
  let n := s.isf.lblocks.toNat
  if n = 0 then s
  else { s with isf := { s.isf with lcache := ((s.isf.lcache.filter fun x => x.1 ≠ b).drop (s.isf.lcache.length + 1 - n)) ++ [(b, bs)] } }

/-- The block that a landing request reads. -/
def reqBlock (r : OutReq) : Nat := (r.pkt.pkt.dst.toNat * 2 ^ 50 + r.pkt.pkt.off.toNat) / 4096

/-- The bytes of a block that the landing's stores sent before a read and not answered give it (R251). -/
def earlierStores (s : State) (r : OutReq) (bs : List Byte) : List Byte :=
  (s.isf.out.filter fun w => (match w.owner with | .store _ => true | _ => false) && reqBlock w = reqBlock r &&
    decide ((r.pkt.pkt.tag - w.pkt.pkt.tag).toNat < 2 ^ 31)).foldl (fun bs w =>
      let at_ := w.pkt.pkt.off.toNat % 4096
      bs.take at_ ++ w.pkt.pkt.data ++ bs.drop (at_ + w.pkt.pkt.data.length)) bs

/-- Read data for what asked for it (R169, R251, R254). -/
def readArrived (k : Packet) (r : OutReq) (s : State) : State :=
  let s' := outDel s k.tag
  match r.owner with
  | .ferryRead t dst fab =>
    (match opGet s' t with
    | some o => pieceArrived s' o dst fab k
    | none => s')
  | .load ld dpa want =>
    let i := dpa.toNat / 64 % 64
    let bs := earlierStores s r k.data
    let s' := if r.noKeep || k.arg ≠ 0 then s' else keepBlock s' (reqBlock r) bs
    let s' := if k.arg.toNat.testBit i then logEvent s' ld.val Ev.poison St.poison dpa.toNat else s'
    loadEnd s' ld dpa want (some ((bs.drop (64 * i)).take 64, k.arg.toNat.testBit i))
  | .share t _ =>
    if k.arg ≠ 0 then shareFail s' t 2
    else shareBlock (if r.noKeep then s' else keepBlock s' (reqBlock r) k.data) t (reqBlock r) k.data
  | .boot id off => if k.arg ≠ 0 then offerLost s' id else offerPiece s' id off k.data
  | _ => s'

def serveReadResp (k : Packet) (s : State) : State :=
  answered s k (fun w => match w with | .ferryRead _ _ _ | .load _ _ _ | .share _ _ | .boot _ _ => true | _ => false) (readArrived k)

/-- A response whose local write a bank, a named row or hosts' lines hold up waits (R194, R296); one that writes lines the device may not
recall is done another way (R288). -/
def responseOrHold (k : Packet) (f no : State → State) (s : State) : State :=
  let t := f { s with mem := { s.mem with access := some [] } }
  let l := accesses t []
  let ls := linesHold s l
  if extentHit s l then no s
  else if banksHold t l then holdPacket s k
  else if ls.isEmpty then noAccess t
  else holdPacket (startRecalls s ls) k

/-- A response served, by a function of the packet; one that would write lines the device may not recall ends its request with PROTECT
(R288). -/
def serveResponse (f : Packet → State → State) (k : Packet) (s : State) : State :=
  responseOrHold k (f k) (f { k with status := St.protect }) s

/-- READ_RESP (R251, R253, R254). -/
def execReadResp (k : Packet) (s : State) : Res := .next (inbound 0x02 k (serveResponse serveReadResp k) s)

/-- A write, a contribution or an invalidation acknowledged. -/
def ackArrived (k : Packet) (r : OutReq) (s : State) : State :=
  match r.owner with
  | .ferryWrite t n slot =>
    let s := outDel s k.tag
    (match opGet s t with
    | some o =>
      let s := addBytes s o n
      if o.op = 2 then fmPiece s t slot St.complete else pieceDone s t St.complete
    | none => s)
  | .reduce t => if k.arg.toNat.testBit 0 then holdResend s k.tag false else reduceDone s r t St.complete
  | .inval t => pieceDone (outDel s k.tag) t St.complete
  | .store l => storesEnd (outDel s k.tag) l false
  | _ => s

/-- What an ACK answers. -/
def ackFit : Owner → Bool
  | .ferryWrite _ _ _ | .reduce _ | .inval _ | .store _ => true
  | _ => false

def serveAck (k : Packet) (s : State) : State := answered s k ackFit (ackArrived k)

/-- ACK (R252, R254, R256): the answer to a WRITE, a REDUCE or an INVAL. -/
def execAck (k : Packet) (s : State) : Res := .next (inbound 0x04 k (serveResponse serveAck k) s)

/-- The old value of a remote atomic arrives. -/
def serveAtomicResp (k : Packet) (s : State) : State :=
  answered s k (fun w => match w with | .atomic _ _ => true | _ => false) fun r s =>
    match r.owner with
    | .atomic t result => atomEnd (outDel s k.tag) t result (k.data.take 8)
    | _ => s

/-- ATOMIC_RESP (R246). -/
def execAtomicResp (k : Packet) (s : State) : Res := .next (inbound 0x06 k (serveResponse serveAtomicResp k) s)

/-- What the answer to a HAND packet answers. -/
def handFit : Owner → Bool
  | .hand _ => true
  | _ => false

def serveHandResp (k : Packet) (s : State) : State :=
  answered s k handFit fun r s =>
    match r.owner with
    | .hand t => handEnd (outDel s k.tag) t St.complete
    | _ => s

/-- HAND_RESPONSE (R18, R108, R259). -/
def execHandResponse (k : Packet) (s : State) : Res := .next (inbound 0x04 k (serveResponse serveHandResp k) s)

/-! ## Held packets (R194, R296) -/

/-- A held packet served again by kind; an ACK by what it answers. -/
def serveHeld (s : State) (k : Packet) : State :=
  match k.op.toNat with
  | 1 => serveRead k s true | 2 => serveResponse serveReadResp k s | 3 => serveWrite k s true
  | 4 => serveResponse (if (outReq s k.tag).any fun r => handFit r.owner then serveHandResp else serveAck) k s
  | 5 => serveAtomic k s true | 6 => serveResponse serveAtomicResp k s | 7 => serveReduce k s true | 8 => serveInval k s true | _ => s

end Sys2Proof.Machine
end

