-- ==== Sys2Proof/Machine/Links.lean ====
section
/-! DEFINITION. The Isandi links and what they lose: retry, retraining, port failure, dead targets, requests sent again, the
landing's stores, the composition map (R241 to R243, R251, R253, R255, R256, R260 to R262, R265). -/
namespace Sys2Proof.Machine

/-! ## Links -/

/-- LINK_FLIT_ERROR (R243): the flit and every later one are dropped; a negative acknowledgement names the one expected. -/
def execLinkFlitError (p : PortId) (s : State) : Res :=
  let x := portGet s p
  whenOk (linkOn s && x.up && !x.nakSent) (sendControl (portSet s p { x with nakSent := true }) p true) s

/-- A payload flit's seq is acknowledged by an ack (R243): the replay buffer holds 512 flits of 1,024 numbers. -/
def acked (ack q : BitVec 10) : Bool := decide ((ack - q).toNat < 512)

/-- Every request not answered is sent again with its tag, and each other packet that the failed port held (R243, R255). -/
def resendLost (s : State) (lost : List OutPkt) : State :=
  let own := s.isf.out.filter fun r => r.ups ≠ 0 && r.resend.isNone && !s.isf.heldPkts.contains r.pkt
  let same (r : OutReq) (o : OutPkt) : Bool :=
    r.pkt = o || (o.pkt.op = 0x0A && r.pkt.pkt.op = 0x0A && r.pkt.pkt.tag = o.pkt.tag)
  let rest := (lost.map fun o => { o with skip := 0 }).filter fun o => !(s.isf.out.any fun r => same r o)
  (own.map (fun r => r.pkt) ++ rest).foldl sendPacket s

/-- A port declared failed is retired (R23, R243). -/
def failPort (s : State) (p : Nat) : State :=
  let x := portGet s p
  let s := portSet (if x.up then portsChange s else s) p { x with up := false, failed := true, unacked := [] }
  resendLost (retireUnit (raise s 0x0C 2 (uid 12 (p + 1)) 0 0) (uid 12 (p + 1))) (x.unacked.map fun u => u.out)

/-- A retired port's packets leave on the others (R23, R255). -/
def portRetired (s : State) (u : UnitId) : State :=
  let p := unitIndex u - 1
  if unitKind u = 12 && unitIndex u ≠ 0 then
    resendLost (portSet s p { portGet s p with unacked := [] }) ((portGet s p).unacked.map fun x => x.out)
  else s

/-- The fourth replay of one flit: the port retrains, and fails at the third retrain within a second (R243). -/
def retrainPort (s : State) (p : Nat) : State :=
  let x := portGet s p
  let now := s.clk.bell
  let rs := now :: x.retrains.filter fun b => decide (now.toNat < b.toNat + bellUs s 1000000)
  let s := portSet (portsChange s) p { x with up := false, retrains := rs, replays := 0, txOpen := 0, rxOpen := 0 }
  let s := raise s 0x0B 2 (uid 12 (p + 1)) x.replays 0
  if 3 ≤ rs.length then failPort s p else s

/-- A packet of the replay buffer after an ack: the flits up to it carried the packet's first bytes (R243). -/
def carried (ack : BitVec 10) (u : SentPkt) : SentPkt :=
  let f := ceilDiv (u.taken + (packetBytes u.out.pkt).length) 240
  let m := (u.last - ack).toNat
  if m < f then { u with out := { u.out with skip := max u.out.skip ((f - m) * 240 - u.taken) } } else u

/-- The replay buffer put on the wire again, from the first flit not acknowledged on, with the bits that it had (R243). -/
def replay (s : State) (p : Nat) : State :=
  { s with isf := { s.isf with wire := s.isf.wire ++ (portGet s p).unacked.map fun u => u.out } }

/-- CONTROL_FLIT (R243): credits returned, flits acknowledged, a replay where it is asked for. -/
def execControlFlit (p : PortId) (f : CtlFlit) (s : State) : Res :=
  let x := portGet s p
  if !(linkOn s && x.up) then .next s
  else
    let left := (x.unacked.filter fun u => !acked f.ack u.last).map (carried f.ack)
    let x := { x with replays := if acked f.ack x.nakSeq then 0 else x.replays }
    let x := { x with credits := [0, 1, 2, 3].map fun i => x.credits.getD i 0 + f.credits.getD i 0 % 2 ^ 28, unacked := left, rxOpen := 0 }
    if f.nak && !left.isEmpty then
      let n : Nat := if x.nakSeq = f.ack + 1 then x.replays + 1 else 1
      let s := replay (portSet s p { x with nakSeq := f.ack + 1, replays := n }) p
      .next (pump (if 4 ≤ n then retrainPort s p else s))
    else .next (pump (portSet s p x))

/-- CONTROL_FLIT_INTERVAL (R243). -/
def execControlFlitInterval (p : PortId) (s : State) : Res :=
  let x := portGet s p
  whenOk (linkOn s && x.up && x.rxUnacked ≠ 0) (sendControl s p x.nakSent) s

/-- PORT_TRAINED (R241, R390): the replay buffer of a port that retrained is sent again; no port trains while GEN_NODE is
not valid or the reference is absent. -/
def execPortTrained (p : PortId) (t : PortTraining) (s : State) : Res :=
  let x := portGet s p
  let ok := linkOn s && s.isf.nodeValid && s.clk.refPresent && !x.up && !x.failed &&
    unitIn s (uid 12 (p.val + 1)) && [1, 2, 4, 8, 16].contains t.width && decide (t.width ≤ portWidth s (p.val + 1)) && t.credits.length = 4
  let y := { x with width := t.width, pam4 := t.pam4, up := true, credits := t.credits.map fun n => n % 2 ^ 28, nakSent := false,
                                given := [0, 1, 2, 3].map fun v => Config.portCredits p.val v % 2 ^ 28,
                                txOpen := 0, rxOpen := 0 }
  whenOk ok (pump (replay (portSet (portsChange s) p y) p)) s

/-! ## Dead targets and requests sent again -/

/-- DEAD_TARGET (R253). -/
def execDeadTarget (tag : W32) (s : State) : Res :=
  match outReq s tag with
  | none => .next s
  | some r =>
    whenOk (linkOn s &&
        ((r.ups ≠ 0 && decide (r.sent.toNat + deadBound s ≤ s.clk.bell.toNat)) || excluded s r.pkt.pkt.dst))
      (endDead s r) s

/-- The device's own contribution to a segment of its own tried again; PROTECT where the device may not write the segment (R256,
R288). -/
def ownResend (s : State) (r : OutReq) : State :=
  let tag := r.pkt.pkt.tag
  tryWork true (.reduce tag) [] (fun s =>
    let s := { s with isf := { s.isf with
      out := updFirst (fun x => x.pkt.pkt.tag = tag) (fun x => { x with resend := none, again := true }) s.isf.out } }
    let (l, t) := contribute s r.pkt.pkt
    sendAnswers t l) s (fun s => some (requestEnd s r St.protect))

/-- REDUCE_RESEND (R256): the device's own contribution is tried again where it lies. -/
def execReduceResend (tag : W32) (s : State) : Res :=
  match outReq s tag with
  | none => .next s
  | some r =>
    whenOk (linkOn s && r.resend = some false) (if r.pkt.pkt.dst = ownNode s then ownResend s r else resend s tag) s

/-- EDITION_RESEND (R262). -/
def execEditionResend (tag : W32) (s : State) : Res :=
  match outReq s tag with
  | none => .next s
  | some r => whenOk (linkOn s && r.resend = some true) (resend s tag) s

/-! ## The landing's stores (R251) -/

/-- The bytes of a block that its waiting stores leave, in store order, from a place in the block on. -/
def mergeStores (l : List LStore) : List (Option Byte) :=
  l.foldl (fun acc w => (indexed acc).map fun (i, b) =>
    if w.at_ ≤ i then (match w.bytes.getD (i - w.at_) none with | some c => some c | none => b) else b)
    (List.replicate 4096 none)

/-- The runs of bytes given: place and bytes. -/
def runsOf (i : Nat) (cur : List Byte) : List (Option Byte) → List (Nat × List Byte)
  | [] => if cur.isEmpty then [] else [(i - cur.length, cur)]
  | some b :: r => runsOf (i + 1) (cur ++ [b]) r
  | none :: r => (if cur.isEmpty then [] else [(i - cur.length, cur)]) ++ runsOf (i + 1) [] r

/-- The poison mask of a run: its 64-byte pieces that meet a store marked with poison. -/
def runMask (l : List LStore) (at_ n : Nat) : Nat :=
  ((List.range (ceilDiv n 64)).map fun i =>
    boolNat (l.any fun w => w.poison && decide (w.at_ < at_ + 64 * i + 64) && decide (at_ + 64 * i < w.at_ + w.bytes.length)) * 2 ^ i).foldl (· + ·) 0

/-- The waiting stores of a block sent as one WRITE; a gap between their bytes begins another (log entry 36). A store is
done with the last of them that meets it. -/
def flushBlock (s : State) (b : Nat) : State :=
  let l := s.isf.lstores.filter fun w => w.block = b
  let s := { s with isf := { s.isf with lstores := s.isf.lstores.filter fun w => w.block ≠ b } }
  let node : Node := BitVec.ofNat 14 (b * 4096 / 2 ^ 50)
  if !l.isEmpty && excluded s node then storesEnd (deadRecord s node) (l.map fun w => (w.ld, w.dpa)) true
  else
  let rs := runsOf 0 [] (mergeStores l)
  let meets (w : LStore) (x : Nat × List Byte) : Bool :=
    decide (w.at_ < x.1 + x.2.length) && decide (x.1 < w.at_ + w.bytes.length)
  let s := storesEnd s ((l.filter fun w => !rs.any (meets w)).map fun w => (w.ld, w.dpa)) false
  (indexed rs).foldl (fun s (i, x) =>
    let ws := l.filter fun w => meets w x && !(rs.drop (i + 1)).any (meets w)
    sendRequest s (.store (ws.map fun w => (w.ld, w.dpa))) true
      { op := 0x03, dst := BitVec.ofNat 14 (b * 4096 / 2 ^ 50), off := BitVec.ofNat 50 (b * 4096 % 2 ^ 50 + x.1),
        edition := s.isf.map.edition, arg := BitVec.ofNat 64 (runMask l x.1 x.2.length), data := x.2 }) s

/-- LANDING_STORE_FLUSH (R251). -/
def execLandingStoreFlush (block : BitVec 52) (s : State) : Res :=
  whenOk (s.phase = .running && s.isf.lstores.any fun w => w.block = block.toNat) (flushBlock s block.toNat) s

/-! ## The composition map -/

/-- A table of entries read from an image. -/
def imageTable {α : Type} [DecidableEq α] (d : α) (f : Nat → α) (n : Nat) : Table α :=
  (List.range n).reverse.foldl (fun t i => if f i = d then t else (i, f i) :: t) []

/-- The map that an image holds (R260). -/
def imageMap (s : State) (a : Nat) : CompMap :=
  { edition := BitVec.ofNat 32 (memNum s a 4), prev := s.isf.map.edition,
    reach := imageTable 0 (fun i => BitVec.ofNat 16 (memNum s (a + 16 + 2 * i) 2)) 32,
    buckets := imageTable 0 (fun i => BitVec.ofNat 16 (memNum s (a + 80 + 2 * i) 2)) 4096,
    groups := imageTable 0 (fun i => BitVec.ofNat 32 (memNum s (a + 8272 + 4 * i) 4)) 256 }

/-- A new map committed (R261, R265): landing blocks go, and reads under way are not kept; stores that wait leave under the
edition they were routed by. -/
def commitMap (s : State) (m : CompMap) : State :=
  let s := (s.isf.lstores.map fun w => w.block).eraseDups.foldl flushBlock s
  endExcluded { s with isf := { s.isf with
    map := m, result := St.complete, lcache := [],
    out := s.isf.out.map fun r => if isLanding r.owner then { r with noKeep := true } else r } }

/-- ISF_MAP_BASE written (R261): the image is refused where it is not newer, lies outside protected rows or has poison. -/
def writeMapBase (s : State) (v : Word) : State :=
  let s := { s with isf := { s.isf with mapBase := BitVec.ofNat 58 (v.toNat / 64) } }
  if !v.toNat.testBit 5 then s
  else
    let a := v.toNat / 64 * 64
    let m := imageMap s a
    if bytesProtected s a 9296 && !poisoned s a 9296 && editionNewer m.edition s.isf.map.edition then commitMap s m
    else { s with isf := { s.isf with result := St.protect } }

/-- MAP_INSTALL (R261). -/
def execMapInstall (a : Agent) (v : Word) (s : State) : Res :=
  asAgent a 0x68_0100 (fun s => whenOk (s.phase = .running && stewardAgent s a) (writeMapBase s v) s) s

/-- ISF_LCACHE written (R251): a reserved number of blocks is ignored. -/
def writeLcache (s : State) (v : Word) : State :=
  let n := v.toNat % 2 ^ 13
  if n ≤ 4096 then { s with isf := { s.isf with lblocks := BitVec.ofNat 13 n, lcache := [] } } else s

/-- LCACHE_WRITE (R251). -/
def execLcacheWrite (a : Agent) (v : Word) (s : State) : Res :=
  asAgent a 0x68_0400 (fun s => whenOk (s.phase = .running && stewardAgent s a) (writeLcache s v) s) s

end Sys2Proof.Machine
end

