-- ==== Sys2Proof/Machine/QpState.lean ====
section
/-! DEFINITION. The queue-pair contexts, their cache and backing, regions and page requests, packets and their encryption
(R266, R267, R269 to R274, R280, R282, R283). -/
namespace Sys2Proof.Machine

/-! ## Contexts (R267) -/

def qpGet (s : State) (n : Nat) : QpCtx := tget {} s.qpe.ctxs n
def qpSet (s : State) (n : Nat) (c : QpCtx) : State := { s with qpe := { s.qpe with ctxs := tset {} s.qpe.ctxs n c } }

/-! Queue-pair states (R267). -/
namespace Qs
abbrev reset : Nat := 0
abbrev init : Nat := 1
abbrev ready : Nat := 2
abbrev sqd : Nat := 3
abbrev error : Nat := 4
end Qs

/-- The 256 bytes of a context, as one number; the keys, salts and what lies above bit 1471 are left out where they are not
wanted. -/
def qpNum (n : Nat) (keys : Bool) (c : QpCtx) : Nat :=
  let k (i : Nat) : Nat := (tget (0 : BitVec 256) c.key i).toNat
  let sa (i : Nat) : Nat := (tget (0 : W32) c.salt i).toNat
  let x (i : Nat) : Nat := (tget (0 : BitVec 40) c.txc i).toNat
  (if keys then k 1 * 2 ^ 1792 + k 0 * 2 ^ 1536 + sa 1 * 2 ^ 1504 + sa 0 * 2 ^ 1472 else 0) +
  x 1 * 2 ^ 1368 + x 0 * 2 ^ 1328 + c.txpkts.toNat * 2 ^ 896 + c.rxpkts.toNat * 2 ^ 848 + c.authfail.toNat * 2 ^ 816 +
  c.rnrsent.toNat * 2 ^ 792 + c.rnrrecv.toNat * 2 ^ 768 + c.rwin.toNat * 2 ^ 512 + c.rbase.toNat * 2 ^ 454 +
  boolNat c.rhost * 2 ^ 453 + c.epsn.toNat * 2 ^ 352 + c.rmsn.toNat * 2 ^ 328 + c.rhead.toNat * 2 ^ 312 +
  c.rtail.toNat * 2 ^ 296 + c.rdepth.toNat * 2 ^ 292 + c.spsn.toNat * 2 ^ 224 + c.una.toNat * 2 ^ 192 +
  c.smsn.toNat * 2 ^ 168 + c.oldout.toNat * 2 ^ 152 + c.state.toNat * 2 ^ 125 + n * 2 ^ 111 + c.rnode.toNat * 2 ^ 97 +
  c.rqpn.toNat * 2 ^ 83 + c.part.val * 2 ^ 82 + c.ld.val * 2 ^ 78 + c.share.toNat * 2 ^ 70 + c.tclass.toNat * 2 ^ 67 +
  c.shaper.toNat * 2 ^ 61 + boolNat c.shen * 2 ^ 60 + c.policer.toNat * 2 ^ 54 + boolNat c.pen * 2 ^ 53 +
  boolNat c.sphase * 2 ^ 52 + c.kvalid.toNat * 2 ^ 50 + c.rto.toNat * 2 ^ 34 + c.rlimit.toNat * 2 ^ 31 +
  c.rnrlimit.toNat * 2 ^ 28 + c.rcnt.toNat * 2 ^ 25 + c.rnrcnt.toNat * 2 ^ 22 + c.ecause.toNat * 2 ^ 14

/-- Two values as a table of two keys. -/
def pair2 {α : Type} [DecidableEq α] (d a b : α) : Table α := tset d (tset d [] 0 a) 1 b

/-- The fields of MODIFY taken from an image, as chosen by a mask (R268). -/
def qpModify (c : QpCtx) (x mask : Nat) : QpCtx :=
  let c := if bit mask 0 then { c with share := BitVec.ofNat 8 (bf x 70 8) } else c
  let c := if bit mask 1 then { c with tclass := BitVec.ofNat 3 (bf x 67 3) } else c
  let c := if bit mask 2 then { c with shaper := BitVec.ofNat 6 (bf x 61 6), shen := bit x 60 } else c
  let c := if bit mask 3 then { c with policer := BitVec.ofNat 6 (bf x 54 6), pen := bit x 53 } else c
  let c := if bit mask 4 then { c with rto := BitVec.ofNat 16 (bf x 34 16) } else c
  if bit mask 5 then { c with rlimit := BitVec.ofNat 3 (bf x 31 3), rnrlimit := BitVec.ofNat 3 (bf x 28 3) } else c

/-- The software fields and keys of a context, from an image (R267, R268 CREATE). -/
def qpFresh (x : Nat) : QpCtx :=
  let k0 := bf x 1536 256
  let k1 := bf x 1792 256
  qpModify { key := pair2 0 (BitVec.ofNat 256 k0) (BitVec.ofNat 256 k1),
             salt := pair2 0 (BitVec.ofNat 32 (bf x 1472 32)) (BitVec.ofNat 32 (bf x 1504 32)),
             rbase := BitVec.ofNat 58 (bf x 454 58), rhost := bit x 453, rdepth := BitVec.ofNat 4 (bf x 292 4),
             rnode := BitVec.ofNat 14 (bf x 97 14), rqpn := BitVec.ofNat 14 (bf x 83 14),
             kvalid := BitVec.ofNat 2 (boolNat (k0 ≠ 0) + 2 * boolNat (k1 ≠ 0)) } x 63

/-- A whole context from its 256 bytes, as a fetch reads it back (R269). -/
def qpParse (x : Nat) : QpCtx :=
  { qpFresh x with
    txc := pair2 0 (BitVec.ofNat 40 (bf x 1328 40)) (BitVec.ofNat 40 (bf x 1368 40)),
    txpkts := BitVec.ofNat 48 (bf x 896 48), rxpkts := BitVec.ofNat 48 (bf x 848 48),
    authfail := BitVec.ofNat 32 (bf x 816 32), rnrsent := BitVec.ofNat 24 (bf x 792 24),
    rnrrecv := BitVec.ofNat 24 (bf x 768 24), rwin := BitVec.ofNat 256 (bf x 512 256),
    epsn := BitVec.ofNat 32 (bf x 352 32), rmsn := BitVec.ofNat 24 (bf x 328 24), rhead := BitVec.ofNat 16 (bf x 312 16),
    rtail := BitVec.ofNat 16 (bf x 296 16), spsn := BitVec.ofNat 32 (bf x 224 32), una := BitVec.ofNat 32 (bf x 192 32),
    smsn := BitVec.ofNat 24 (bf x 168 24), oldout := BitVec.ofNat 16 (bf x 152 16), state := BitVec.ofNat 3 (bf x 125 3),
    part := if bit x 82 then 1 else 0, ld := Fin.ofNat 16 (bf x 78 4), sphase := bit x 52,
    kvalid := BitVec.ofNat 2 (bf x 50 2), rcnt := BitVec.ofNat 3 (bf x 25 3), rnrcnt := BitVec.ofNat 3 (bf x 22 3),
    ecause := BitVec.ofNat 8 (bf x 14 8) }

/-- The Resv fields of an image (R267). -/
def qpImageResv (x : Nat) : Bool :=
  bf x 1408 64 = 0 && bf x 944 384 = 0 && bf x 384 69 = 0 && bf x 256 36 = 0 && bf x 128 24 = 0 && bf x 0 14 = 0

/-! ## Cache and backing (R269, R270) -/

/-- The queue pair an operation of QPSEND or QPCTL names. -/
def opQpn (o : Op) : Nat := if o.op = 6 then bodyF o 282 14 else bodyF o 306 14

/-- An operation of the queue-pair engine that has launched and has not ended. -/
def qpLaunched (o : Op) : Bool := o.cls = 8 && (o.op = 6 || o.op = 7) && (o.phase = .launched || o.phase = .committed)

/-- A context is pinned by sending (R270). -/
def qpSending (s : State) (n : Nat) : Bool :=
  (s.qpe.pkts.any fun p => p.qpn.toNat = n) || s.ops.any fun o => qpLaunched o && o.op = 6 && opQpn o = n

/-- A context is pinned: by sending, by parked packets, by a QPCTL from its post to its record (R63, R270). -/
def qpPinned (s : State) (n : Nat) : Bool :=
  qpSending s n || (s.qpe.parked.any fun p => p.1 = n) ||
  s.ops.any fun o => o.cls = 8 && o.op = 7 && o.phase ≠ .recorded && opQpn o = n

def qpResident (s : State) (n : Nat) : Bool := s.qpe.cached.contains n

/-- A context used: it is the most recent one. -/
def qpTouch (s : State) (n : Nat) : State :=
  { s with qpe := { s.qpe with cached := s.qpe.cached.filter (fun m => m ≠ n) ++ [n] } }

def ioWrite (s : State) (a : Nat) (b : List Byte) : State :=
  { s with cxd := { s.cxd with hostOut := s.cxd.hostOut ++ [.io (BitVec.ofNat 64 a) b] } }

/-- The address of a context's backing slot (R269). -/
def ctxSlot (s : State) (n : Nat) : Nat := s.qpe.base.toNat * 64 + 320 * n

/-- A context sealed for its slot in host memory, after a count of evictions (R269). -/
def sealedSlot (s : State) (n count : Nat) : List Byte :=
  let (ct, tag) := gcmEncrypt (leBytes 32 s.qpe.sealKey.toNat) (leBytes 4 n ++ leBytes 8 count) (leBytes 4 n)
    (leBytes 256 (qpNum n true (qpGet s n)))
  ct ++ tag ++ leBytes 8 count ++ List.replicate 40 0

/-- A context written to its backing slot (R269): unencrypted in protected rows; sealed in host memory, and counted. -/
def writeSlot (s : State) (n : Nat) : State :=
  if s.qpe.host then
    let k := tget 0 s.qpe.evicts n + 1
    ioWrite { s with qpe := { s.qpe with evicts := tset 0 s.qpe.evicts n k } } (ctxSlot s n) (sealedSlot s n k.toNat)
  else memWrite s (ctxSlot s n) (leBytes 320 (qpNum n true (qpGet s n)))

/-- The sealing key drawn at an attach (R269, R384): free values. DEDUCED (log entry 131): at the acceptance of the image. -/
def drawSealKey (s : State) : State :=
  let k := ((List.range 4).map fun i => (Config.freeWord (s.free + i)).toNat * 2 ^ (64 * i)).foldl (· + ·) 0
  { s with free := s.free + 4, qpe := { s.qpe with sealKey := BitVec.ofNat 256 k } }

/-- A context's fetch begins (R270, R271). -/
def qpStartFetch (s : State) (n : Nat) : State :=
  if s.qpe.fetching.any fun x => x.1 = n then s
  else { s with qpe := { s.qpe with fetching := s.qpe.fetching ++ [(n, s.clk.bell)] } }

/-- The contexts pinned by sending, resident or in their fetch (R270). -/
def sendingPairs (s : State) : List Nat :=
  (s.qpe.pkts.map (fun p => p.qpn.toNat) ++ (s.ops.filter fun o => qpLaunched o && o.op = 6).map opQpn).eraseDups

/-- A QPSEND may launch (R270, R276): not while its queue pair is SQD, nor while 896 contexts are pinned by sending, unless its own
is one of them and resident (log entry 130). -/
def qpCanLaunch (s : State) (o : Op) : Bool :=
  let n := opQpn o
  (qpGet s n).state.toNat ≠ Qs.sqd &&
  ((qpResident s n && qpSending s n) || decide ((sendingPairs s).length < 896))

/-! ## Host memory over CXL.io -/

/-- Bytes read from host memory: free values (log entry 37). -/
def ioRead (s : State) (n : Nat) : List Byte × State :=
  ((List.range n).map (Config.freeByte s.free), { s with free := s.free + 1 })

/-! ## Regions and page requests (R280) -/

/-- What a buffer range comes to. -/
inductive QpRange where
  | bad
  | absent (region page : Nat)
  | pieces (l : List (Bool × Nat × Nat))
  deriving DecidableEq, Repr

/-- A region's descriptor. -/
def regionDesc (s : State) (r : Nat) : Nat := memNum s (s.qpe.regBase.toNat * 4096 + 16 * r) 16

/-- A region may be used by a partition and holds a page. -/
def regionHas (s : State) (part : Part) (r page : Nat) : Bool :=
  let d := regionDesc s r
  bit d 0 && bf d 1 1 = part.val && decide (page ≤ bf d 50 20) && !poisoned s (s.qpe.regBase.toNat * 4096 + 16 * r) 16

/-- A region page table entry as memory holds it. -/
def regionPte (s : State) (r page : Nat) : Nat := memNum s (bf (regionDesc s r) 70 58 * 64 + 8 * page) 8

/-- A region page table entry: from the engine's cache, else from memory. -/
def regionEntry (s : State) (r page : Nat) : Nat :=
  match s.qpe.regionCache.find? fun x => x.1 = r && x.2.1 = page with
  | some x => x.2.2.toNat
  | none => regionPte s r page

/-- The pages of a range that begins at an offset of a region: page, offset in the page, bytes. -/
def regionSplit (off n : Nat) : List (Nat × Nat × Nat) :=
  if n = 0 then []
  else
    let p0 := off / 65536
    (List.range ((off + n - 1) / 65536 + 1 - p0)).map fun i =>
      let lo := max off ((p0 + i) * 65536)
      (p0 + i, lo % 65536, min (off + n) ((p0 + i + 1) * 65536) - lo)

/-- A buffer range translated: a device range as it is, a region's by its entries. -/
def qpRange (s : State) (part : Part) (reg : Bool) (addr moff n : Nat) : QpRange :=
  if !reg then .pieces [(false, addr + moff, n)]
  else
    let r := bf addr 40 8
    let ps := regionSplit (addr % 2 ^ 40 + moff) n
    if ps.any fun x => !regionHas s part r x.1 then .bad
    else match ps.find? fun x => !bit (regionEntry s r x.1) 0 with
      | some x => .absent r x.1
      | none => .pieces (ps.map fun (p, o, m) =>
          let e := regionEntry s r p
          (bit e 1, bf e 16 48 * 65536 + o, m))

/-- The entries of a range kept by the engine, at most 512, the oldest dropped. -/
def qpKeep (s : State) (reg : Bool) (addr moff n : Nat) : State :=
  if !reg then s
  else
    let r := bf addr 40 8
    (regionSplit (addr % 2 ^ 40 + moff) n).foldl (fun s x =>
      if s.qpe.regionCache.any fun y => y.1 = r && y.2.1 = x.1 then s
      else
        let l := s.qpe.regionCache ++ [(r, x.1, BitVec.ofNat 64 (regionPte s r x.1))]
        { s with qpe := { s.qpe with regionCache := l.drop (l.length - 512) } }) s

/-- A page-request record written; none where the partition's ring is full. -/
def pageRequest (s : State) (part : Part) (r page n : Nat) (send : Bool) : Option State :=
  let p := part.val
  let depth := (tget 4 s.qpe.prqDepth p).toNat
  let tail := tget 0 s.qpe.prqTail p
  if 2 ^ depth ≤ (tail - tget 0 s.qpe.prqHead p).toNat then none
  else
    let a := (tget 0 s.qpe.prqBase p).toNat * 64 + 16 * (tail.toNat % 2 ^ depth)
    let v := s.clk.bell.toNat * 2 ^ 64 + boolNat send * 2 ^ 42 + n * 2 ^ 28 + page * 2 ^ 8 + r
    let s := memWriteNum s a 16 v
    some { s with qpe := { s.qpe with prqTail := tset 0 s.qpe.prqTail p (tail + 1) } }

/-! ## Packets (R273, R274) -/

/-- The queue-pair header. -/
def qpHeader (psn msn moff mlm1 dqpn sqpn phase txc aux last : Nat) : Nat :=
  psn * 2 ^ 224 + msn * 2 ^ 200 + moff * 2 ^ 176 + mlm1 * 2 ^ 152 + dqpn * 2 ^ 138 + sqpn * 2 ^ 124 + phase * 2 ^ 123 +
  txc * 2 ^ 83 + aux * 2 ^ 19 + last * 2 ^ 18

def hPsn (h : Nat) : W32 := BitVec.ofNat 32 (bf h 224 32)
def hMsn (h : Nat) : BitVec 24 := BitVec.ofNat 24 (bf h 200 24)
def hMoff (h : Nat) : Nat := bf h 176 24
def hMlm1 (h : Nat) : Nat := bf h 152 24
def hDqpn (h : Nat) : Nat := bf h 138 14
def hSqpn (h : Nat) : Nat := bf h 124 14
def hPhase (h : Nat) : Nat := bf h 123 1
def hTxc (h : Nat) : Nat := bf h 83 40
def hAux (h : Nat) : Nat := bf h 19 64
def hLast (h : Nat) : Bool := bit h 18

/-- The header of a packet. -/
def qpHdr (k : Packet) : Nat := ofLe (k.data.take 32)

/-- The nonce of a packet. -/
def qpNonce (c : QpCtx) (phase txc : Nat) : List Byte := leBytes 4 (tget (0 : W32) c.salt phase).toNat ++ leBytes 8 txc

/-- The additional data of a packet. -/
def qpAad (h : Nat) (src dst : Node) (arg : Nat) : List Byte :=
  leBytes 32 h ++ leBytes 2 src.toNat ++ leBytes 2 dst.toNat ++ leBytes 8 arg

/-- The key of a slot, as bytes. -/
def qpKey (c : QpCtx) (phase : Nat) : List Byte := leBytes 32 (tget (0 : BitVec 256) c.key phase).toNat

/-- A slot's count may not reach 2^40: sending is held until a KEYFLIP (R274). -/
def qpWorn (c : QpCtx) : Bool := (tget (0 : BitVec 40) c.txc (boolNat c.sphase)).toNat = 2 ^ 40 - 1

/-- A packet of a queue pair sealed under the sending slot with a fresh count, with the state after it. -/
def qpSeal (s : State) (n kind : Nat) (psn msn moff mlm1 aux last : Nat) (data : List Byte) : Packet × State :=
  let c := qpGet s n
  let sl := boolNat c.sphase
  let t := (tget (0 : BitVec 40) c.txc sl).toNat
  let h := qpHeader psn msn moff mlm1 c.rqpn.toNat n sl t aux last
  let (ct, tag) := gcmEncrypt (qpKey c sl) (qpNonce c sl t) (qpAad h (ownNode s) c.rnode kind) data
  let body := leBytes 32 h ++ ct ++ tag
  let k : Packet := { dst := c.rnode, src := ownNode s, vc := 3, op := 0x0C, arg := BitVec.ofNat 64 kind,
                      tag := BitVec.ofNat 32 (c.tclass.toNat * 2 ^ 29 + t % 2 ^ 29), data := body, len := BitVec.ofNat 13 body.length }
  let s := qpSet s n { c with txc := tset 0 c.txc sl (BitVec.ofNat 40 (t + 1)) }
  (k, if t + 1 = 2 ^ 39 then raise s 0x13 c.part.val 0 n sl else s)

/-- Something that a worn slot holds until a KEYFLIP (R274). -/
def holdWorn (s : State) (n : Nat) (x : QpHeld) : State :=
  if s.qpe.worn.contains (n, x) then s else { s with qpe := { s.qpe with worn := s.qpe.worn ++ [(n, x)] } }

/-- A control packet sent; held while the slot is worn. -/
def qpSay (s : State) (n kind : Nat) (psn msn aux : Nat) : State :=
  if qpWorn (qpGet s n) then holdWorn s n (.control kind psn msn aux)
  else
    let (k, s) := qpSeal s n kind psn msn 0 0 aux 0 []
    sendPacket s { pkt := k, route := n }

/-! RNR causes (R273). -/
namespace Rnr
abbrev context : Nat := 0
abbrev noEntry : Nat := 1
abbrev page : Nat := 2
abbrev slow : Nat := 3
end Rnr

/-- An RNR that no key protects, for a packet (R271, R274). -/
def qpBareRnr (s : State) (k : Packet) (hint cause : Nat) : State :=
  let h := qpHdr k
  let g := qpHeader (hPsn h).toNat (hMsn h).toNat 0 0 (hSqpn h) (hDqpn h) (hPhase h) (hTxc h) (hint + cause * 2 ^ 8 + 2 ^ 10) 0
  let body := leBytes 32 g ++ List.replicate 16 0
  sendPacket s { pkt := { dst := k.src, src := ownNode s, vc := 3, op := 0x0C, arg := 2, tag := k.tag, data := body,
                          len := BitVec.ofNat 13 body.length }, route := hDqpn h }

/-- One RNR more, in the count of a context. -/
def qpCountRnr (s : State) (n : Nat) : State :=
  let c := qpGet s n
  qpSet s n { c with rnrsent := BitVec.ofNat 24 (satAdd 24 c.rnrsent.toNat 1) }

/-- An RNR under the queue pair's key, for a packet. -/
def qpRnrReply (s : State) (n : Nat) (k : Packet) (cause : Nat) : State :=
  let h := qpHdr k
  qpCountRnr (qpSay s n 2 (hPsn h).toNat (hMsn h).toNat (s.qpe.rnrHint.toNat + cause * 2 ^ 8)) n

/-- A failed tag (R274). -/
def qpAuthFail (s : State) (n : Nat) : State :=
  let c := qpGet s n
  let c := { c with authfail := BitVec.ofNat 32 (satAdd 32 c.authfail.toNat 1) }
  let s := qpSet s n c
  let s := { s with qpe := { s.qpe with authfail := BitVec.ofNat 64 (satAdd 64 s.qpe.authfail.toNat 1) } }
  let seen := fun x : Nat × Word => decide (x.1 = n) && decide (s.clk.bell.toNat < x.2.toNat + bellUs s 1000)
  let t := { s with qpe := { s.qpe with authSeen := tins n s.clk.bell (tdel s.qpe.authSeen n) } }
  cond (s.qpe.authSeen.any seen) s (raise t 0x12 c.part.val 0 n c.authfail.toNat)

/-- The data of a packet; none where its tag fails or its slot has no key. -/
def qpOpen (s : State) (n : Nat) (k : Packet) : Option (List Byte) :=
  let c := qpGet s n
  let h := qpHdr k
  let m := k.data.length
  let (pt, ok) := gcmDecrypt (qpKey c (hPhase h)) (qpNonce c (hPhase h) (hTxc h)) (qpAad h k.src k.dst k.arg.toNat)
    ((k.data.drop 32).take (m - 48)) (k.data.drop (m - 16))
  if ok && c.kvalid.toNat.testBit (hPhase h) then some pt else none

/-- An ACK sent (R277). -/
def qpAckNow (s : State) (n : Nat) : State :=
  let c := qpGet s n
  qpSay { s with qpe := { s.qpe with needAck := tset 0 s.qpe.needAck n 0 } } n 1 c.epsn.toNat 0 (c.rwin.toNat / 2 % 2 ^ 64)

/-- A context leaves the cache (R269, R270). An ACK that is due goes first, so that its count is in the slot (R274). -/
def qpEvict (s : State) (n : Nat) : State :=
  let s := if tget 0 s.qpe.needAck n = 0 then s else qpAckNow s n
  writeSlot { s with qpe := { s.qpe with cached := s.qpe.cached.filter fun m => m ≠ n } } n

/-- Room for one more context: the least recently used one that is not pinned goes (R270). -/
def qpRoom (s : State) : Option State :=
  if s.qpe.cached.length < 1024 then some s
  else (s.qpe.cached.find? fun n => !qpPinned s n).map fun n => qpEvict s n

/-! ## Buckets (R282) -/

/-- The signed overhead of a bucket added to the bytes of a packet: what the packet is charged. -/
def chargeOf (ovh : BitVec 12) (len : Nat) : Nat := (32 + (len : Int) + ovh.toInt).toNat

def shapeBurstOf (s : State) (i : Nat) : Nat := (tget (0x2000 : BitVec 24) s.qpe.shapeBurst i).toNat
def polBurstOf (s : State) (i : Nat) : Nat := (tget (0x2000 : BitVec 24) s.qpe.polBurst i).toNat

/-- A bell edge puts what was written in force and refills every bucket (R282, R285). -/
def refillBuckets (s : State) : State :=
  let up (rate burst : Nat → Nat) (t : Table Nat) : Table Nat :=
    (List.range 64).foldl (fun t i => tset 0 t i (min (tget 0 t i + rate i) (256 * burst i))) t
  { s with qpe := { s.qpe with
    shapeOvhOn := s.qpe.shapeOvh, polOvhOn := s.qpe.polOvh,
    shapeB := up (fun i => (tget 0 s.qpe.shapeRate i).toNat) (shapeBurstOf s) s.qpe.shapeB,
    polB := up (fun i => (tget 0 s.qpe.polRate i).toNat) (polBurstOf s) s.qpe.polB } }

end Sys2Proof.Machine
end

