-- ==== Sys2Proof/Machine/QueuePair.lean ====
section
/-! DEFINITION. Queue pairs: control, sending, receiving, paging on demand, the error state and the buckets (R266 to R285). -/
namespace Sys2Proof.Machine

/-! ## Receive entries (R278) -/

/-- Receive entries posted and not completed. -/
def qpPosted (c : QpCtx) : Nat := (c.rtail - c.rhead).toNat

/-- The address of the receive entry that lies i entries from rhead. -/
def rxAddr (c : QpCtx) (i : Nat) : Nat := c.rbase.toNat * 64 + 32 * ((c.rhead.toNat + i) % 2 ^ c.rdepth.toNat)

/-- A receive entry written back with the device's fields (R278). -/
def rxWrite (s : State) (c : QpCtx) (i : Nat) (e : BitVec 256) : State :=
  if c.rhost then ioWrite s (rxAddr c i) (leBytes 32 e.toNat) else memWrite s (rxAddr c i) (leBytes 32 e.toNat)

/-- An entry as software wrote it, read; none where the ring cannot be read. -/
def rxRead (s : State) (c : QpCtx) (i : Nat) : Option (BitVec 256) × State :=
  if c.rhost then let (b, s) := ioRead s 32; (some (BitVec.ofNat 256 (ofLe b)), s)
  else if poisoned s (rxAddr c i) 32 || !opMemOk s 1 c.part true (rxAddr c i) 32 then (none, s)
  else (some (BitVec.ofNat 256 (memNum s (rxAddr c i) 32)), s)

def rxFind (s : State) (n : Nat) (m : BitVec 24) : Option QpRx := s.qpe.rx.find? fun x => x.qpn.toNat = n && x.msn = m
def rxPut (s : State) (x : QpRx) : State :=
  { s with qpe := { s.qpe with rx := x :: s.qpe.rx.filter fun y => !(y.qpn = x.qpn && y.msn = x.msn) } }

/-- An entry completed: its status, done, message number and bytes written. -/
def rxComplete (s : State) (n i : Nat) (st : Byte) : State :=
  let c := qpGet s n
  let m := c.rmsn + BitVec.ofNat 24 i
  let known := rxFind s n m
  let (e, s) : BitVec 256 × State := match known with
    | some x => if x.mlm1.isSome then (x.entry, s) else let (e, s) := rxRead s c i; (e.getD 0, s)
    | none => let (e, s) := rxRead s c i; (e.getD 0, s)
  let x : QpRx := known.getD { qpn := BitVec.ofNat 14 n, msn := m }
  let e := setF (setF (setF (setF e 95 25 x.rcvd) 120 24 m.toNat) 144 8 st.toNat) 152 1 1
  rxPut (rxWrite s c i e) { x with entry := e, done := true }

/-- Completed entries leave the ring in its order (R278). -/
def rxAdvance (n : Nat) : Nat → State → State
  | 0, s => s
  | k + 1, s =>
    let c := qpGet s n
    match rxFind s n c.rmsn with
    | some x =>
      if x.done && qpPosted c ≠ 0 then
        let s := qpSet s n { c with rhead := c.rhead + 1, rmsn := c.rmsn + 1 }
        rxAdvance n k { s with qpe := { s.qpe with rx := s.qpe.rx.filter fun y => !(y.qpn = x.qpn && y.msn = x.msn) } }
      else s
    | none => s

/-- Cancelled messages whose entries have been posted are completed (R284). -/
def rxCancelled (s : State) (n : Nat) : State :=
  let c := qpGet s n
  let s := (List.range (qpPosted c)).foldl (fun s i =>
    match rxFind s n (c.rmsn + BitVec.ofNat 24 i) with
    | some x => if x.cancelled && !x.done then rxComplete s n i St.policed else s
    | none => s) s
  rxAdvance n 4096 s

/-! ## Error and flush (R281) -/

/-- The QPSENDs of a queue pair, queued or launched, end FLUSHED; one of them with a status of its own. -/
def flushSends (s : State) (n : Nat) (own : Option (Ticket × Byte)) : State :=
  let os := s.ops.filter fun o => o.cls = 8 && o.op = 6 && opQpn o = n &&
    (o.phase = .queued || o.phase = .launched || o.phase = .committed)
  let s := os.foldl (fun s o =>
    let st := match own with | some (t, x) => if t = o.ticket then x else St.flushed | none => St.flushed
    opEnd s o.ticket st (if o.phase = .committed then o.steps else 0)) s
  settle s 2

/-- What the engine holds of a queue pair dropped, but for its receive ring. -/
def dropSends (s : State) (n : Nat) : State :=
  { s with qpe := { s.qpe with
    pkts := s.qpe.pkts.filter (fun p => p.qpn.toNat ≠ n), msgs := s.qpe.msgs.filter (fun m => m.qpn.toNat ≠ n),
    parked := s.qpe.parked.filter (fun p => p.1 ≠ n),
    refused := s.qpe.refused.filter (fun m => m ≠ n), needAck := tset 0 s.qpe.needAck n 0,
    sendWait := s.qpe.sendWait.filter (fun x => x.1 ≠ n), shWait := s.qpe.shWait.filter (fun x => x.2.1 ≠ n) } }

/-- What the engine holds of a queue pair dropped, what a worn slot holds with it. -/
def dropQp (s : State) (n : Nat) : State :=
  let s := dropSends s n
  { s with qpe := { s.qpe with rx := s.qpe.rx.filter (fun x => x.qpn.toNat ≠ n), worn := s.qpe.worn.filter fun x => x.1 ≠ n } }

/-- The posted entries of a queue pair that are not done complete FLUSHED (R281). -/
def flushRing (s : State) (n : Nat) : State :=
  let c := qpGet s n
  let s := (List.range (qpPosted c)).foldl (fun s i =>
    if (rxFind s n (c.rmsn + BitVec.ofNat 24 i)).any fun x => x.done then s else rxComplete s n i St.flushed) s
  let c := qpGet s n
  let k := qpPosted c
  let s := qpSet s n { c with rhead := c.rtail, rmsn := c.rmsn + BitVec.ofNat 24 k }
  { s with qpe := { s.qpe with rx := s.qpe.rx.filter fun x => x.qpn.toNat ≠ n } }

/-- The receive ring of a queue pair in ERROR flushed; a context that is not resident is changed in its slot, one sealed in host memory when
it is fetched. -/
def flushError (s : State) (n : Nat) : State :=
  if (qpGet s n).state.toNat ≠ Qs.error then s
  else
    let s := flushRing s n
    if qpResident s n || s.qpe.host || poisoned s (ctxSlot s n) 320 then s else writeSlot s n

/-- A queue pair enters ERROR (R281): its sends are flushed at once, and its ring once no bank and no host's line holds the writes
up (R194, R296). -/
def qpError (s : State) (n : Nat) (cause : Byte) (own : Option Ticket) : State :=
  let s := dropSends (flushSends s n (own.map fun t => (t, cause))) n
  let c := qpGet s n
  let s := qpSet s n { c with state := 4, ecause := cause, oldout := 0 }
  withinWork (.qpRing (BitVec.ofNat 14 n)) (flushError · n) s

/-- The owner logical device of queue pairs is disabled (R281, R300). -/
def qpDisableLd (s : State) (ld : LdId) : State :=
  (s.qpe.ctxs.filter fun x => x.2.ld = ld && x.2.state.toNat ≠ 0 && x.2.state.toNat ≠ 4).foldl
    (fun s x => qpError s x.1 St.aborted none) s

/-- A partition's queue pairs set to RESET without packets (R281, R357). -/
def qpResetPart (s : State) (p : Part) : State :=
  (s.qpe.ctxs.filter fun x => x.2.part = p).foldl (fun s x =>
    let s := dropQp (qpSet s x.1 {}) x.1
    { s with qpe := { s.qpe with cached := s.qpe.cached.filter (fun m => m ≠ x.1),
                                 fetching := s.qpe.fetching.filter (fun y => y.1 ≠ x.1) } }) s

/-- Queue pairs to nodes that the live set excludes (R277). -/
def qpExcluded (s : State) : State :=
  (s.qpe.ctxs.filter fun x => x.2.state.toNat ≠ 0 && x.2.state.toNat ≠ 4 && excluded s x.2.rnode).foldl
    (fun s x => qpError s x.1 St.timeout none) s

/-! ## Sending (R276, R277, R283) -/

/-- The data of a packet charged to the shaper of its queue pair; none where its bucket holds too little. -/
def shapeCharge (s : State) (c : QpCtx) (bytes : Nat) : Option State :=
  if !c.shen then some s
  else
    let i := c.shaper.toNat
    let cost := 256 * chargeOf (tget 0 s.qpe.shapeOvhOn i) (48 + bytes)
    let b := tget 0 s.qpe.shapeB i
    if cost ≤ b then some { s with qpe := { s.qpe with shapeB := tset 0 s.qpe.shapeB i (b - cost) } } else none

/-- A packet must wait: an earlier one of its queue pair waits, or one on the same shaper (R283). -/
def shapeTurn (s : State) (c : QpCtx) (n : Nat) : Bool := s.qpe.shWait.any fun x => x.2.1 = n || (c.shen && x.1 = c.shaper.toNat)

/-- A packet that may go now, charged. -/
def shapeGo (s : State) (c : QpCtx) (n bytes : Nat) : Option State := if shapeTurn s c n then none else shapeCharge s c bytes

/-- Packets that wait on their shaper (R283). -/
def shapeWait (s : State) (c : QpCtx) (n : Nat) (psn : Option W32) (k : Nat) : State :=
  { s with qpe := { s.qpe with shWait := s.qpe.shWait ++ List.replicate k (c.shaper.toNat, n, psn) } }

/-- Unacknowledged packets sent under the slot that is not sphase (R267, R275). -/
def fixOldout (s : State) (n : Nat) : State :=
  let c := qpGet s n
  let k := s.qpe.pkts.countP fun p => p.qpn.toNat = n && p.used.toNat.testBit (boolNat !c.sphase)
  qpSet s n { c with oldout := BitVec.ofNat 16 k }

/-- A data packet put on its port, with a fresh count; its engine time is charged to the pair's share class (R267, R274, R276). -/
def qpTransmit (s : State) (p : QpPkt) : State :=
  let n := p.qpn.toNat
  let c := qpGet s n
  let t := tget 0 c.txc (boolNat c.sphase)
  let last := boolNat (decide (p.moff + p.data.length = p.mlm1 + 1))
  let (k, s) := qpSeal s n 0 p.psn.toNat p.msn.toNat p.moff p.mlm1 0 last p.data
  let ups := upPorts s
  let p := { p with port := ups[p.route % ups.length]?, txc := t, used := p.used ||| BitVec.ofNat 2 (2 ^ boolNat c.sphase), hold := 0 }
  let c := qpGet s n
  let s := qpSet s n { c with txpkts := BitVec.ofNat 48 (satAdd 48 c.txpkts.toNat 1) }
  let s := { s with qpe := { s.qpe with pkts := s.qpe.pkts.filter (fun q => !(q.qpn = p.qpn && q.psn = p.psn)) ++ [p] } }
  sendPacket (chargeWork (fixOldout s n) c.part c.share) { pkt := k, route := p.route }

/-- The number of a send in the order of launches. -/
def sendNo (s : State) (t : Ticket) : Nat := ((opGet s t).map fun o => o.launchNo).getD 0

/-- A send of the queue pair that launched before another has not had its source translated (R276). -/
def sendAhead (s : State) (n : Nat) (t : Ticket) : Bool :=
  s.ops.any fun o => o.cls = 8 && o.op = 6 && opQpn o = n && o.phase = .launched && decide (o.launchNo < sendNo s t) &&
    !s.qpe.msgs.any fun m => m.ticket = o.ticket

/-- The messages of a queue pair with bytes left that launched before every untranslated one: they send in that order. -/
def readyMsgs (s : State) (n : Nat) : List QpMsg :=
  s.qpe.msgs.filter fun m => m.qpn.toNat = n && decide (m.next < m.data.length) && !sendAhead s n m.ticket

/-- The message that sends next. -/
def nextMsg (s : State) (n : Nat) : Option QpMsg := (readyMsgs s n).head?

/-- The window of 256 PSNs and the count of the slot admit a packet (R274, R276). -/
def qpMaySend (s : State) (n : Nat) : Bool :=
  let c := qpGet s n
  (c.state.toNat = Qs.ready || c.state.toNat = Qs.sqd) && decide ((c.spsn - c.una).toNat < 256) && !qpWorn c

/-- The next packet of a message sent (R276): with its first packet the message takes its number and its QPSEND commits. -/
def sendNew (s : State) (n : Nat) (m : QpMsg) : State :=
  let c := qpGet s n
  let num := m.msn.getD c.smsn
  let s := if m.msn.isNone then opUpd (qpSet s n { c with smsn := c.smsn + 1 }) m.ticket fun o => { o with phase := .committed } else s
  let d := (m.data.drop m.next).take 4032
  let s := { s with qpe := { s.qpe with
    msgs := updFirst (fun x => x.ticket = m.ticket) (fun x => { x with msn := some num, next := m.next + d.length }) s.qpe.msgs } }
  let c := qpGet s n
  let k := tget 0 s.qpe.sent n
  let s := qpSet { s with qpe := { s.qpe with sent := tset 0 s.qpe.sent n (k + 1) } } n { c with spsn := c.spsn + 1 }
  qpTransmit s { qpn := BitVec.ofNat 14 n, psn := c.spsn, msn := num, moff := m.next, mlm1 := m.data.length - 1, data := d, route := n + k }

/-- The new packets of a queue pair that the window lets go. -/
def readyPackets (s : State) (n : Nat) : Nat :=
  let c := qpGet s n
  min (256 - (c.spsn - c.una).toNat) (((readyMsgs s n).map fun m => ceilDiv (m.data.length - m.next) 4032).foldl (· + ·) 0)

/-- Every new packet that is ready waits on the shaper, in the order in which they became so (R283). -/
def joinShaper (s : State) (n : Nat) : State :=
  shapeWait s (qpGet s n) n none (readyPackets s n - s.qpe.shWait.countP fun x => x.2.1 = n && x.2.2.isNone)

/-- New packets of a queue pair sent while it may; one that its shaper holds waits, and so do the later ones. -/
def qpPump (n : Nat) : Nat → State → State
  | 0, s => s
  | k + 1, s =>
    if !qpMaySend s n then s
    else match nextMsg s n with
      | none => s
      | some m =>
        match shapeGo s (qpGet s n) n (min 4032 (m.data.length - m.next)) with
        | some s => qpPump n k (sendNew s n m)
        | none => joinShaper s n

def qpGo (s : State) (n : Nat) : State := qpPump n 256 s

def qpsendLen (o : Op) : Nat := bodyF o 296 24 + 1
def qpsendReg (o : Op) : Bool := o.body.toNat.testBit 281

def namedQpsend (_ : State) (o : Op) : Named := if qpsendReg o then [] else [(false, bodyF o 320 64, qpsendLen o)]

/-- The bytes of a translated range. -/
def gather (s : State) (l : List (Bool × Nat × Nat)) : List Byte × State :=
  l.foldl (fun (bs, s) (host, a, n) =>
    if host then let (b, s) := ioRead s n; (bs ++ b, s) else (bs ++ memRead s a n, s)) ([], s)

/-- A send that ends unsent: those behind it may go. -/
def sendEnd (s : State) (o : Op) (st : Byte) : State := qpGo (opEnd s o.ticket st 0) (opQpn o)

/-- A source translated: the message waits to be sent (R276); the poison of a source ends it. -/
def qpQueueMsg (s : State) (o : Op) (l : List (Bool × Nat × Nat)) : State :=
  let n := opQpn o
  if l.any fun (host, a, m) => !host && !opMemOk s o.level.toNat o.ctxPart false a m then sendEnd s o St.protect
  else if l.any fun (host, a, m) => !host && poisoned s a m then sendEnd s o St.poison
  else
    let s := qpKeep s (qpsendReg o) (bodyF o 320 64) 0 (qpsendLen o)
    let (d, s) := gather s l
    let s := opUpd s o.ticket fun x => { x with steps := min (ceilDiv (qpsendLen o) 65536 + 1) 0xFFFF }
    let before := fun m : QpMsg => decide (sendNo s m.ticket < o.launchNo)
    let s := { s with qpe := { s.qpe with
      msgs := s.qpe.msgs.takeWhile before ++ { qpn := BitVec.ofNat 14 n, ticket := o.ticket, data := d } :: s.qpe.msgs.dropWhile before } }
    qpGo s n

/-- A launched QPSEND (R276). -/
def qpsendRun (o : Op) (s : State) : State :=
  let n := opQpn o
  let c := qpGet s n
  if s.qpe.msgs.any (fun m => m.ticket = o.ticket) || s.qpe.sendWait.any (fun x => x.2.1 = o.ticket) then s
  else if !holdsQp s o.ctxPart n || c.state.toNat ≤ 1 then sendEnd s o St.protect
  else if c.state.toNat = Qs.error then opEnd s o.ticket St.flushed 0
  else if !qpResident s n then qpStartFetch s n
  else
    let s := qpTouch s n
    match qpRange s o.ctxPart (qpsendReg o) (bodyF o 320 64) 0 (qpsendLen o) with
    | .bad => sendEnd s o St.protect
    | .absent r p =>
      (match pageRequest s o.ctxPart r p n true with
      | some s => { s with qpe := { s.qpe with sendWait := s.qpe.sendWait ++ [(n, o.ticket, r, p, s.clk.bell)] } }
      | none => sendEnd s o St.protect)
    | .pieces l => qpQueueMsg s o l

/-- QPSEND (R276). -/
def execQpsend (p : Posted) (s : State) : Res := posted 1 false namedQpsend 8 6 p (qpsendRun) s

/-- A QPSEND aborted before its first packet (R281): its message is not sent, and those behind it may go. -/
def qpsendAbort (s : State) (t : Ticket) : State :=
  let s := { s with qpe := { s.qpe with msgs := s.qpe.msgs.filter (fun m => m.ticket ≠ t),
                                        sendWait := s.qpe.sendWait.filter fun x => x.2.1 ≠ t } }
  match opGet s t with
  | some o => qpGo (opUpd s t fun o => { o with phase := .ended }) (opQpn o)
  | none => s

/-- Messages whose every packet is acknowledged: their QPSENDs complete (R276). -/
def msgsDone (s : State) (n : Nat) : State :=
  let ds := s.qpe.msgs.filter fun m => m.qpn.toNat = n && m.next = m.data.length &&
    !(s.qpe.pkts.any fun p => p.qpn = m.qpn && m.msn = some p.msn)
  let s := { s with qpe := { s.qpe with msgs := s.qpe.msgs.filter fun m => !ds.contains m } }
  ds.foldl (fun s m => opUpd s m.ticket fun o => { o with phase := .ended, status := St.complete }) s

/-- An ACK's psn and aux acknowledge a packet. -/
def ackCovers (una psn : W32) (aux : Nat) (p : W32) : Bool :=
  let e := if newer 32 psn.toNat una.toNat then psn else una
  newer 32 e.toNat p.toNat || (let d := (p - psn).toNat; decide (1 ≤ d) && decide (d ≤ 64) && aux.testBit (d - 1))

/-- An acknowledgement taken (R277). -/
def qpAcked (s : State) (n : Nat) (psn : W32) (aux : Nat) : State :=
  let c := qpGet s n
  if newer 32 psn.toNat c.spsn.toNat then s
  else
    let gone := s.qpe.pkts.filter fun p => p.qpn.toNat = n && ackCovers c.una psn aux p.psn
    let s := gone.foldl (fun s p =>
      match s.qpe.msgs.find? fun m => m.qpn = p.qpn && m.msn = some p.msn with
      | some m => (match opGet s m.ticket with | some o => addBytes s o p.data.length | none => s)
      | none => s) s
    let s := { s with qpe := { s.qpe with
      pkts := s.qpe.pkts.filter (fun p => !gone.contains p),
      shWait := s.qpe.shWait.filter fun x => !(x.2.1 = n && gone.any fun p => x.2.2 = some p.psn) } }
    let c := if newer 32 psn.toNat c.una.toNat then { c with una := psn, rcnt := 0, rnrcnt := 0 } else c
    qpGo (msgsDone (fixOldout (qpSet s n c) n) n) n

/-- The operation whose message a packet belongs to. -/
def pktOwner (s : State) (n : Nat) (m : BitVec 24) : Option Ticket :=
  (s.qpe.msgs.find? fun x => x.qpn.toNat = n && x.msn = some m).map fun x => x.ticket

/-- A packet with its next port: of the up ports, the one after the one last used for it (R276). -/
def nextRoute (s : State) (p : QpPkt) : QpPkt :=
  let ups := upPorts s
  match p.port with
  | none => { p with route := p.route + 1 }
  | some k => { p with route := ((List.range ups.length).find? fun i => decide (k < ups.getD i 0)).getD 0 }

/-- A packet sent again, on the port after the one last used, when its slot and its shaper let it (R274, R276, R277, R283). -/
def qpResend (s : State) (n : Nat) (p : QpPkt) : State :=
  let c := qpGet s n
  if qpWorn c then holdWorn s n (.again p.psn)
  else if s.qpe.shWait.any fun x => x.2.1 = n && x.2.2 = some p.psn then s
  else match shapeGo s c n p.data.length with
    | some s => qpTransmit s (nextRoute s p)
    | none => shapeWait s c n (some p.psn) 1

/-- The packet of a PSN sent again, where it is still unacknowledged. -/
def resendPsn (s : State) (n : Nat) (psn : W32) : State :=
  match s.qpe.pkts.find? fun p => p.qpn.toNat = n && p.psn = psn with
  | some p => qpResend s n p
  | none => s

/-- What a worn slot held goes out under the slot that sends now (R274). -/
def unholdWorn (s : State) (n : Nat) : State :=
  let hs := (s.qpe.worn.filter fun x => x.1 = n).map fun x => x.2
  hs.foldl (fun s h => match h with
    | .control kind psn msn aux => qpSay s n kind psn msn aux
    | .again psn => resendPsn s n psn) { s with qpe := { s.qpe with worn := s.qpe.worn.filter fun x => x.1 ≠ n } }

/-- The packets of a queue pair that wait on a shaper offered anew, its shaper having been changed (R268, R283). -/
def rejoinShaper (s : State) (n : Nat) : State :=
  let ws := s.qpe.shWait.filter fun x => x.2.1 = n
  qpGo (ws.foldl (fun s x => match x.2.2 with | some psn => resendPsn s n psn | none => s)
    { s with qpe := { s.qpe with shWait := s.qpe.shWait.filter fun x => x.2.1 ≠ n } }) n

/-- QP_RETRANSMIT_TIMEOUT (R277). -/
def execQpRetransmitTimeout (q : Qpn) (psn : W32) (s : State) : Res :=
  let n := q.toNat
  let c := qpGet s n
  match s.qpe.pkts.find? fun p => p.qpn = q && p.psn = psn with
  | none => .next s
  | some p =>
    .next (if s.phase ≠ .running then s
      else if c.rlimit.toNat < c.rcnt.toNat + 1 then qpError s n St.timeout (pktOwner s n p.msn)
      else qpResend (qpSet s n { c with rcnt := c.rcnt + 1 }) n p)

/-- SHAPER_RELEASE (R283): the packet that waits first on a shaper, when its bucket holds enough. -/
def execShaperRelease (i : Fin 64) (s : State) : Res :=
  match s.qpe.shWait.find? fun x => x.1 = i.val with
  | none => .next s
  | some w =>
    let n := w.2.1
    let c := qpGet s n
    let rest (s : State) : State := { s with qpe := { s.qpe with shWait := s.qpe.shWait.erase w } }
    .next (if s.phase ≠ .running then s
      else match w.2.2 with
        | some psn =>
          (match s.qpe.pkts.find? fun p => p.qpn.toNat = n && p.psn = psn with
          | none => rest s
          | some p => if qpWorn c then holdWorn (rest s) n (.again psn) else (match shapeCharge s c p.data.length with
            | some s => qpGo (qpTransmit (rest s) (nextRoute s p)) n
            | none => s))
        | none =>
          if !qpMaySend s n then rest s
          else match nextMsg s n with
            | none => rest s
            | some m => (match shapeCharge s c (min 4032 (m.data.length - m.next)) with
              | some s => qpGo (sendNew (rest s) n m) n
              | none => s))

/-! ## The share of a traffic class in the waiting room (R271, R272) -/

/-- Units of 256 bytes that a parked packet takes. -/
def parkUnits (k : Packet) : Nat := ceilDiv (32 + k.data.length) 256

/-- The traffic class of an arriving packet. -/
def pktClass (k : Packet) : Nat := k.tag.toNat / 2 ^ 29

/-- The share of a class holds one more packet. -/
def parkFits (s : State) (k : Packet) : Bool :=
  let c := pktClass k
  let used := ((s.qpe.parked.filter fun p => pktClass p.2.2 = c).map fun p => parkUnits p.2.2).foldl (· + ·) 0
  decide (used + parkUnits k ≤ bf s.qpe.wroom.toNat (8 * c) 8 * 256)

/-- Whole microseconds left of the 40 that a fetch is given, at least 1 (R280). -/
def fetchLeft (s : State) (n : Nat) : Nat :=
  match s.qpe.fetching.find? fun x => x.1 = n with
  | some (_, b) => max 1 (40 - ceilDiv ((s.clk.bell - b).toNat * s.clk.div.toNat) 400)
  | none => 1

/-- A packet refused: it is answered with RNR, and the later ones are refused too (R271, R272). -/
def qpTurnAway (s : State) (n : Nat) (k : Packet) (hint cause : Nat) : State :=
  let s := { s with qpe := { s.qpe with refused := insNat n s.qpe.refused } }
  if cause = Rnr.page || cause = Rnr.noEntry then qpRnrReply s n k cause
  else qpCountRnr (qpBareRnr s k hint cause) n

/-! ## Receiving (R277 to R279, R284) -/

/-- A DATA packet to be acknowledged: at the sixteenth an ACK goes at once. -/
def qpNoteAck (s : State) (n : Nat) : State :=
  let k := tget 0 s.qpe.needAck n + 1
  let s := { s with qpe := { s.qpe with needAck := tset 0 s.qpe.needAck n k } }
  if 16 ≤ k then qpAckNow s n else s

/-- QP_ACK_TIMER (R277). -/
def execQpAckTimer (q : Qpn) (s : State) : Res :=
  whenOk (s.phase = .running && tget 0 s.qpe.needAck q.toNat ≠ 0) (qpAckNow s q.toNat) s

/-- Trailing ones of a window, at most k. -/
def onesOf (w : Nat) : Nat → Nat
  | 0 => 0
  | k + 1 => if w.testBit 0 then onesOf (w / 2) k + 1 else 0

/-- A PSN accepted: its bit set, epsn past every PSN accepted in a row (R267). -/
def qpAccept (s : State) (n d : Nat) : State :=
  let c := qpGet s n
  let w := c.rwin.toNat ||| 2 ^ d
  let k := onesOf w 256
  qpSet s n { c with rwin := BitVec.ofNat 256 (w / 2 ^ k), epsn := c.epsn + BitVec.ofNat 32 k,
                     rxpkts := BitVec.ofNat 48 (satAdd 48 c.rxpkts.toNat 1) }

/-- Fields of a receive entry. -/
def eAddr (e : BitVec 256) : Nat := getF e 192 64
def eCap (e : BitVec 256) : Nat := getF e 167 25
def eReg (e : BitVec 256) : Bool := e.toNat.testBit 153

/-- A packet does not fit its message (R279 step 5). -/
def malformed (x : QpRx) (h n : Nat) : Bool :=
  let len := hMlm1 h + 1
  (x.mlm1.any fun m => m ≠ hMlm1 h) || decide (eCap x.entry < len) || decide (len < hMoff h + n) ||
  (hLast h != decide (hMoff h + n = len))

/-- The policer of a queue pair accepts a packet; else it counts the drop (R284). -/
def police (s : State) (c : QpCtx) (len : Nat) : Bool × State :=
  if !c.pen then (true, s)
  else
    let i := c.policer.toNat
    let cost := 256 * chargeOf (tget 0 s.qpe.polOvhOn i) len
    let b := tget 0 s.qpe.polB i
    if cost ≤ b then (true, { s with qpe := { s.qpe with polB := tset 0 s.qpe.polB i (b - cost) } })
    else (false, { s with qpe := { s.qpe with
      pdrop := tset 0 s.qpe.pdrop i (BitVec.ofNat 64 (satAdd 64 (tget 0 s.qpe.pdrop i).toNat 1)) } })

/-- Data written to the pieces of a translated range. -/
def scatter (s : State) : List (Bool × Nat × Nat) → List Byte → State
  | [], _ => s
  | (host, a, n) :: r, d =>
    scatter (if host then ioWrite s a (d.take n) else memWrite s a (d.take n)) r (d.drop n)

/-- A NAK sent for a packet. -/
def qpNakReply (s : State) (n h : Nat) (st : Byte) : State := qpSay s n 3 (hPsn h).toNat (hMsn h).toNat st.toNat

/-- A refused packet: NAK PROTECT, then ERROR (R279, R281). -/
def qpRefuse (s : State) (n h : Nat) : State := qpError (qpNakReply s n h St.protect) n St.protect none

/-- A message complete in its last byte (R279): its entry, its tally, its ACK. -/
def qpMessageDone (s : State) (n i : Nat) (x : QpRx) : State :=
  let s := rxComplete s n i St.complete
  let s := if x.entry.toNat.testBit 154 then tallyAdd s (getF x.entry 155 12) x.rcvd else s
  qpAckNow (rxAdvance n 4096 s) n

/-- Data written and counted (R279 steps 6 and 7), the engine time charged (R267). -/
def qpDeliver (s : State) (n i d h : Nat) (x : QpRx) (l : List (Bool × Nat × Nat)) (data : List Byte) : State :=
  let c := qpGet s n
  if l.any fun (host, a, m) => !host && decide (0 < m) && !opMemOk s 1 c.part true a m then qpRefuse s n h
  else
    let s := qpAccept (scatter (qpKeep (chargeWork s c.part c.share) (eReg x.entry) (eAddr x.entry) (hMoff h) data.length) l data) n d
    let x := { x with mlm1 := some (hMlm1 h), rcvd := x.rcvd + data.length }
    let e := setF x.entry 95 25 x.rcvd
    let x := { x with entry := e }
    if x.rcvd = hMlm1 h + 1 then qpMessageDone (rxPut s x) n i x
    else
      let s := rxWrite (rxPut s x) (qpGet s n) i e
      qpNoteAck s n

/-- A packet of a message whose entry is known: its page, its policer, its form, its data. -/
def qpToEntry (s : State) (n i d : Nat) (k : Packet) (x : QpRx) (data : List Byte) : State :=
  let c := qpGet s n
  let h := qpHdr k
  let bad := malformed x h data.length
  let range := if bad then .pieces [] else qpRange s c.part (eReg x.entry) (eAddr x.entry) (hMoff h) data.length
  match range with
  | .absent r p =>
    (match pageRequest s c.part r p n false with
    | some s =>
      if parkFits s k then { s with qpe := { s.qpe with parked := s.qpe.parked ++ [(n, .page r p s.clk.bell, k)] } }
      else qpTurnAway s n k 0 Rnr.page
    | none => qpTurnAway s n k 0 Rnr.page)
  | .bad => qpRefuse s n h
  | .pieces l =>
    let (ok, s) := police s c k.data.length
    if !ok then qpNakReply s n h St.policed
    else if bad then qpRefuse s n h
    else qpDeliver s n i d h x l data

/-- A DATA packet whose tag is verified (R279). -/
def qpDataIn (s : State) (n : Nat) (k : Packet) (data : List Byte) : State :=
  let c := qpGet s n
  let h := qpHdr k
  let d := (hPsn h - c.epsn).toNat
  if c.state.toNat = Qs.error then qpNakReply s n h St.flushed
  else if 2 ^ 31 < d || (decide (d < 256) && c.rwin.toNat.testBit d) then qpNoteAck s n
  else if 256 ≤ d then s
  else
    let i := (hMsn h - c.rmsn).toNat
    match rxFind s n (hMsn h) with
    | some x =>
      if x.done || x.cancelled then qpNoteAck (qpAccept s n d) n
      else qpToEntry s n i d k x data
    | none =>
      if 2 ^ 23 < i then qpNoteAck (qpAccept s n d) n
      else if qpPosted c ≤ i then qpTurnAway s n k 0 Rnr.noEntry
      else match rxRead s c i with
        | (none, s) => qpRefuse s n h
        | (some e, s) => qpToEntry s n i d k { qpn := BitVec.ofNat 14 n, msn := hMsn h, entry := e } data

/-- A message's QPSEND ends POLICED: nothing more of it is sent, and CANCEL goes (R284). -/
def qpPoliced (s : State) (n : Nat) (psn : W32) : State :=
  match s.qpe.pkts.find? fun p => p.qpn.toNat = n && p.psn = psn with
  | none => s
  | some p =>
    match pktOwner s n p.msn with
    | none => s
    | some t =>
      let s := { s with qpe := { s.qpe with msgs := s.qpe.msgs.filter fun m => m.ticket ≠ t } }
      let s := opUpd s t fun o => { o with phase := .ended, status := St.policed }
      qpGo (qpSay s n 4 0 p.msn.toNat 0) n

/-- A NAK taken (R281, R284; log entry 39): one with a reserved status is malformed, and the pair ends with PROTECT (R8). -/
def qpNakIn (s : State) (n h : Nat) : State :=
  let st : Byte := if hAux h % 256 ≤ 11 then BitVec.ofNat 8 (hAux h) else St.protect
  if (qpGet s n).state.toNat = Qs.error then s
  else if st = St.policed then qpPoliced s n (hPsn h)
  else qpError s n st none

/-- A CANCEL taken (R284). -/
def qpCancelIn (s : State) (n h : Nat) : State :=
  let c := qpGet s n
  let i := (hMsn h - c.rmsn).toNat
  if c.state.toNat = Qs.error || 2 ^ 23 < i then s
  else
    let x := (rxFind s n (hMsn h)).getD { qpn := BitVec.ofNat 14 n, msn := hMsn h }
    if x.done then s else rxCancelled (rxPut s { x with cancelled := true }) n

/-- An accepted RNR (R277). -/
def qpRnrIn (s : State) (n h : Nat) : State :=
  match s.qpe.pkts.find? fun p => p.qpn.toNat = n && p.psn = hPsn h with
  | none => s
  | some p =>
    let c := qpGet s n
    let c := { c with rnrrecv := BitVec.ofNat 24 (satAdd 24 c.rnrrecv.toNat 1) }
    if c.rnrlimit.toNat < 7 && decide (c.rnrlimit.toNat < c.rnrcnt.toNat + 1) then
      qpError (qpSet s n c) n St.timeout (pktOwner s n p.msn)
    else
      let s := qpSet s n { c with rnrcnt := BitVec.ofNat 3 (min 7 (c.rnrcnt.toNat + 1)) }
      { s with qpe := { s.qpe with
        pkts := updFirst (fun q => q.qpn = p.qpn && q.psn = p.psn) (fun q => { q with hold := BitVec.ofNat 8 (hAux h) }) s.qpe.pkts } }

/-- An RNR that no key protects: of cause CONTEXT or SLOW (R274). -/
def bareRnr (h : Nat) : Bool := bit (hAux h) 10 && (bf (hAux h) 8 2 = Rnr.context || bf (hAux h) 8 2 = Rnr.slow)

/-- The RNR of a receiver that held no key: it must match a packet outstanding (R274). -/
def bareRnrOk (s : State) (n h : Nat) : Bool :=
  s.qpe.pkts.any fun p => p.qpn.toNat = n && p.psn = hPsn h && p.txc.toNat = hTxc h

/-- A packet at a resident context, by kind. -/
def qpProcess (s : State) (n : Nat) (k : Packet) : State :=
  let h := qpHdr k
  let kind := k.arg.toNat % 16
  let s := qpTouch s n
  if kind = 2 && bareRnr h then (if bareRnrOk s n h then qpRnrIn s n h else s)
  else match qpOpen s n k with
    | none => qpAuthFail s n
    | some data =>
      if kind = 0 then qpDataIn s n k data
      else if kind = 1 then qpAcked s n (hPsn h) (hAux h)
      else if kind = 2 then qpRnrIn s n h
      else if kind = 3 then qpNakIn s n h
      else qpCancelIn s n h

/-! ## Arrivals and the waiting room (R271, R272) -/

/-- A packet parked, or refused where its share is full or an earlier one was refused. -/
def qpPark (s : State) (n : Nat) (k : Packet) : State :=
  if s.qpe.refused.contains n || !parkFits s k then
    (if qpResident s n then qpTurnAway s n k 0 Rnr.page else qpTurnAway s n k (fetchLeft s n) Rnr.context)
  else { s with qpe := { s.qpe with parked := s.qpe.parked ++ [(n, if qpResident s n then .behind else .context, k)] } }

/-- A packet arrives at the engine (R271, R272). -/
def qpArrive (k : Packet) (s : State) : State :=
  let n := hDqpn (qpHdr k)
  if k.data.length < 48 || bf (qpHdr k) 0 18 ≠ 0 || 5 ≤ k.arg.toNat then dropPacket s
  else if (qpGet s n).state = 0 then s
  else if !qpResident s n then qpPark (qpStartFetch s n) n k
  else if s.qpe.parked.any fun p => p.1 = n then qpPark s n k
  else qpProcess { s with qpe := { s.qpe with refused := s.qpe.refused.filter fun m => m ≠ n } } n k

/-- A packet of a queue pair that waits for a bank or a recall. -/
def waitsFor (n : Nat) : BankWait → Bool
  | .packet j => j.op = 0x0C && hDqpn (qpHdr j) = n
  | _ => false

/-- An earlier packet of the queue pair of a packet waits for a bank or a recall. -/
def heldBefore (s : State) (k : Packet) : Bool := s.mem.waiting.any (waitsFor (hDqpn (qpHdr k)))

/-- A packet's work done in its turn: it waits where a bank, a named row or hosts' lines hold up what it writes, or an earlier packet
of its queue pair (R194, R272, R296). A receive ring in lines that the device may not recall is refused as its reads are (`opMemOk`); what
another effect of the packet would write there is left out (R288). -/
def qpInTurn (k : Packet) (f : State → State) (s : State) : State :=
  if heldBefore s k then holdPacket s k
  else responseOrHold k f (fun s => let t := f { s with mem := { s.mem with access := some [] } }; noAccess (keepBlocked s t (accesses t []))) s

/-- The parked packets of a queue pair processed in their order, until one must wait again or the pair leaves its state; after one that is
refused the later ones are refused, and a refusal from before holds until all are processed (R272). -/
def qpDrain (n : Nat) : List (Nat × ParkCause × Packet) → State → State
  | [], s => if s.mem.waiting.any (waitsFor n) then s else { s with qpe := { s.qpe with refused := s.qpe.refused.filter fun m => m ≠ n } }
  | p :: r, s =>
    let (was, no) := ((qpGet s n).state, s.qpe.refused.contains n)
    let s := qpInTurn p.2.2 (fun s => qpProcess { s with qpe := { s.qpe with refused := s.qpe.refused.filter fun m => m ≠ n } } n p.2.2) s
    if (qpGet s n).state ≠ was then s
    else if s.qpe.refused.contains n && !s.mem.waiting.any (waitsFor n) then
      let s := r.foldl (fun s p => qpTurnAway s n p.2.2 0 Rnr.page) s
      { s with qpe := { s.qpe with refused := s.qpe.refused.filter fun m => m ≠ n } }
    else if s.qpe.parked.any fun p => p.1 = n then
      { s with qpe := { s.qpe with parked := s.qpe.parked ++ r.map fun p => (n, .behind, p.2.2),
                                   refused := if no then insNat n s.qpe.refused else s.qpe.refused } }
    else qpDrain n r { s with qpe := { s.qpe with refused := if no then insNat n s.qpe.refused else s.qpe.refused } }

/-- The parked packets of a queue pair processed. -/
def qpUnpark (s : State) (n : Nat) : State :=
  let ks := s.qpe.parked.filter fun p => p.1 = n
  qpDrain n ks { s with qpe := { s.qpe with parked := s.qpe.parked.filter fun p => p.1 ≠ n } }

/-- A queue-pair packet comes in under the command of its kind; a reserved kind under QP_DATA. -/
def qpInbound (kind : Nat) (k : Packet) (s : State) : State :=
  let x := k.arg.toNat % 16
  if (if 5 ≤ x then 0 else x) ≠ kind then s else inbound 0x0C k (qpInTurn k (qpArrive k)) s

/-- QP_DATA (R271, R274, R279, R284). -/
def execQpData (k : Packet) (s : State) : Res := .next (qpInbound 0 k s)

/-- QP_ACK (R277). -/
def execQpAck (k : Packet) (s : State) : Res := .next (qpInbound 1 k s)

/-- QP_RNR (R274, R277). -/
def execQpRnr (k : Packet) (s : State) : Res := .next (qpInbound 2 k s)

/-- QP_NAK (R281, R284). -/
def execQpNak (k : Packet) (s : State) : Res := .next (qpInbound 3 k s)

/-- QP_CANCEL (R284). -/
def execQpCancel (k : Packet) (s : State) : Res := .next (qpInbound 4 k s)

/-- A context as its fetch brings it: from its slot in protected rows, with the RNRs sent meanwhile; from host memory what the slot's bytes, as
CXL.io gave them, hold, where their tag verifies and their count is that of the last eviction (R269, R274), with what an ERROR has changed
since. None where the seal fails or the slot is poisoned. -/
def fetchedCtx (s : State) (n : Nat) (slot : List Byte) : Option QpCtx :=
  let was := qpGet s n
  if s.qpe.host then
    let count := (slot.drop 272).take 8
    let (pt, ok) := gcmDecrypt (leBytes 32 s.qpe.sealKey.toNat) (leBytes 4 n ++ count) (leBytes 4 n) (slot.take 256) ((slot.drop 256).take 16)
    if ok && ofLe count = (tget 0 s.qpe.evicts n).toNat then
      let c := { qpParse (ofLe pt) with rnrsent := was.rnrsent }
      some (if was.state.toNat = Qs.error then
        { c with state := was.state, ecause := was.ecause, oldout := was.oldout, rhead := was.rhead, rmsn := was.rmsn } else c)
    else none
  else if poisoned s (ctxSlot s n) 320 then none
  else some { qpParse (memNum s (ctxSlot s n) 256) with rnrsent := was.rnrsent }

/-- QP_CONTEXT_FETCHED (R269, R270): a context whose seal fails, or whose slot is poisoned, is as in RESET. The write of the context that
makes room waits as any of the device's (R194, R296). -/
def execQpContextFetched (q : Qpn) (slot : List Byte) (s : State) : Res :=
  let n := q.toNat
  if !(s.phase = .running && s.qpe.fetching.any fun x => x.1 = n) || s.mem.works.contains (.qpRing q) || (qpRoom s).isNone then .next s
  else
    let s := tryWork true (.qpFetch q slot) [] (fun s => (qpRoom s).getD s) s
    if s.mem.works.contains (.qpFetch q slot) then .next s
    else
      let s := { s with qpe := { s.qpe with fetching := s.qpe.fetching.filter fun x => x.1 ≠ n } }
      match fetchedCtx s n slot with
      | none =>
        let p := (qpGet s n).part.val
        let s := raise (dropQp (qpSet s n {}) n) 0x11 p 0 n 0
        .next { s with qpe := { s.qpe with corrupt := insNat n s.qpe.corrupt } }
      | some c => .next (qpUnpark (qpTouch (qpSet s n c) n) n)

/-- QP_FETCH_SLOW (R271): the parked packets are answered RNR SLOW with hint 10, the fetch goes on. -/
def execQpFetchSlow (q : Qpn) (s : State) : Res :=
  let n := q.toNat
  let ks := (s.qpe.parked.filter fun p => p.1 = n).map fun p => p.2.2
  whenOk (s.phase = .running && s.qpe.fetching.any fun x => x.1 = n)
    (ks.foldl (fun s k => qpTurnAway s n k 10 Rnr.slow)
      { s with qpe := { s.qpe with parked := s.qpe.parked.filter fun p => p.1 ≠ n } }) s

/-- A wait that began at a bell count has lasted QPE_ODP.limit (R280). -/
def pageWaited (s : State) (since : Word) : Bool := decide (bellUs s s.qpe.odpLimit.toNat ≤ (s.clk.bell - since).toNat)

/-- A packet has waited for its page for the limit. -/
def pageOver (s : State) : ParkCause → Bool
  | .page _ _ b => pageWaited s b
  | _ => false

/-- QP_PAGE_WAIT_LIMIT (R272, R280): the packets whose wait has lasted the limit, and those parked behind them, are dropped with RNR PAGE; such a
waiting QPSEND completes with PROTECT. -/
def execQpPageWaitLimit (q : Qpn) (s : State) : Res :=
  let n := q.toNat
  let ks := ((s.qpe.parked.filter fun p => p.1 = n).dropWhile fun p => !pageOver s p.2.1).map fun p => p.2.2
  let ts := (s.qpe.sendWait.filter fun x => x.1 = n && pageWaited s x.2.2.2.2).map fun x => x.2.1
  if s.phase ≠ .running then .next s
  else
    let s := { s with qpe := { s.qpe with
      parked := if ks.isEmpty then s.qpe.parked else
        s.qpe.parked.filter (fun p => p.1 ≠ n) ++ (s.qpe.parked.filter fun p => p.1 = n).takeWhile fun p => !pageOver s p.2.1,
      sendWait := s.qpe.sendWait.filter fun x => !(x.1 = n && pageWaited s x.2.2.2.2) } }
    let s := ks.foldl (fun s k => qpTurnAway s n k 0 Rnr.page) s
    let s := { s with qpe := { s.qpe with refused := if ks.isEmpty then s.qpe.refused else s.qpe.refused.filter fun m => m ≠ n } }
    .next (qpGo (ts.foldl (fun s t => opEnd s t St.protect 0) s) n)

/-! ## Control (R268, R275, R280, R281) -/

def qcAddr (o : Op) : Nat := bodyF o 320 64
def qcOp (o : Op) : Nat := bodyF o 302 4
def qcState (o : Op) : Nat := bodyF o 299 3
def qcSlot (o : Op) : Bool := o.body.toNat.testBit 298
def qcCount (o : Op) : Nat := bodyF o 282 16

def namedQpctl (_ : State) (o : Op) : Named :=
  match qcOp o with
  | 0 | 1 => [(false, qcAddr o, 256)]
  | 2 => [(true, qcAddr o, 256)]
  | 4 => [(false, qcAddr o, 36)]
  | _ => []

def qpctlOk (s : State) (o : Op) : Bool :=
  decide (qcOp o ≤ 7) && holdsQp s o.ctxPart (opQpn o) &&
  ((namedQpctl s o).isEmpty || qcAddr o % 64 = 0)

/-- A QPCTL run on its context (R268): FLUSHED in ERROR but for QUERY and DESTROY, PROTECT from a state that the table does
not allow, POISON where the image has it; the context is fetched first where it is not resident, and used (R270); a CREATE waits while every
context of the cache is pinned. -/
def qpctlRun (from_ : List Nat) (f : Nat → QpCtx → Op → State → Option State) (o : Op) (s : State) : State :=
  checked qpctlOk (fun o s =>
    let n := opQpn o
    let c := qpGet s n
    let st := c.state.toNat
    if st = Qs.error && qcOp o ≠ 2 && qcOp o ≠ 3 then opEnd s o.ticket St.flushed 0
    else if !from_.contains st || 5 ≤ qcState o then opEnd s o.ticket St.protect 0
    else if st ≠ 0 && !qpResident s n then qpStartFetch s n
    else if (namedQpctl s o).any fun (w, a, m) => !w && poisoned s a m then opEnd s o.ticket St.poison 0
    else match f n c o (if qpResident s n then qpTouch s n else s) with
      | some t => if qcOp o = 0 && (qpRoom s).isNone then s else opEnd t o.ticket St.complete 1
      | none => opEnd s o.ticket St.protect 0) o s

/-- A launched QPCTL of an operation of R268. -/
def qpctl (cop : Nat) (from_ : List Nat) (f : Nat → QpCtx → Op → State → Option State) (p : Posted) (s : State) : Res :=
  postedMode 1 namedQpctl 8 7 (fun o => qcOp o = cop) p (qpctlRun from_ f) s

/-- Values in range of the fields of a context (R267). -/
def qpFieldsOk (c : QpCtx) : Bool := decide (4 ≤ c.rdepth.toNat) && decide (c.rdepth.toNat ≤ 12) && decide (4 ≤ c.rto.toNat)

/-- QPCTL CREATE (R268). -/
def execQpctlCreate (p : Posted) (s : State) : Res :=
  qpctl 0 [0] (fun n _ o s =>
    let x := memNum s (qcAddr o) 256
    let c := { qpFresh x with part := o.ctxPart, ld := o.ld, state := BitVec.ofNat 3 (qcState o) }
    if !qpImageResv x || bf x 111 14 ≠ n || !qpFieldsOk c || !(qcState o = 1 || qcState o = 2) then none
    else
      let s := qpSet ((qpRoom s).getD s) n c
      let s := { s with qpe := { s.qpe with corrupt := s.qpe.corrupt.filter (fun m => m ≠ n), sent := tset 0 s.qpe.sent n 0 } }
      let s := qpTouch s n
      some (if excluded s c.rnode then qpError s n St.timeout none else s)) p s

/-- The state changes that MODIFY makes (R268). -/
def qpMove (a b : Nat) : Bool := (a = 1 && b = 2) || (a = 2 && b = 3) || (a = 3 && b = 2) || b = 4

/-- QPCTL MODIFY (R268, R281). -/
def execQpctlModify (p : Posted) (s : State) : Res :=
  qpctl 1 [1, 2, 3] (fun n c o s =>
    let x := memNum s (qcAddr o) 256
    let d := qpModify c x (qcCount o)
    if !qpMove c.state.toNat (qcState o) || 64 ≤ qcCount o || !qpImageResv x || !qpFieldsOk d then none
    else
      let s := qpSet s n { d with state := BitVec.ofNat 3 (qcState o) }
      some (if qcState o = 4 then qpError (qpSet s n d) n St.flushed none
        else if (qcCount o).testBit 2 then rejoinShaper s n else qpGo s n)) p s

/-- QPCTL QUERY (R268): the keys and salts are written as zero. -/
def execQpctlQuery (p : Posted) (s : State) : Res :=
  qpctl 2 [0, 1, 2, 3, 4] (fun n c o s => some (memWrite s (qcAddr o) (leBytes 256 (qpNum n false c)))) p s

/-- QPCTL DESTROY (R268, R281). -/
def execQpctlDestroy (p : Posted) (s : State) : Res :=
  qpctl 3 [0, 1, 2, 3, 4] (fun n c _ s =>
    if c.state = 0 then
      if s.qpe.corrupt.contains n then some { s with qpe := { s.qpe with corrupt := s.qpe.corrupt.filter fun m => m ≠ n } } else none
    else
      let s := dropQp (flushRing (flushSends s n none) n) n
      let c := qpGet s n
      let s := qpSet s n { c with key := [], salt := [], kvalid := 0, state := 0 }
      some { s with qpe := { s.qpe with cached := s.qpe.cached.filter fun m => m ≠ n } }) p s

/-- QPCTL KEYSET (R268, R275). -/
def execQpctlKeyset (p : Posted) (s : State) : Res :=
  qpctl 4 [1, 2, 3] (fun n c o s =>
    let sl := boolNat (qcSlot o)
    let sending := c.state.toNat ≠ 1 && qcSlot o = c.sphase
    if sending || (qcSlot o ≠ c.sphase && c.oldout ≠ 0) then none
    else some (qpSet s n { c with
      key := tset 0 c.key sl (BitVec.ofNat 256 (memNum s (qcAddr o) 32)),
      salt := tset 0 c.salt sl (BitVec.ofNat 32 (memNum s (qcAddr o + 32) 4)),
      kvalid := c.kvalid ||| BitVec.ofNat 2 (2 ^ sl), txc := tset 0 c.txc sl 0 })) p s

/-- QPCTL KEYFLIP (R268, R275). -/
def execQpctlKeyflip (p : Posted) (s : State) : Res :=
  qpctl 5 [2, 3] (fun n c o s =>
    if !c.kvalid.toNat.testBit (boolNat (qcSlot o)) then none
    else some (qpGo (unholdWorn (fixOldout (qpSet s n { c with sphase := qcSlot o }) n) n) n)) p s

/-- QPCTL RECV (R268, R278). -/
def execQpctlRecv (p : Posted) (s : State) : Res :=
  qpctl 6 [1, 2, 3] (fun n c o s =>
    if 2 ^ c.rdepth.toNat < qpPosted c + qcCount o then none
    else some (rxCancelled (qpSet s n { c with rtail := c.rtail + BitVec.ofNat 16 (qcCount o) }) n)) p s

/-- A packet waits for a page of a region. -/
def waitsPage (r p : Nat) : ParkCause → Bool
  | .page r' p' _ => r' = r && p' = p
  | _ => false

/-- The engine's cached entry of a region's page read again. -/
def rereadEntry (s : State) (r page : Nat) : State :=
  let l := s.qpe.regionCache.filter fun x => !(x.1 = r && x.2.1 = page)
  let e := BitVec.ofNat 64 (regionPte s r page)
  { s with qpe := { s.qpe with regionCache := if e.toNat.testBit 0 then (l ++ [(r, page, e)]).drop (l.length - 511) else l } }

/-- QPCTL RESUME (R268, R280): every packet and send that waits for the page is tried again. -/
def execQpctlResume (p : Posted) (s : State) : Res :=
  qpctl 7 [0, 1, 2, 3, 4] (fun _ _ o s =>
    let r := bodyF o 274 8
    let pg := bodyF o 254 20
    let s := rereadEntry s r pg
    let s := { s with qpe := { s.qpe with sendWait := s.qpe.sendWait.filter fun x => (x.2.2.1, x.2.2.2.1) ≠ (r, pg) } }
    some (((s.qpe.parked.filter fun p => waitsPage r pg p.2.1).map fun p => p.1).eraseDups.foldl qpUnpark s)) p s

/-! ## Bucket registers (R283, R285) -/

/-- QPE_SHAPE written: ignored where the burst could never send a full packet; else the bucket is emptied. -/
def writeShaper (s : State) (i : Nat) (v : Word) : State :=
  let burst := bf v.toNat 16 24
  let ovh : BitVec 12 := BitVec.ofNat 12 (bf v.toNat 4 12)
  if (burst : Int) < 4128 + ovh.toInt then s
  else { s with qpe := { s.qpe with
    shapeRate := tset 0 s.qpe.shapeRate i (BitVec.ofNat 24 (bf v.toNat 40 24)),
    shapeBurst := tset 0x2000 s.qpe.shapeBurst i (BitVec.ofNat 24 burst), shapeOvh := tset 0 s.qpe.shapeOvh i ovh,
    shapeB := tset 0 s.qpe.shapeB i 0 } }

/-- QPE_POLICE written: the bucket is emptied. -/
def writePolicer (s : State) (i : Nat) (v : Word) : State :=
  { s with qpe := { s.qpe with
    polRate := tset 0 s.qpe.polRate i (BitVec.ofNat 24 (bf v.toNat 40 24)),
    polBurst := tset 0x2000 s.qpe.polBurst i (BitVec.ofNat 24 (bf v.toNat 16 24)),
    polOvh := tset 0 s.qpe.polOvh i (BitVec.ofNat 12 (bf v.toNat 4 12)), polB := tset 0 s.qpe.polB i 0 } }

/-- SHAPER_WRITE (R283, R285, R387). -/
def execShaperWrite (a : Agent) (i : Fin 64) (v : Word) (s : State) : Res :=
  asAgent a (0x6C_1000 + 8 * i.val) (fun s => whenOk (s.phase = .running && stewardAgent s a) (writeShaper s i v) s) s

/-- POLICER_WRITE (R285, R387). -/
def execPolicerWrite (a : Agent) (i : Fin 64) (v : Word) (s : State) : Res :=
  asAgent a (0x6C_1200 + 8 * i.val) (fun s => whenOk (s.phase = .running && stewardAgent s a) (writePolicer s i v) s) s

/-! ## Held packets of every kind -/

/-- The held packets tried again in their order (R194, R296). -/
def retryHeld (s : State) : State :=
  let ks := s.mem.waiting.filterMap fun w => match w with | .packet k => some k | _ => none
  let s := { s with mem := { s.mem with waiting := s.mem.waiting.filter fun w => match w with | .packet _ => false | _ => true } }
  ks.foldl (fun s k => if k.op = 0x0C then qpInTurn k (qpArrive k) s else serveHeld s k) s

end Sys2Proof.Machine
end

