-- ==== Sys2Proof/Machine/Membership.lean ====
section
/-! DEFINITION. The membership protocol of a switch stage (R263, R264). -/
namespace Sys2Proof.Machine

/-- Bits of a mask of reach slots. -/
def slotsIn (m : W32) : List Nat := below 32 fun k => m.toNat.testBit k
def slotBit (k : Nat) : W32 := BitVec.ofNat 32 (2 ^ k)

/-- Reach slots that name a node. -/
def reachMask (s : State) : W32 := (below 32 fun k => (slotNode s k).isSome).foldl (fun m k => m ||| slotBit k) 0

/-- The members of the view that the reach table names (log entry 40). -/
def viewMembers (s : State) : W32 := s.isf.memb.members &&& reachMask s

def ownSlotNo (s : State) : Nat := s.isf.nodeSlot.toNat

/-- The slots of the view that this member suspects: 3 periods without a BEAT. -/
def suspects (s : State) : W32 :=
  ((slotsIn (viewMembers s)).filter fun k => k ≠ ownSlotNo s && decide (3 ≤ tget 0 s.isf.memb.silent k)).foldl
    (fun m k => m ||| slotBit k) 0

/-- The leader: the lowest slot of the view that is not suspected. -/
def leader (s : State) : Option Nat := (slotsIn (viewMembers s &&& ~~~suspects s)).head?

def setMemb (s : State) (m : Memb) : State := { s with isf := { s.isf with memb := m } }

/-- A MEMBER packet sent to a slot (R263). -/
def sendMember (s : State) (msg view : Nat) (members : W32) (pslot k : Nat) : State :=
  match slotNode s k with
  | none => s
  | some n =>
    let tag := s.isf.nextTag
    let body := leBytes 16 (view * 2 ^ 96 + members.toNat * 2 ^ 64 + pslot * 2 ^ 59)
    let k : Packet := { dst := n, src := ownNode s, vc := 2, op := 0x0B, arg := BitVec.ofNat 64 msg, tag := tag,
                        edition := s.isf.map.edition, data := body, len := 16 }
    sendPacket { s with isf := { s.isf with nextTag := tag + 1 } } { pkt := k, route := tag.toNat }

/-- A view installed (R264): its record, and the end of what concerns the excluded nodes. -/
def installView (s : State) (view : Nat) (members : W32) : State :=
  let m := s.isf.memb
  let joined := members &&& (~~~m.members ||| m.hellos)
  let s := setMemb s { m with
    view := BitVec.ofNat 32 view, members := members, accepted := none, proposal := none, waiting := 0,
    hellos := m.hellos &&& ~~~members, leaves := m.leaves &&& members,
    silent := (slotsIn joined).foldl (fun t k => tset 0 t k 0) m.silent }
  qpExcluded (endExcluded (raise s 0x0F 2 0 view members.toNat))

/-- The proposal of this device that a majority of the view has accepted is committed (R264). -/
def commitIfMajority (s : State) : State :=
  match s.isf.memb.proposal with
  | none => s
  | some p =>
    if p.periods < 2 && decide ((slotsIn (viewMembers s)).length < 2 * (slotsIn (p.accepts &&& viewMembers s)).length) then
      let view := s.isf.memb.view.toNat + 1
      let s := ((slotsIn p.members).filter fun k => k ≠ ownSlotNo s).foldl
        (fun s k => sendMember s 4 view p.members (ownSlotNo s) k) s
      if p.members.toNat.testBit (ownSlotNo s) then installView s view p.members
      else setMemb s { s.isf.memb with proposal := none }
    else s

/-- The leader's proposal: the view less suspects and leavers, plus HELLO senders; where it has accepted a lower slot's proposal, that
acceptance stands (R264). -/
def propose (s : State) : State :=
  let m := s.isf.memb
  let old := viewMembers s
  let new := ((old &&& ~~~suspects s) &&& ~~~m.leaves) ||| m.hellos
  let me := ownSlotNo s
  let below := m.accepted.filter fun x => decide (x.1 < me)
  let s := setMemb s { m with proposal := some { members := new, accepts := if below.isSome then 0 else slotBit me, periods := 0 },
                              accepted := some (below.getD (me, new)) }
  let s := ((slotsIn (old ||| new)).filter fun k => k ≠ me).foldl (fun s k => sendMember s 2 (m.view.toNat + 1) new me k) s
  commitIfMajority s

/-- The leader proposes where the view should change and no proposal is under way. -/
def proposeIfNeeded (s : State) : State :=
  let m := s.isf.memb
  let due := suspects s ≠ 0 || (m.hellos &&& ~~~viewMembers s) ≠ 0 || (m.leaves &&& viewMembers s) ≠ 0
  if leader s = some (ownSlotNo s) && m.proposal.isNone && due then propose s else s

/-- The protocol runs. -/
def membOn (s : State) : Bool := s.phase = .running && s.isf.memb.mode && s.isf.nodeValid

/-- MEMBER_PERIOD (R263, R264, R374): while an image is awaited, HELLOs; else a HELLO from a device outside the view, else a BEAT, to every slot; silence is counted. -/
def execMemberPeriod (s : State) : Res :=
  if s.phase = .waitImage && s.isf.nodeValid then
    .next (((slotsIn (reachMask s)).filter fun k => k ≠ ownSlotNo s).foldl
      (fun s k => sendMember s 0 s.isf.memb.view.toNat s.isf.memb.members (ownSlotNo s) k) s)
  else if !membOn s then .next s
  else
    let me := ownSlotNo s
    let msg := if (viewMembers s).toNat.testBit me then 1 else 0
    let s := ((slotsIn (reachMask s)).filter fun k => k ≠ me).foldl
      (fun s k => sendMember s msg s.isf.memb.view.toNat s.isf.memb.members me k) s
    let m := s.isf.memb
    let silent := ((slotsIn (viewMembers s)).filter fun k => k ≠ me).foldl (fun t k => tset 0 t k (tget 0 t k + 1)) m.silent
    let s := setMemb s { m with silent := silent, proposal := m.proposal.map fun p => { p with periods := p.periods + 1 } }
    let half := decide ((slotsIn (viewMembers s)).length ≤ 2 * (slotsIn (suspects s)).length)
    let s := setMemb s { s.isf.memb with waiting := if half then s.isf.memb.waiting + 1 else 0 }
    .next (proposeIfNeeded s)

/-- PROPOSAL_TIMEOUT (R264): no majority within 2 periods; a proposer that still leads proposes again. -/
def execProposalTimeout (s : State) : Res :=
  match s.isf.memb.proposal with
  | none => .next s
  | some p =>
    if membOn s && decide (2 ≤ p.periods) then
      let s := setMemb s { s.isf.memb with proposal := none }
      .next (if leader s = some (ownSlotNo s) then propose s else s)
    else .next s

/-- MEMBER_MINORITY (R264): the view stays, the record is raised. -/
def execMemberMinority (s : State) : Res :=
  whenOk (membOn s && decide (8 ≤ s.isf.memb.waiting))
    (raise (setMemb s { s.isf.memb with waiting := 0 }) 0x10 2 0 s.isf.memb.view.toNat (suspects s).toNat) s

/-- Fields of a MEMBER payload. -/
def mbView (k : Packet) : Nat := bf (ofLe k.data) 96 32
def mbMembers (k : Packet) : W32 := BitVec.ofNat 32 (bf (ofLe k.data) 64 32)
def mbSlot (k : Packet) : Nat := bf (ofLe k.data) 59 5

/-- A MEMBER message of a kind from a slot of the reach table comes in; the protocol must run. -/
def member (msg : Nat) (k : Packet) (f : Nat → State → State) (s : State) : Res :=
  if k.arg.toNat ≠ msg then .next s
  else .next (inbound 0x0B k (fun s =>
    if k.data.length ≠ 16 || bf (ofLe k.data) 0 59 ≠ 0 then dropPacket s
    else match (slotsOf s k.src).head? with
      | some slot => if membOn s then f slot s else s
      | none => s) s)

/-- MEMBER_HELLO (R264). -/
def execMemberHello (k : Packet) (s : State) : Res :=
  member 0 k (fun slot s => proposeIfNeeded (setMemb s { s.isf.memb with hellos := s.isf.memb.hellos ||| slotBit slot })) s

/-- MEMBER_BEAT (R264). -/
def execMemberBeat (k : Packet) (s : State) : Res :=
  member 1 k (fun slot s => setMemb s { s.isf.memb with
    silent := tset 0 s.isf.memb.silent slot 0, hellos := s.isf.memb.hellos &&& ~~~slotBit slot }) s

/-- MEMBER_LEAVE (R264). -/
def execMemberLeave (k : Packet) (s : State) : Res :=
  member 5 k (fun slot s => proposeIfNeeded (setMemb s { s.isf.memb with leaves := s.isf.memb.leaves ||| slotBit slot })) s

/-- MEMBER_PROPOSE (R264): the first for the next view is accepted, and one from a lower slot replaces it. -/
def execMemberPropose (k : Packet) (s : State) : Res :=
  member 2 k (fun _ s =>
    let m := s.isf.memb
    let lower := match m.accepted with | none => true | some (p, _) => decide (mbSlot k ≤ p)
    if (viewMembers s).toNat.testBit (ownSlotNo s) && mbView k = m.view.toNat + 1 && lower then
      let s := setMemb s { m with accepted := some (mbSlot k, mbMembers k) }
      sendMember s 3 (mbView k) (mbMembers k) (mbSlot k) (mbSlot k)
    else s) s

/-- MEMBER_ACCEPT (R264). -/
def execMemberAccept (k : Packet) (s : State) : Res :=
  member 3 k (fun slot s =>
    match s.isf.memb.proposal with
    | none => s
    | some p =>
      if mbView k = s.isf.memb.view.toNat + 1 && mbSlot k = ownSlotNo s && mbMembers k = p.members then
        commitIfMajority (setMemb s { s.isf.memb with proposal := some { p with accepts := p.accepts ||| slotBit slot } })
      else s) s

/-- MEMBER_COMMIT (R264): views never decrease. -/
def execMemberCommit (k : Packet) (s : State) : Res :=
  member 4 k (fun _ s =>
    if s.isf.memb.view.toNat < mbView k && (mbMembers k).toNat.testBit (ownSlotNo s) then installView s (mbView k) (mbMembers k)
    else s) s

end Sys2Proof.Machine
end

