-- ==== Sys2Proof/Machine/Flash.lean ====
section
/-! DEFINITION. The flash tier: writing, reading and discarding pages of the cave, programs and erases, journal and
snapshots, collection, the flush and the rebuild of the map (R49, R102, R307 to R330). -/
namespace Sys2Proof.Machine

/-! ## Blocks (R313, R316, R317, R322, R325) -/

/-- A granule of the layer's own given up. -/
def dropMeta (s : State) (pl : Nat) : State :=
  addValid { s with fls := { s.fls with grans := tdel s.fls.grans pl } } (blockOfPlace pl) false

/-- A buffered granule's program done: buf cleared, the slot free (R316); no journal record (R314). -/
def programInto (s : State) (w : WSlot) : State :=
  let data := memRead s (slotAddr s w.slot) 16384
  let s := programGranule s w.place { lgran := BitVec.ofNat 48 w.lgran, seq := s.fls.wseq, kind := 0, data := data }
  let s := { s with fls := { s.fls with wbuf := s.fls.wbuf.filter fun x => x.slot ≠ w.slot } }
  closeIfFull (memWriteNum s (mapAddr s w.lgran) 8 (2 ^ 63 + w.place * 2 ^ 24)) (blockOfPlace w.place)

/-- A block's entry of the repair records (R324, R377). -/
def blockEntry (ty b : Nat) : List Byte :=
  repairEntry ty (uid 15 (targetOfBlock b)) 0 0 (b / 2 ^ 18 % 4 * 2 ^ 32 + b / 2 ^ 16 % 4 * 2 ^ 30 + b % 2 ^ 16)

/-- A block retired to BAD, once: a SPARE block of its target takes its place, or the target takes no more writes (R317, R325). -/
def retireBlock (s : State) (b : Nat) : State :=
  if (blkGet s b).state = 3 then s
  else
  let s := queueRepair (blkSet s b { blkGet s b with state := 3 }) (blockEntry 6 b)
  let t := targetOfBlock b
  match (blocksOf s t).find? fun c => (blkGet s c).state = 5 with
  | some c =>
    let s := blkSet s c { blkGet s c with state := 0 }
    { s with fls := { s.fls with brought := insNat c s.fls.brought } }
  | none =>
    let s := { s with fls := { s.fls with noWrite := insNat t s.fls.noWrite } }
    retireUnit (raise s 0x17 2 (uid 15 t) 0 0) (uid 15 t)

/-- A granule programmed again at a page that was taken for it, and what names it changed. -/
def moveTo (x : Nat × FlashGran) (page : Option (Nat × State)) : Option State :=
  page.map fun (pl, s) =>
    let g := x.2
    let s := programGranule s pl { g with seq := s.fls.wseq }
    let s := addValid (addValid s (blockOfPlace x.1) false) (blockOfPlace pl) true
    let moved (p : Nat) : Nat := if p = x.1 then pl else p
    closeIfFull (if g.kind = 0 then setMap s g.lgran.toNat (2 ^ 63 + pl * 2 ^ 24)
      else { s with fls := { s.fls with snap := s.fls.snap.map moved, jwritten := s.fls.jwritten.map moved } }) (blockOfPlace pl)

/-- A waiting program directed elsewhere: on its channel, else on another (R317); its map entry journalled anew. -/
def redirect (s : State) (w : WSlot) : State :=
  let c := w.place / 2 ^ 34
  match (c :: chans s).findSome? fun c => if chanIn s c then takeOnChannel s c else none with
  | none => s
  | some (pl, s) =>
    let s := addValid s (blockOfPlace w.place) false
    let s := { s with fls := { s.fls with wbuf := s.fls.wbuf.map fun x => if x.slot = w.slot then { x with place := pl } else x } }
    addValid (setMap s w.lgran (2 ^ 63 + 2 ^ 62 + pl * 2 ^ 24 + w.slot)) (blockOfPlace pl) true

/-- A place takes a program: its block is not BAD, its target takes writes (R317, R325). -/
def placeTakes (s : State) (pl : Nat) : Bool := (blkGet s (blockOfPlace pl)).state ≠ 3 && targetIn s (targetOfBlock (blockOfPlace pl))

/-- A buffered granule's program: one that still waits for a block that failed, or a target that takes no writes, is directed elsewhere,
and is not done until it has been (R317, R325). -/
def programDone (s : State) (w : WSlot) : State :=
  if placeTakes s w.place then programInto s w
  else
    let s := redirect s w
    match s.fls.wbuf.find? fun x => x.slot = w.slot && placeTakes s x.place with
    | some x => programInto s x
    | none => s

/-- FLASH_PROGRAM_COMPLETE (R316): a program under way ends though the reference is lost (R46). -/
def execFlashProgramComplete (slot : BitVec 19) (s : State) : Res :=
  match s.fls.wbuf.find? fun w => w.slot = slot.toNat with
  | none => .next s
  | some w => whenOk (s.phase = .running) (programDone s w) s

/-- A block whose program failed: BAD, and every program that waits for it, or for a target that now takes no writes, directed elsewhere
(R317, R325). -/
def failBlock (s : State) (b : Nat) : State :=
  let s := retireBlock s b
  (s.fls.wbuf.filter fun w => !placeTakes s w.place).foldl redirect s

/-- A granule on flash in use: its map entry names its place, or the layer does (R310, R314). -/
def granLive (s : State) (x : Nat × FlashGran) : Bool :=
  if x.2.kind = 0 then (let e := mapEntry s x.2.lgran.toNat; entValid e && !entBuf e && entPlace e = x.1)
  else s.fls.snap.contains x.1 || s.fls.jwritten.contains x.1

/-- FLASH_PROGRAM_FAIL (R317, R325, R330): a granule that is no longer in use is not written again. -/
def execFlashProgramFail (x : FlashFailure) (s : State) : Res :=
  if s.phase ≠ .running then .next s
  else match x with
  | .program slot =>
    (match s.fls.wbuf.find? fun w => w.slot = slot.toNat with
    | none => .next s
    | some w => .next (failBlock s (blockOfPlace w.place)))
  | .granule place =>
    (match s.fls.grans.find? fun g => g.1 = place.toNat with
    | none => .next s
    | some g =>
      let s := failBlock s (blockOfPlace place.toNat)
      .next (if !granLive s g then s else (moveTo g (((targetOfBlock (blockOfPlace place.toNat) / 8) :: chans s).findSome? fun c =>
        if chanIn s c then takeOnChannel s c else none)).getD s))
  | .erase t block =>
    let b := t.val * 2 ^ 20 + block.toNat
    whenOk (s.fls.erasing.contains b)
      (retireBlock { s with fls := { s.fls with erasing := s.fls.erasing.filter fun x => x ≠ b } } b) s

/-- A block erased: FREE, its granules gone. -/
def eraseBlock (s : State) (b : Nat) : State :=
  let x := blkGet s b
  let s := blkSet s b { x with state := 0, erases := BitVec.ofNat 24 (satAdd 24 x.erases.toNat 1), reads := 0, valid := 0,
                               used := 0, cold := false }
  { s with fls := { s.fls with erasing := s.fls.erasing.filter (fun y => y ≠ b),
                               grans := s.fls.grans.filter fun g => blockOfPlace g.1 ≠ b } }

/-- FLASH_ERASE_COMPLETE (R322). -/
def execFlashEraseComplete (target : Fin 128) (block : BitVec 20) (s : State) : Res :=
  let b := target.val * 2 ^ 20 + block.toNat
  whenOk ((s.phase = .running || s.fls.flushing) && s.fls.erasing.contains b) (eraseBlock s b) s

/-! ## Journal and snapshots (R314) -/

/-- The whole open journal written (CSYNC, the flush). -/
def writeJournal : Nat → State → State
  | 0, s => s
  | n + 1, s => if s.fls.journal.isEmpty then s else match writeJournalGranule s with | some s => writeJournal n s | none => s

def syncJournal (s : State) : State := writeJournal (ceilDiv s.fls.journal.length 1024) s

/-- JOURNAL_WRITE (R314): when 16 KiB of records are ready. -/
def execJournalWrite (s : State) : Res :=
  if s.phase = .running && s.clk.refPresent && decide (1024 ≤ s.fls.journal.length) then
    match writeJournalGranule s with | some s => .next s | none => .next s
  else .next s

/-- The snapshot granules of the whole map written in order; none where a granule finds no place. -/
def writeSnapshot (s : State) : Nat → Nat → Option (List Nat × State)
  | _, 0 => some ([], s)
  | i, n + 1 =>
    match programMeta s 2 (memRead s (mapAddr s (2048 * i)) 16384) with
    | none => none
    | some (pl, s) => (writeSnapshot s (i + 1) n).map fun (ps, s) => (pl :: ps, s)

/-- SNAPSHOT_PASS (R314): the journal since the last pass has reached an eighth of the map, or changes had no room in it (log entry 165); the pass frees the journal
granules that it covers, and the snapshot before it. -/
def execSnapshotPass (s : State) : Res :=
  let count := s.fls.mapCount.toNat
  if s.phase = .running && s.fls.pfReady && s.clk.refPresent && decide (0 < count) &&
      (s.fls.jover || decide (count ≤ s.fls.jwritten.length * 16384)) then
    let old := s.fls.snap ++ s.fls.jwritten
    match writeSnapshot s 0 (ceilDiv count 2048) with
    | none => .next s
    | some (ps, s) =>
      .next (old.foldl dropMeta { s with fls := { s.fls with snap := ps, jwritten := [], jover := false } })
  else .next s

/-! ## Collection (R322, R323) -/

/-- The score of a block (R322). -/
def blockScore (s : State) (b emin : Nat) : Int :=
  let x := blkGet s b
  let i := 65536 * (blockPages - x.valid.toNat) / blockPages
  let a := min 65535 ((s.clk.bell.setWidth 48 - x.closed).toNat / 2 ^ s.fls.ashift.toNat)
  let w := min 65535 (256 * (x.erases.toNat - emin))
  (s.fls.wi.toNat * i + s.fls.wa.toNat * a : Nat) - (s.fls.ww.toNat * w : Nat)

/-- A block that is collected next, whatever its score (R320, R322). -/
def urgent (s : State) (b : Nat) : Bool := s.fls.reloc.contains b || decide (2 ^ 20 ≤ (blkGet s b).reads.toNat)

/-- The better of two blocks to collect, the first of equals. -/
def bestBlock (f : Nat → Int) : List Nat → Option Nat
  | [] => none
  | x :: r => match bestBlock f r with | none => some x | some y => if f y ≤ f x then some x else some y

/-- The CLOSED block of a target that is collected next. -/
def pickBlock (s : State) (t : Nat) : Option Nat :=
  let bs := blocksOf s t
  let closed := bs.filter fun b => (blkGet s b).state = 2 && !s.fls.erasing.contains b
  match closed.find? (urgent s) with
  | some b => some b
  | none =>
    let good := (bs.map (blkGet s)).filter fun x => x.state ≠ 3
    let emin := (good.map fun x => x.erases.toNat).foldl min (2 ^ 24)
    bestBlock (fun b => blockScore s b emin) closed

/-- The places of a block that hold a granule in use. -/
def liveGranules (s : State) (b : Nat) : List (Nat × FlashGran) :=
  s.fls.grans.filter fun x => blockOfPlace x.1 = b && granLive s x

/-- A granule read and copied to the most-worn free block of its target, its new entry journalled. -/
def moveGranule (s : State) (t : Nat) (x : Nat × FlashGran) : Option State :=
  moveTo x (takePage (countRead s (blockOfPlace x.1)) (blocksOf s t) true)

def moveGranules (s : State) (t : Nat) : List (Nat × FlashGran) → Option State
  | [] => some s
  | x :: r => match moveGranule s t x with | none => none | some s => moveGranules s t r

/-- A block collected: its valid granules copied and its erase begun, with the granules moved; none where the copies find no
room. -/
def collectBlock (s : State) (b : Nat) : Option (Nat × State) :=
  let gs := liveGranules s b
  (moveGranules s (targetOfBlock b) gs).map fun s =>
    let s := blkSet s b { blkGet s b with state := 4 }
    (gs.length, { s with fls := { s.fls with erasing := insNat b s.fls.erasing, reloc := s.fls.reloc.filter fun c => c ≠ b } })

/-- FREE blocks of a target. -/
def freeBlocks (s : State) (t : Nat) : Nat := (blocksOf s t).countP fun b => (blkGet s b).state = 0

/-- GC_BACKGROUND (R322, R323): from below low until high, and for urgent blocks. -/
def execGcBackground (target : Fin 128) (s : State) : Res :=
  let t := target.val
  let n := freeBlocks s t
  let on := decide (n < s.fls.gcLow.toNat) || (s.fls.collecting.contains t && decide (n < s.fls.gcHigh.toNat))
  let t' := { s with fls := { s.fls with
    collecting := if on then insNat t s.fls.collecting else s.fls.collecting.filter fun u => u ≠ t } }
  whenOk (agentsRun s && s.fls.pfReady && targetIn s t)
    (match pickBlock t' t with
     | none => t'
     | some b => if on || urgent t' b then ((collectBlock t' b).map fun x => x.2).getD t' else t') s

/-! ## Bodies: bits 127:0 of bytes 16 to 31 lie at body bits 127:0 -/

/-- CGC names a target in service, or any (R25, R323). -/
def cgcOk (s : State) (o : Op) : Bool :=
  bodyF o 96 8 = 0xFF || (decide (bodyF o 96 8 < 0x80) && unitIn s (uid 15 (bodyF o 96 8)) && unitIn s (uid 14 (bodyF o 96 8 / 8)))

/-- Collection by CGC: at most n blocks of a target, or of any; the steps it takes. -/
def collectMany (t : Nat) : Nat → Nat → State → Nat × State
  | 0, steps, s => (steps, s)
  | n + 1, steps, s =>
    let ts := if t = 0xFF then List.range 128 else [t]
    match (ts.filter (targetIn s)).findSome? fun u => (pickBlock s u).bind (collectBlock s) with
    | none => (steps, s)
    | some (k, s) => collectMany t n (steps + k + 1) s

/-- CGC (R323). -/
def execCgc (p : Posted) (s : State) : Res :=
  posted 1 false (fun _ _ => []) 9 3 p (checked cgcOk fun o s =>
    let (steps, s) := collectMany (bodyF o 96 8) (bodyF o 112 16) 0 s
    opEnd (if steps = 0 then s else chargeWork s o.part (BitVec.ofNat 8 (bodyF o 104 8))) o.ticket St.complete steps) s

/-! ## CSYNC, CDISC, CCAL -/

/-- A CSYNC finds pages for the whole open journal; where it does not, or changes had no room in the journal, it is refused and writes
nothing (log entries 153 and 165). -/
def csyncOk (s : State) (_ : Op) : Bool := (syncJournal s).fls.journal.isEmpty && !s.fls.jover

/-- CSYNC (R314): the whole open journal. -/
def execCsync (p : Posted) (s : State) : Res :=
  posted 1 false (fun _ _ => []) 9 4 p (checked csyncOk fun o s =>
    opEnd (syncJournal s) o.ticket St.complete (ceilDiv s.fls.journal.length 1024)) s

/-- The range of logical granules of a partition (R311). -/
def partRange (s : State) (p : Part) : Nat × Nat :=
  let count := s.fls.mapCount.toNat
  let split := min s.fls.mapSplit.toNat count
  if p = 0 then (0, split) else (split, count)

def cdiscOk (s : State) (o : Op) : Bool :=
  let (lo, hi) := partRange s o.part
  let a := bodyF o 80 48
  let n := bodyF o 40 40
  n ≠ 0 && decide (lo ≤ a) && decide (a + n ≤ hi)

/-- CDISC (R321): the granules are invalidated at once, which the hint allows (log entry 41). -/
def execCdisc (p : Posted) (s : State) : Res :=
  posted 1 false (fun _ _ => []) 9 2 p (checked cdiscOk fun o s =>
    let n := bodyF o 40 40
    let s := (List.range n).foldl (fun s i => invalidate s (bodyF o 80 48 + i)) s
    opEnd s o.ticket St.complete (ceilDiv n 4096)) s

/-- The channel that a CCAL names: the spec gives the body no layout, so it is what Config reads there (log entry 38). -/
def ccalChan (o : Op) : Nat := Config.ccalChannel o.body % 16

def ccalOk (s : State) (o : Op) : Bool := unitIn s (uid 14 (ccalChan o))

/-- CCAL (R25, R49): a tap count out of range, where none brings the delay line into its band, fails the channel (log entry 38). -/
def execCcal (p : Posted) (s : State) : Res :=
  posted 1 false (fun _ _ => []) 9 5 p (checked ccalOk fun o s =>
    let c := ccalChan o
    let n := Config.ccalTaps o.body
    opEnd (if n < 128 then chSet s c { chGet s c with taps := BitVec.ofNat 7 n } else failChannel s c) o.ticket St.complete 1) s

/-! ## CREAD (R102, R318, R330) -/

/-- The region of a CREAD: taken by the partition, of the group's geometry. -/
def creadRegion (s : State) (o : Op) (geom : Nat) : Option Region :=
  (regionOf s o.part (bodyF o 32 64)).filter fun r => !r.vat && r.len = geGran geom && r.heads = geHeads geom

def creadOk (s : State) (o : Op) : Bool :=
  (match recordPage s o with
   | none => false
   | some (gt, geom) =>
     peKind (getPte s gt (bodyF o 96 8)) = PK.cave && (creadRegion s o geom).isSome &&
     !s.ops.any fun x => x.cls = 9 && x.op = 0 && x.phase ≠ .queued && x.phase ≠ .recorded && x.ticket ≠ o.ticket &&
       x.part = o.part && bodyF x 96 32 = bodyF o 96 32)

/-- The page that a CREAD brings in, where its entry is still CAVE and its region taken. -/
def creadPage (s : State) (o : Op) : Option (Nat × Nat × Region) :=
  match recordPage s o with
  | none => none
  | some (gt, geom) =>
    if peKind (getPte s gt (bodyF o 96 8)) = PK.cave then (creadRegion s o geom).map fun r => (gt, geom, r) else none

/-- A CREAD whose page was freed before its commit: PROTECT, its region released (R330). -/
def creadFreed (s : State) (o : Op) : State :=
  match regionOf s o.part (bodyF o 32 64) with
  | none => opEnd s o.ticket St.protect 0
  | some r => opEnd (releaseGrans s r.stack r.gran r.len) o.ticket St.protect (r.len + 1)

/-- A page brought into a region and verified (R176, R318): its entry is DRAM with cv 1 and age 0, or it fails, as one with an undefined
granule does (R320, R321, R325). -/
def bringPage (s : State) (gt l : Nat) (r : Region) (page : List Byte) (whole : Bool) : Bool × State :=
  let e := getPte s gt l
  let geom := hdGeom (gtHeader s gt)
  let sk := sketchOf geom page
  let s := nameGrans s r.stack r.gran r.len
  let s := writeSketch (memWrite s (pageAddr r.stack r.gran) page) geom r.stack r.sub r.slot sk
  if whole && stackIn s r.stack && pageSum page sk = tabNum s (sumAddr gt (geLayers geom) l) 8 then
    (true, setPte s gt l (mkPte PK.dram true geom (whereDram r.slot r.sub r.stack r.gran) (peGroup e) 0))
  else (false, s)

/-- CREAD (R318, R330): refused where its launch found it so. -/
def execCread (p : Posted) (s : State) : Res :=
  posted 1 false (fun _ _ => []) 9 0 p (fun o s =>
    if o.settled then opEnd s o.ticket St.protect 0
    else match creadPage s o with
      | none => creadFreed s o
      | some (gt, geom, r) =>
        let l := bodyF o 96 8
        let g := geGran geom
        let caddr := peCaddr (getPte s gt l)
        let whole := granulesWhole s caddr g
        let (page, s) := granulesFrom s caddr g
        let (ok, s) := bringPage s gt l r page whole
        if ok then opEnd (freeRun s caddr g) o.ticket St.complete (g + 1)
        else opEnd (releaseGrans s r.stack r.gran r.len) o.ticket St.checksum (g + 1)) s

/-! ## CWRITE and the flash write path (R180, R181, R315, R316) -/

/-- Places for the granules of a run: granule k on channel (lgran + k) mod C (R316). -/
def takePlaces (s : State) (lg : Nat) : Nat → Option (List Nat × State)
  | 0 => some ([], s)
  | n + 1 =>
    let cs := chans s
    match cs[lg % cs.length]? with
    | none => none
    | some c =>
      match takeOnChannel s c with
      | none => none
      | some (pl, s) => (takePlaces s (lg + 1) n).map fun (ps, s) => (pl :: ps, s)

/-- A page written to the cave: a run, places and buffer slots, then map entries with buf = 1, the entry CAVE with cv 0, and the
DRAM region released (R315, R154). None where there is no run or block. -/
def evictPage (s : State) (p : Part) (gt l : Nat) : Option State :=
  let e := getPte s gt l
  let geom := hdGeom (gtHeader s gt)
  let g := geGran geom
  match findRun s p g with
  | none => none
  | some x =>
    match takePlaces s x g with
    | none => none
    | some (ps, s) =>
      let slots := freeSlotsOf s g
      let page := memRead s (pageAddr (peStack e) (peGran e)) (g * 16384)
      let s := noteRead s (pageAddr (peStack e) (peGran e)) (g * 16384)
      let s := (List.range g).foldl (fun s i =>
        bufferGranule s (x + i) slots[i]? (ps.getD i 0) ((page.drop (16384 * i)).take 16384)) (addRun s x g)
      let s := setPte s gt l (mkPte PK.cave false geom (x * 2 ^ 16) (peGroup e) (peAge e))
      some (releaseGrans s (peStack e) (peGran e) g)

def cwLayers (o : Op) : List Nat := (List.range (bodyF o 88 8 + 1)).map fun i => bodyF o 96 8 + i

def namedCwrite (_ : State) (o : Op) : Named := [(true, bodyF o 24 64, bodyF o 88 8 + 1)]

def cwriteOk (s : State) (o : Op) : Bool :=
  stageSet s &&
  (match recordPage s o with
   | none => false
   | some (_, geom) => decide (bodyF o 96 8 + bodyF o 88 8 < geLayers geom))

/-- A layer that CWRITE takes up: its entry is DRAM with cv 1. -/
def cwTakes (s : State) (gt l : Nat) : Bool := peKind (getPte s gt l) = PK.dram && peCv (getPte s gt l)

/-- One layer of a CWRITE written to the cave, with its result byte. -/
def cwLayer (p : Part) (gt : Nat) (x : State × List Byte) (l : Nat) : State × List Byte :=
  let (s, bs) := x
  if !cwTakes s gt l then (s, bs ++ [2])
  else match evictPage s p gt l with
    | some s => (s, bs ++ [0])
    | none => (s, bs ++ [3])

/-- The layers of a CWRITE written, with their result bytes; where the group is live at the commit every run is freed, and what had
one is abandoned. -/
def cwWritten (s : State) (o : Op) (gt : Nat) (live : Bool) : State × List Byte :=
  let (t, bs) := (cwLayers o).foldl (cwLayer o.part gt) (s, [])
  if live then (s, bs.map fun b => if b = 0 then 1 else b) else (t, bs)

/-- The slots of the write buffer that a CWRITE waits for: those of the layers that find a run and blocks, or the whole buffer where they
are more (R315; log entry 152). -/
def cwSlots (s : State) (o : Op) (gt geom : Nat) : Nat :=
  min (s.fls.wmax.toNat * 64) ((cwWritten s o gt false).2.countP (fun b => b = 0) * geGran geom)

/-- The granules that a CWRITE copies, one a step: those of the layers that find a run and blocks (R315). -/
def cwGrans (s : State) (o : Op) : Nat :=
  match recordPage s o with
  | none => 0
  | some (gt, geom) => (cwWritten s o gt false).2.countP (fun b => b = 0) * geGran geom

/-- CWRITE (R315): it waits while the write buffer lacks the slots; a source line with poison ends it with POISON before its
commit (log entry 19). -/
def execCwrite (p : Posted) (s : State) : Res :=
  posted 1 false namedCwrite 9 1 p (checked cwriteOk fun o s =>
    match recordPage s o with
    | none => s
    | some (gt, geom) =>
      let g := geGran geom
      let ls := (cwLayers o).filter (cwTakes s gt)
      let live := rcLive (getRec s o.part (bodyF o 104 24)) ≠ 0
      let bad := ls.any fun l => let e := getPte s gt l; poisoned s (pageAddr (peStack e) (peGran e)) (g * 16384)
      let n := cwSlots s o gt geom
      if !live && decide ((freeSlotsOf s n).length < n) then s
      else if bad then opEnd s o.ticket St.poison 0
      else
        let s := noteUses s o.ticket (ls.map fun l => (peStack (getPte s gt l), peGran (getPte s gt l), g))
        let (s, bs) := cwWritten s o gt live
        opEnd (memWrite s (bodyF o 24 64) bs) o.ticket St.complete (bs.countP (fun b => decide (b.toNat < 2)) * g + 1)) s

/-! ## Flush and rebuild (R327, R329) -/

/-- The block metadata: the records of the blocks the layer knows, as 16 bytes each (R313, R327 step 6). -/
def blockBytes (x : BlockRec) : List Byte :=
  leBytes 16 (x.closed.toNat * 2 ^ 80 + x.erases.toNat * 2 ^ 56 + x.reads.toNat * 2 ^ 32 + x.valid.toNat * 2 ^ 20 + x.state.toNat)

/-- The flush (R327 steps 3 to 6, R361): programs, erases ended, journal, metadata, which pass through their part of the staging region
(R326), clean record with its length in µs; none where what comes before it found no page. -/
def flushCave (s : State) (us : Nat) : State :=
  let s := { s with fls := { s.fls with erasing := [] } }
  let s := s.fls.wbuf.foldl programDone s
  let s := syncJournal s
  let m := s.fls.blocks.flatMap fun b => blockBytes b.2
  let s := if stageSet s then memWrite s (s.fls.stage.toNat * 2 ^ 22 + 2 ^ 22) (m.take (2 ^ 20)) else s
  let put (s : Option State) (kind : Nat) (d : List Byte) : Option State :=
    s.bind fun s => (programMeta s kind (d ++ List.replicate (16384 - d.length) 0)).map fun x => x.2
  let t := (cutEvery 16384 (ceilDiv m.length 16384) m).foldl (fun s d => put s 3 d)
    (if s.fls.journal.isEmpty && s.fls.wbuf.isEmpty && !s.fls.jover then some s else none)
  (put t 4 (leBytes 2 (min us 0xFFFF))).getD s

/-- The granules of a list of places that decode, each with its number in the list. -/
def decoded (s : State) (ps : List Nat) : List (Nat × FlashGran) :=
  (indexed ps).filterMap fun (i, p) => (s.fls.grans.find? fun g => g.1 = p).map fun g => (i, g.2)

/-- The layer's own granules that do not decode left out (R329). -/
def undecodedGone (s : State) (x : RebuildInput) : State :=
  { s with fls := { s.fls with grans := s.fls.grans.filter fun g => !(g.2.kind ≠ 0 && x.lostPlaces.contains g.1) } }

/-- Map entries taken from a snapshot granule, from its first logical granule on. -/
def loadSnapshot (s : State) (i : Nat) (g : FlashGran) : State :=
  (List.range 2048).foldl (fun s k =>
    memWriteNum s (mapAddr s (2048 * i + k)) 8 (ofLe ((g.data.drop (8 * k)).take 8))) s

/-- A journal granule's records replayed; what was left erased names no granule of the map. -/
def replayJournal (s : State) (g : FlashGran) : State :=
  (List.range 1024).foldl (fun s k =>
    let v := ofLe ((g.data.drop (16 * k)).take 16)
    if s.fls.mapCount.toNat ≤ bf v 80 48 then s else memWriteNum s (mapAddr s (bf v 80 48)) 8 (bf v 16 64)) s

/-- The mapped logical granules. -/
def mappedGranules (s : State) : List Nat := below s.fls.mapCount.toNat fun lg => entValid (mapEntry s lg)

/-- The clean record that follows the last journal granule (R329). -/
def cleanRecord (s : State) : Option FlashGran :=
  let js := (s.fls.grans.filter fun g => g.2.kind = 1).map fun g => g.2.seq.toNat
  let last := js.foldl max 0
  (s.fls.grans.find? fun g => g.2.kind = 4 && decide (last ≤ g.2.seq.toNat) &&
    !s.fls.grans.any fun h => h.2.kind = 4 && decide (g.2.seq.toNat < h.2.seq.toNat)).map fun g => g.2

/-- A target's first start (R324): the blocks that were BAD as shipped are recorded, and the SPARE blocks set aside, its highest good
blocks (log entry 42). -/
def setAside (s : State) (t : Nat) : State :=
  let bs := blocksOf s t
  if s.fls.started.contains t then s
  else
    let s := (bs.filter Config.shippedBad).foldl (fun s b => queueRepair (blkSet s b { blkGet s b with state := 3 }) (blockEntry 6 b)) s
    let s := { s with fls := { s.fls with started := insNat t s.fls.started } }
    let n := spareCount bs.length
    let xs := (bs.filter fun b => (blkGet s b).state = 0).reverse.take n
    xs.foldl (fun s b => queueRepair (blkSet s b { blkGet s b with state := 5 }) (blockEntry 7 b)) s

/-- The map rebuilt (R329): snapshot, journal in order, buf cleared, runs and valid counts found, ERASE_DUE blocks erased. -/
def rebuildMap (s : State) (x : RebuildInput) : State :=
  let lost := x.undecodable
  let s := (decoded s s.fls.snap).foldl (fun s (i, g) => loadSnapshot s i g) s
  let s := (decoded s s.fls.jwritten).foldl (fun s x => replayJournal s x.2) s
  let ms := mappedGranules s
  let s := ms.foldl (fun s lg => memWriteNum s (mapAddr s lg) 8 (2 ^ 63 + entPlace (mapEntry s lg) * 2 ^ 24)) s
  let gone := (ms.filter lost.contains).map fun lg => entPlace (mapEntry s lg)
  let s := { s with fls := { s.fls with grans := s.fls.grans.filter (fun g => !gone.contains g.1), runs := ms.map fun lg => (lg, 1),
                                        wbuf := [] } }
  let bs := s.fls.blocks.map fun b => b.1
  let s := bs.foldl (fun s b =>
    let n := (ms.countP fun lg => blockOfPlace (entPlace (mapEntry s lg)) = b) +
      (s.fls.snap ++ s.fls.jwritten).countP fun pl => blockOfPlace pl = b
    closeIfFull (blkSet s b { blkGet s b with valid := BitVec.ofNat 12 n }) b) s
  let due := (s.fls.blocks.filter fun b => b.2.state = 4).map fun b => b.1
  (below 128 (targetOn s)).foldl setAside (due.foldl eraseBlock s)

/-- MAP_REBUILD (R329). A clean record is read once: it does not answer for a later stop without a flush (R404; log entry 154). -/
def execMapRebuild (x : RebuildInput) (s : State) : Res :=
  if !(s.phase = .running && memService s && s.clk.refPresent && !s.fls.pfReady && decide (s.fls.mapBase ≠ 0) && !(chans s).isEmpty) then .next s
  else
    let s := undecodedGone s x
    let c := cleanRecord s
    let t := rebuildMap s x
    let tf : Half := match c with | some g => BitVec.ofNat 16 (ofLe (g.data.take 2)) | none => 0
    let t := { t with fls := { t.fls with grans := t.fls.grans.filter (fun g => g.2.kind ≠ 4), pfReady := true, pfClean := c.isSome, pfTflush := tf } }
    .next (if c.isSome then t else raise t 0x18 2 0 tf.toNat 0)

end Sys2Proof.Machine
end

