-- ==== Sys2Proof/Machine/Agents.lean ====
section
/-! DEFINITION. What the device does of itself over pages and rows: age sweeps, the keeper, the return and repair agents, the
scrubbers, the errors of memory, row repair and the loss of a stack (R179 to R183, R213, R214, R331, R341 to R344). -/
namespace Sys2Proof.Machine

/-- The pages of a partition's group records, by rising record and layer: record, group table, layer. -/
def recordPages (s : State) (p : Part) : List (Nat × Nat × Nat) :=
  (usedRecs s p).flatMap fun n =>
    let gt := rcGt (getRec s p n)
    (List.range (geLayers (hdGeom (gtHeader s gt)))).map fun l => (n, gt, l)

/-! ## Ageing (R179, R143) -/

/-- The age of an entry written in place; no look-aside entry is dropped by it. -/
def writeAge (s : State) (gt l age : Nat) : State :=
  let e := getPte s gt l
  memWriteNum s (pteAddr gt l) 16 (e - peAge e * 2 ^ 120 + age * 2 ^ 120)

/-- The touched entries of every look-aside buffer. -/
def touchedEntries (s : State) : List LaEntry := (s.wlk.la.flatMap fun x => x.2).filter fun e => e.touched

/-- Every walker writes age 0 into the entry of each touched look-aside entry, then clears the flags (R143). -/
def touchDown (s : State) : State :=
  let s := (touchedEntries s).foldl (fun s e => writeAge s e.gt e.layer 0) s
  { s with wlk := { s.wlk with la := s.wlk.la.map fun x => (x.1, x.2.map fun e => { e with touched := false }) } }

/-- One sweep over a partition: the touched pages of every walker first, then every other resident page of the partition's
records (R143, R179). -/
def sweep (s : State) (p : Part) : State :=
  let touched := touchedEntries s
  let old := (recordPages s p).filter fun x => peKind (getPte s x.2.1 x.2.2) = PK.dram &&
    !touched.any fun e => e.gt = x.2.1 && e.layer = x.2.2
  let s := touchDown s
  let s := old.foldl (fun s x => writeAge s x.2.1 x.2.2 (min 255 (peAge (getPte s x.2.1 x.2.2) + 1))) s
  { s with wlk := { s.wlk with sweepAt := tset 0 s.wlk.sweepAt p.val s.clk.bell } }

/-- AGE_SWEEP (R179): every WLK_SWEEP.period bell counts. -/
def execAgeSweep (p : Part) (s : State) : Res :=
  let period := (tget 0 s.wlk.period p.val).toNat
  whenOk (agentsRun s && period ≠ 0 && !(walkersIn s).isEmpty &&
    decide ((tget 0 s.wlk.sweepAt p.val).toNat + period ≤ s.clk.bell.toNat))
    (tryWork true (.sweep p) [] (fun s => sweep s p) s) s

/-! ## The keeper (R180, R181) -/

/-- A candidate for eviction, with its rank (R180): COLD before AGE, then the higher age. -/
def evictRank (s : State) (p : Part) (x : Nat × Nat × Nat) : Option Nat :=
  let v := getRec s p x.1
  let e := getPte s x.2.1 x.2.2
  if peKind e = PK.dram && peCv e && rcLive v = 0 && rcRefs v ≠ 0 then
    if rcPlace v = 2 then some (255 - peAge e)
    else if rcPlace v = 0 && decide ((tget 0x10 s.wlk.ageMin p.val).toNat ≤ peAge e) then some (511 - peAge e)
    else none
  else none

/-- The next candidate: least rank, then the lower record, then the lower layer. -/
def evictNext (s : State) (p : Part) : Option (Nat × Nat × Nat) :=
  ((recordPages s p).foldl (fun (b : Option (Nat × (Nat × Nat × Nat))) x =>
    match evictRank s p x, b with
    | none, b => b
    | some r, none => some (r, x)
    | some r, some (r', y) => if r < r' then some (r, x) else some (r', y)) none).map fun y => y.2

/-- A fall of a pool's free granules below WLK_WATER.low as the keeper finds it: a new crossing, in which nothing is raised yet. -/
def markCrossing (s : State) (p : Part) : State :=
  let m := tget 0 s.wlk.crossed p.val
  let low : Bool := poolFree s p < (tget 0 s.wlk.low p.val).toNat
  let m' : BitVec 3 := if low then (if m.toNat.testBit 2 then m else 4) else setF m 2 1 0
  { s with wlk := { s.wlk with crossed := tset 0 s.wlk.crossed p.val m' } }

/-- A record raised once in each crossing below low (R180): bit 0 of the mark is POOL_LOW, bit 1 CAVE_FULL. -/
def raiseOnce (s : State) (p : Part) (k kind a b : Nat) : State :=
  let m := tget 0 s.wlk.crossed p.val
  if m.toNat.testBit k then s
  else raise { s with wlk := { s.wlk with crossed := tset 0 s.wlk.crossed p.val (setF m k 1 1) } } kind p.val 0 a b

def setKeeping (s : State) (p : Part) (on : Bool) : State :=
  { s with wlk := { s.wlk with keeping := tset false s.wlk.keeping p.val on } }

/-- One candidate of the keeper, its work charged to WLK_SWEEP.kshare. A page with poison fails as R153 has it and is not written
(R153, R189). It waits while the write buffer lacks room (R315), or the link to the page is slow (R39). -/
def keepOne (s : State) (p : Part) : State :=
  match evictNext s p with
  | none => setKeeping (raiseOnce s p 0 0x08 (poolFree s p) 0) p false
  | some (n, gt, l) =>
    let e := getPte s gt l
    let g := geGran (hdGeom (gtHeader s gt))
    if !s.fls.pfReady || !linkRuns s (peStack e) then s
    else if !stageSet s || (chans s).isEmpty then raiseOnce s p 1 0x09 n l
    else if poisoned s (pageAddr (peStack e) (peGran e)) (g * 16384) then failPage s p gt l
    else if (freeSlotsOf s g).length < min (s.fls.wmax.toNat * 64) g then s
    else match evictPage s p gt l with
      | none => raiseOnce s p 1 0x09 n l
      | some s => chargeWork s p (tget 0 s.wlk.kshare p.val)

/-- KEEPER_EVICT (R180): from below low until high or no candidate. -/
def execKeeperEvict (p : Part) (s : State) : Res :=
  let free := poolFree s p
  let on : Bool := decide (free < (tget 0 s.wlk.low p.val).toNat) ||
    (tget false s.wlk.keeping p.val && decide (free < (tget 0 s.wlk.high p.val).toNat))
  if !agentsRun s then .next s
  else if on then .next (tryWork true (.keeper p) [] (fun s => keepOne s p) (setKeeping (markCrossing s p) p true))
  else .next (setKeeping (markCrossing s p) p false)

/-! ## The return agent (R176, R183) -/

/-- The record still holds the table and the entry is TRANSIT with the agent's ticket. -/
def stillReturning (s : State) (p : Part) (q : Enrol) (x : RetPage) : Bool :=
  let e := getPte s x.gt x.layer
  rcGt (getRec s p (peGroup e)) = x.gt && peKind e = PK.transit && peTicket e = q.ticket.toNat

/-- A page that failed to return: its entry restored, its region released, one record (R183). -/
def returnFail (s : State) (p : Part) (x : RetPage) (v g : Nat) : State :=
  let e := getPte s x.gt x.layer
  let geom := hdGeom (gtHeader s x.gt)
  let s := setPte s x.gt x.layer (mkPte (retKind v) false geom (retWhere v * 2 ^ 16) (peGroup e) (peAge e))
  raise (releaseGrans s x.stack x.gran g) 0x0A p.val 0 (peGroup e) x.layer

/-- One page handled by the return agent. -/
def returnPage (s : State) (p : Part) (q : Enrol) (x : RetPage) (a : PageArrival) : State :=
  let geom := hdGeom (gtHeader s x.gt)
  let g := geGran geom
  let v := memNum s x.record 16
  match stillReturning s p q x, s.wlk.regions.find? fun r => r.stack = x.stack && r.gran = x.gran with
  | false, some r => releaseGrans s x.stack x.gran r.len
  | _, none => s
  | true, some r =>
    match a with
    | .dead => returnFail s p x v g
    | .peer bs =>
      let (ok, t) := bringPage s x.gt x.layer r bs true
      if ok then t else returnFail t p x v g
    | .cave =>
      let caddr := retWhere v % 2 ^ 48
      let whole := granulesWhole s caddr g
      let (page, s) := granulesFrom s caddr g
      let (ok, t) := bringPage s x.gt x.layer r page whole
      if ok then freeRun t caddr g else returnFail t p x v g

/-- An arrival that its page can have: from the cave or from a peer by its return record; a peer sends a whole page. -/
def arrivalFits (s : State) (x : RetPage) (a : PageArrival) : Bool :=
  let k := retKind (memNum s x.record 16)
  match a with
  | .cave => k = PK.cave && s.fls.pfReady
  | .peer bs => k = PK.peer && bs.length = gePage (hdGeom (gtHeader s x.gt))
  | .dead => k = PK.peer

/-- The layer that the agent is at, and the pages of it. -/
def layerPages (q : Enrol) : List RetPage := q.pages.filter fun x => x.layer = q.layer

/-- RETURN_AGENT_LAYER (R183): one layer of the first enrolment, its work charged to WLK_SWEEP.kshare, its tally raised, the
enrolment over after the last layer. -/
def execReturnAgentLayer (p : Part) (xs : List PageArrival) (s : State) : Res :=
  match tget [] s.wlk.enrolled p.val with
  | [] => .next s
  | q :: r =>
    let ps := layerPages q
    let ok : Bool := agentsRun s && xs.length = ps.length &&
      (ps.zip xs).all fun x => !stillReturning s p q x.1 || (arrivalFits s x.1 x.2 && linkRuns s x.1.stack)
    let l' := q.layer + 1
    let e := if l' < q.layers then { q with layer := l' } :: r else r
    let run (s : State) : State :=
      let t := (ps.zip xs).foldl (fun s x => returnPage s p q x.1 x.2) s
      let t := if ps.isEmpty then t else chargeWork t p (tget 0 s.wlk.kshare p.val)
      tallyAdd { t with wlk := { t.wlk with enrolled := tset [] t.wlk.enrolled p.val e } } q.ltally 1
    whenOk ok (tryWork true (.returns p xs) (ps.map fun x => (x.record, 16)) run s) s

/-! ## The repair agent (R343) -/

/-- A repair given up (R343 step 6). -/
def repairFail (s : State) (p : Part) (n gt l : Nat) : State :=
  let v := getRec s p n
  let s := raise s 0x2A p.val (uid 9 (peStack (getPte s gt l))) n l
  if rcIndexed v then
    sendRemoval (setRec s p n (mkRec (rcGt v) false (rcPlace v) (rcLive v) (rcRefs v))) (hdDigest (gtHeader s gt)) gt
  else s

/-- A page fetched from a holder (R343 steps 3 to 5). -/
def repairFrom (s : State) (p : Part) (n gt l : Nat) (bs : List Byte) : State :=
  let geom := hdGeom (gtHeader s gt)
  let e := getPte s gt l
  match takeRegion s p geom false none (poolStacks s p) with
  | none => repairFail s p n gt l
  | some (r, s) =>
    let (ok, s) := bringPage s gt l r bs true
    if ok then raise (releaseGrans s (peStack e) (peGran e) (geGran geom)) 0x29 p.val (uid 9 (peStack e)) n l
    else repairFail (releaseGrans s r.stack r.gran r.len) p n gt l

/-- The agent looks a digest up (R343 step 2): its shard answers, and the first holder listed on another node can be asked; the device's own
shard names the holders itself. -/
def repairAsks (s : State) (gt : Nat) : Bool × State :=
  let hd := gtHeader s gt
  match shardOf s (hdDigest hd) with
  | none => (false, s)
  | some n =>
    if n ≠ ownNode s then (!excluded s n, s)
    else if !shardAlive s (hdDigest hd) then (false, s)
    else
      let (s, x) := shardLookup s (indexMsg s s.isf.map.edition (hdDigest hd) (hdGeom hd) 0)
      match x with
      | .valid _ hs =>
        (match hs.find? fun h => BitVec.ofNat 14 (h.toNat / 2 ^ 50) ≠ ownNode s with
         | some h => (!excluded s (BitVec.ofNat 14 (h.toNat / 2 ^ 50)), s)
         | none => (false, s))
      | .absent | .claimedBy _ | .claimMade | .claimRefused | .outcome _ | .moved _ | .refused => (false, s)

/-- One page of the repair queue: one whose entry is no longer DRAM with cv 0 needs no repair (R348). -/
def repairOne (s : State) (p : Part) (n l : Nat) (x : PeerAnswer) : State :=
  let v := getRec s p n
  let gt := rcGt v
  let e := getPte s gt l
  if gt = 0 || peKind e ≠ PK.dram || peCv e then s
  else if !rcIndexed v then repairFail s p n gt l
  else match repairAsks (chargeWork s p (tget 0 s.ras.repairShare p.val)) gt, x with
    | (true, s), .page true bs => repairFrom s p n gt l bs
    | (_, s), _ => repairFail s p n gt l

/-- REPAIR_AGENT (R343): the first page of the partition's queue; a holder sends a whole page. -/
def execRepairAgent (p : Part) (x : PeerAnswer) (s : State) : Res :=
  match tget [] s.wlk.repair p.val with
  | [] => .next s
  | (n, l) :: r =>
    let fits : Bool := match x with
      | .page _ bs => bs.length = gePage (hdGeom (gtHeader s (rcGt (getRec s p n))))
      | _ => true
    whenOk (agentsRun s && tget true s.ras.repairEn p.val && fits)
      (tryWork true (.repair p x) []
        (fun s => repairOne { s with wlk := { s.wlk with repair := tset [] s.wlk.repair p.val r } } p n l x) s) s

/-! ## Errors of memory (R331, R342, R346) -/

/-- The key of a row for its errors and its repair: of a stack's subarray, or of a unit's array. -/
def dramRowKey (st sub row : Nat) : Nat := (st * 2 ^ 20 + sub) * 2 ^ 9 + row
def sramRowKey (u : UnitId) (row : Nat) : Nat := 2 ^ 60 + u.toNat * 2 ^ 16 + row

/-- A row that wants repair, with the kind of the error behind it (R342, R377). -/
def rowWants (s : State) (key : Nat) (kind : Byte) : State :=
  { s with ras := { s.ras with rowDue := tset 0 s.ras.rowDue key kind } }

/-- A corrected error of a row: the threshold reached within the window makes it due (R342). -/
def rowError (s : State) (key : Nat) (kind : Byte) : State :=
  let ts := (tget [] s.ras.ceRows key).filter fun t => decide ((s.clk.bell - t).toNat < ceWindow s)
  let ts := ts ++ [s.clk.bell]
  let s := { s with ras := { s.ras with ceRows := tset [] s.ras.ceRows key ts } }
  if s.ras.thresh ≠ 0 && decide (s.ras.thresh.toNat ≤ ts.length) then rowWants s key kind else s

/-- An error that a read of a protected row of DRAM finds (R189, R331). -/
def dramError (s : State) (st off : Nat) (e : MemError) : State :=
  let key := dramRowKey st (subOf off) (bf off 15 9)
  match e with
  | .none => s
  | .corrected => rowError (raiseCorrected s 0x20 (uid 9 st) off) key 0x20
  | .uncorrectable => rowWants (raise (poisonLine s (st * 2 ^ 30 + off / 64)) 0x21 2 (uid 9 st) 0 off) key 0x21

/-- A row of a stack is protected (R187). -/
def rowProtected (s : State) (st off : Nat) : Bool := rowCode s st (bf off 24 6) = 0

/-- The device address of a byte of an SRAM array, where the array has one: the shared SRAM, a bound core's local store, the arrays of a hub's
window (R203, R388). -/
def sramAt (s : State) (u : UnitId) (off : Nat) : Option Nat :=
  let i := unitIndex u
  let part (base size : Nat) : Option Nat := if off < size then some (base + off) else none
  if u = 0 then part sramBase (52992 * 1024)
  else match unitKind u with
    | 3 => if (fptGet s u).state = 0 then part (localBase + (fptGet s u).slot.toNat * 0x1_0000) 0x1_0000 else none
    | 17 => part (hubBase + i * 0x400_0000) 0x200_0000
    | 8 => part (hubBase + i * 0x400_0000 + 0x200_0000) 0x10_0000
    | 7 => part (hubBase + i / 16 * 0x400_0000 + 0x210_0000 + i % 16 * 0x2_0000) 0x2_0000
    | _ => none

/-- An error in an SRAM array: an uncorrectable one poisons its word (R331; log entry 84). -/
def sramError (s : State) (u : UnitId) (off : Nat) (e : MemError) : State :=
  let key := sramRowKey u (Config.sramRow u off).toNat
  match e with
  | .none => s
  | .corrected => rowError (raiseCorrected s 0x22 u off) key 0x22
  | .uncorrectable =>
    let s := match sramAt s u off with
      | some a => { s with mem := { s.mem with badWords := insNat (a / 8) s.mem.badWords } }
      | none =>
        if unitKind u = 1 && decide (off < 2 ^ 21) && !s.ras.tileBad.contains (u, off / 8) then
          { s with ras := { s.ras with tileBad := s.ras.tileBad ++ [(u, off / 8)] } }
        else s
    rowWants (raise s 0x23 2 u 0 off) key 0x23

/-- A byte offset that an array has, as far as the spec gives its size. -/
def sramOffOk (u : UnitId) (off : Nat) : Bool := if u = 0 then decide (off < 52992 * 1024) else validUnit u

/-- PROTECTED_SCRUB (R213): one line read, a corrected line written back, an uncorrectable one poisoned. It is an outside access, which
a step boundary of its bank serves (R194). -/
def execProtectedScrub (st : StackId) (off : BitVec 36) (err : MemError) (s : State) : Res :=
  let o := off.toNat / 64 * 64
  whenOk (s.phase = .running && s.mem.scrubHours ≠ 0 && stackIn s st && stackReady s st && decide (o < stackCap s) &&
    rowProtected s st o)
    (tryWork true (.rowScrub st off err) [(st.val * 2 ^ 36 + o, 64)] (fun s => dramError s st o err) s) s

/-- OPEN_SCRUB (R214): one page verified, the work charged to NMC_OSCRUB.share. -/
def execOpenScrub (p : Part) (group : BitVec 24) (layer : Byte) (s : State) : Res :=
  let gt := rcGt (getRec s p group.toNat)
  let l := layer.toNat
  let e := getPte s gt l
  whenOk (agentsRun s && tget 0x3C s.mem.oscrubMin p.val ≠ 0 && gt ≠ 0 && decide (l < geLayers (hdGeom (gtHeader s gt))) &&
    peKind e = PK.dram && peCv e && linkRuns s (peStack e))
    (tryWork true (.pageScrub p group layer) [] (fun s =>
      let s := noteEntry (chargeWork s p (tget 0 s.mem.oscrubShare p.val)) gt e
      if verifyPage s gt l then s else failPage s p gt l) s) s

/-- SRAM_SCRUB (R331): one word of an array. -/
def execSramScrub (u : UnitId) (off : Nat) (err : MemError) (s : State) : Res :=
  whenOk (s.phase = .running && sramOffOk u off) (sramError s u off err) s

/-! ## Row repair (R341) -/

/-- A repair entry of the floor-plan table (R339), 4,096 at most, as one change of it (R32), with its repair record (R377). -/
def addRepair (s : State) (v : Nat) (rec : List Byte) : State :=
  let s := bumpChange s
  let s := if s.plan.repairs.length < 4096 then
      { s with plan := { s.plan with repairs := s.plan.repairs ++ [BitVec.ofNat 64 v] } }
    else s
  bumpChange (queueRepair s rec)

/-- A DRAM row repaired from its subarray's spare rows; with none left the subarray is retired. -/
def repairDramRow (s : State) (st sub row cause : Nat) : State :=
  let k := st * 2 ^ 20 + sub
  let n := tget 0 s.plan.spareRows k
  let wh := st * 2 ^ 55 + sub * 2 ^ 35
  if n < 4 then
    addRepair { s with plan := { s.plan with spareRows := tset 0 s.plan.spareRows k (n + 1) } }
      (2 ^ 60 + wh + row * 2 ^ 19) (repairEntry 3 (uid 9 st) 0 cause (sub * 2 ^ 9 + row))
  else
    addRepair { s with plan := { s.plan with deadSubs := insNat k s.plan.deadSubs } }
      (2 * 2 ^ 60 + wh) (repairEntry 4 (uid 9 st) 0 cause (sub * 2 ^ 9))

/-- An SRAM row repaired from the spare rows of its array, as many as they are (log entry 44). -/
def repairSramRow (s : State) (u : UnitId) (row cause : Nat) : State :=
  let k := 2 ^ 40 + u.toNat
  let n := tget 0 s.plan.spareRows k
  if n < Config.sramSpares u then
    addRepair { s with plan := { s.plan with spareRows := tset 0 s.plan.spareRows k (n + 1) } }
      (3 * 2 ^ 60 + u.toNat * 2 ^ 28 + row * 2 ^ 12) (repairEntry 5 u 0 cause row)
  else s

/-- ROW_SOFT_REPAIR (R341, R342): a row that is due; the copy of a DRAM row waits for the in-bank manifests of its bank (R348). -/
def execRowSoftRepair (x : RepairSite) (s : State) : Res :=
  let done (key : Nat) : State :=
    { s with ras := { s.ras with rowDue := tdel s.ras.rowDue key, ceRows := tdel s.ras.ceRows key } }
  match x with
  | .dramRow st sub row =>
    let key := dramRowKey st sub.toNat row.toNat
    whenOk (s.phase = .running && tget 0 s.ras.rowDue key ≠ 0 && subIn s st sub.toNat && stackIn s st &&
      !manifestOn s (rowAddr st sub.toNat row.toNat) 1024)
      (repairDramRow (done key) st sub.toNat row.toNat (tget 0 s.ras.rowDue key).toNat) s
  | .sramRow u row =>
    let key := sramRowKey u row.toNat
    whenOk (s.phase = .running && tget 0 s.ras.rowDue key ≠ 0) (repairSramRow (done key) u row.toNat (tget 0 s.ras.rowDue key).toNat) s

/-! ## The loss of a stack (R344) -/

/-- The pages of a lost stack handed to repair: how many, and the state after. -/
def losePages (s : State) (st : Nat) (p : Part) : Nat × State :=
  let lost := (recordPages s p).filter fun x =>
    let e := getPte s x.2.1 x.2.2
    peKind e = PK.dram && peCv e && peStack e = st
  (lost.length, lost.foldl (fun s x =>
    queuePage (setPte s x.2.1 x.2.2 (getPte s x.2.1 x.2.2 - 8)) p x.1 x.2.2) s)

/-- STACK_LOSS (R344): once for each stack that has left service. -/
def execStackLoss (st : StackId) (s : State) : Res :=
  whenOk (agentsRun s && !stackIn s st && !s.mem.lost.toNat.testBit st.val)
    (tryWork true (.stackLoss st) [] (fun s =>
      let (n, t) := losePages s st 0
      let (m, t) := losePages t st 1
      raise { t with mem := { t.mem with lost := setF t.mem.lost st.val 1 1 } } 0x28 2 (uid 9 st) (n + m) 0) s) s

end Sys2Proof.Machine
end

