-- ==== Sys2Proof/Machine/Abort.lean ====
section
/-! DEFINITION. Aborts: of a ticket, of a request, of a logical device's work (R76 to R79, R91, R92, R109, R110, R128, R132). -/
namespace Sys2Proof.Machine

/-- What an abort before the commit frees: the destination of a press (R152), the region of a CREAD (R330), the message of a
QPSEND (R281), a batch step's list (R128), and the requests and searches that the operation waits for. -/
def abortUndo (s : State) (o : Op) : State :=
  let t := o.ticket
  let s := { s with sec := { s.sec with toAppend := s.sec.toAppend.filter fun x => x.2 ≠ some t } }
  let s := ixDrop (dropOwned s fun w => match w with
    | .ferryRead u _ _ | .ferryWrite u _ _ | .atomic u _ | .reduce u | .inval u | .index u _ | .share u _ => u = t
    | _ => false) t
  if o.cls = 4 && o.op = 8 then releaseGrans s (bodyF o 101 5) (bodyF o 106 22) 1
  else if o.cls = 9 && o.op = 0 then
    match regionOf s o.part (bodyF o 32 64) with
    | some r => releaseGrans s r.stack r.gran r.len
    | none => s
  else if o.cls = 8 && o.op = 6 then qpsendAbort s t
  else if o.cls = 3 && o.op = 3 then
    { s with ldg := { s.ldg with batch := s.ldg.batch.filter fun b => match b.2 with | some x => x.ticket ≠ t | none => true } }
  else s

/-- A hand-off that ends before its destination has accepted it: its request goes back to its state before HANDING (R82, R108). -/
def handUndo (s : State) (t : Ticket) (st : Byte) : State :=
  handEnd (dropOwned s fun w => match w with | .hand u => u = t | _ => false) t st

/-- The geometry of the page that a press names. -/
def pressGeom (s : State) (o : Op) : Nat :=
  match (activeEntry s o).bind fun e => vatPage s e (bodyF o 52 12) (bodyF o 44 8) with
  | some gt => hdGeom (gtHeader s gt)
  | none => 0

/-- The geometry of the page of a group record that an operation names. -/
def recordGeom (s : State) (o : Op) : Nat := ((recordPage s o).map fun x => x.2).getD 0

/-- The number of an operation's commit step (R92), counted from 1: its last step where R92 names what its chapter does last, the
step after the build for LSTEP (R118). DESIGN CHOICE (log entry 55): the first step of an instruction that commits at a first
write, first packet or first abort. -/
def commitStepOf (s : State) (o : Op) : Nat :=
  match o.cls, o.op with
  | 3, 3 => ceilDiv s.ldg.entries.length 4096 + 2
  | 4, 4 => ceilDiv (bodyF o 212 12 + 1) 256
  | 4, 6 => ceilDiv (bodyF o 44 12 + 1) 8
  | 4, 8 => 2 * pressChunks (pressGeom s o) + 2
  | 4, 9 => verifySteps (recordGeom s o)
  | 5, _ => ibSteps o
  | 9, 0 => geGran (recordGeom s o) + 1
  | 9, 1 => cwGrans s o + 1
  | _, _ => 1

/-- Whether the step that a failed check holds is the operation's commit step or a later one (R92, R334): of one that writes group by
group, the first step that has a group to write; the commit of FHAND lies at its destination. -/
def heldAtCommit (s : State) (o : Op) : Bool :=
  match o.cls, o.op, o.due with
  | 8, 5, _ => false
  | 5, _, _ | _, _, none => decide (commitStepOf s o ≤ o.ran + 1)
  | _, _, some d => decide (ceilDiv d.steps (max 1 d.total) ≤ o.ran + 1)

/-- The abort of a ticket, decided at its pre-emption point (R77, R91): the status of the abort, and the state. An operation not yet
committed has changed no destination; one whose steps have begun to write is committed. While the reference is lost the stack of an
in-bank manifest rests after it (R46). -/
def abortTicket (s : State) (t : Ticket) : Byte × State :=
  match opGet s t with
  | none => (St.tooLate, s)
  | some o =>
    match o.phase with
    | .queued => (St.aborted, settle (opEnd s t St.aborted 0) 2)
    | .launched =>
      if hasWritten o || (o.held.isSome && heldAtCommit s o) then (St.tooLate, s)
      else if o.cls = 8 && o.op = 5 then
        (St.aborted, opUpd (handUndo s t St.aborted) t fun x => { x with steps := if o.await = 0 then 0 else x.steps })
      else
        let s := opUpd (opEnd (abortUndo s o) t St.aborted o.ran) t fun x => { x with held := none, due := none }
        (St.aborted, if s.clk.refPresent then s else restStacks s)
    | _ => (St.tooLate, s)

/-- Who may abort a ticket (R79). -/
def mayAbort (x : Ctx) (c : CtxId) (o : Op) : Bool :=
  if privOf x = 2 then true else if privOf x = 1 then o.part = partOf x else o.ticket.toNat / 2 ^ 25 = c.val

/-- ABORT (R77 to R79, R91): a ticket of 32 bits in s[sa], the status in s[sd]. -/
def execAbort (c : CtxId) (w : Ins64) (s : State) : Res :=
  issue64 0 true c w (fun s =>
    let x := ctxGet s c
    let v := opA x w.sa
    match (if v.toNat < 2 ^ 32 then opGet s (v.setWidth 32) else none) with
    | none => .adv (statusTo s c w.sd.toNat St.tooLate)
    | some o =>
      if mayAbort x c o then
        let (st, s) := abortTicket s o.ticket
        .adv (statusTo s c w.sd.toNat st)
      else .adv (statusTo s c w.sd.toNat St.protect)) s

/-- A request that a running batch step lists is marked: it goes to ABORTED at the step's end, and the first mark stays. -/
def markAborted (s : State) (p : Nat) (r : W32) (st : Byte) : State :=
  match tget none s.ldg.batch p with
  | none => s
  | some b =>
    let items := b.items.map fun i => if i.request = r && i.aborted.isNone then { i with aborted := some st } else i
    { s with ldg := { s.ldg with batch := tset none s.ldg.batch p (some { b with items := items }) } }

/-- A request ended by LABORT or by the disable of its owner (R108): at once, or at the end of its running step. -/
def abortEntry (s : State) (e : LEntry) : State :=
  if e.state.toNat = LSt.admitted then moveEntry s { e with status := St.aborted } LSt.aborted
  else if e.state.toNat = LSt.running then markAborted s e.part.val e.request St.aborted
  else s

/-- The tickets in flight that a test names. -/
def ticketsOf (s : State) (f : Op → Bool) : List Ticket :=
  (s.ops.filter fun o => o.phase ≠ .recorded && f o).map fun o => o.ticket

def abortAll (s : State) (ts : List Ticket) : State := ts.foldl (fun s t => (abortTicket s t).2) s

/-- The checks of LABORT, made at its launch (R109, R132). -/
def labortOk (s : State) (o : Op) : Bool := (entryIn s o.part o.request.toNat).isSome

/-- A ticket of a request aborted by its LABORT; a plan's notes the request, for the others of its step (R109). -/
def abortByReq (r : W32) (s : State) (t : Ticket) : State :=
  let (st, s) := abortTicket s t
  if st = St.aborted then opUpd s t fun o => { o with byReq := some r } else s

/-- LABORT (R109, R132): TOO_LATE where its request had ended at its launch or has gone FREE since; else the tickets of the request, then its entry. A hand-off under way is decided by the abort of its
ticket. -/
def execLabort (p : Posted) (s : State) : Res :=
  posted 1 false (fun _ _ => []) 3 5 p (fun o s =>
    let e := entryOf s o.request.toNat
    if o.settled || e.part ≠ o.part || !liveState e then opEnd s o.ticket St.tooLate 0
    else
      let ts := ticketsOf s fun x => x.request = o.request && x.ticket ≠ o.ticket
      let s := ts.foldl (abortByReq o.request) s
      opEnd (abortEntry s (entryOf s o.request.toNat)) o.ticket St.complete (1 + ceilDiv ts.length 64)) s

end Sys2Proof.Machine
end

