-- ==== Sys2Proof/Machine/Control.lean ====
section
/-! DEFINITION. The control-flow instructions of class 1 (R51, R81, R84, R89). -/
namespace Sys2Proof.Machine

/-- The pc of a context set by control flow. -/
def jumpTo (s : State) (c : CtxId) (pc : Word) : State := ctxSet s c { ctxGet s c with pc := pc }

/-- BR (R84): pc := pc + 8 × imm. -/
def execBr (c : CtxId) (w : Ins64) (s : State) : Res :=
  issue64 0 true c w (fun s => .jump (jumpTo s c ((ctxGet s c).pc + 8 * w.imm.signExtend 64))) s

/-- The target s[sa] + b of a jump; ILLEGAL where it is not 8-byte aligned (R84). -/
def jump64 (c : CtxId) (w : Ins64) (link : State → State) (s : State) : Res :=
  issue64 0 true c w (fun s =>
    let x := ctxGet s c
    let t := opA x w.sa + opB x w
    if t.toNat % 8 ≠ 0 then .exc s Cause.illegal none else .jump (jumpTo (link s) c t)) s

/-- JMP (R84): pc := s[sa] + b. -/
def execJmp (c : CtxId) (w : Ins64) (s : State) : Res := jump64 c w id s

/-- JAL (R84): s[sd] := pc + 8, then as JMP; the target is taken from the registers as they stood. -/
def execJal (c : CtxId) (w : Ins64) (s : State) : Res :=
  jump64 c w (fun s => regSet s c w.sd.toNat ((ctxGet s c).pc + 8)) s

/-- CALL (R81): entry of the gate table of the level above, its read checked at that level. DESIGN CHOICE (log entry 110): a
poisoned gate entry raises POISON in the caller, with fa set. -/
def execCall (c : CtxId) (w : Ins64) (s : State) : Res :=
  issue64 0 true c w (fun s =>
    let x := ctxGet s c
    if 2 ≤ privOf x then .exc s Cause.privilege none
    else
      let level := privOf x + 1
      let a := (if level = 2 then x.gateSt else x.gateOp) + 8 * (w.imm.setWidth 8).setWidth 64
      let k := memKey (c / 8) a.toNat
      if a.toNat % 8 ≠ 0 then .exc s Cause.align (some a)
      else if !ctxMemOk s c level false a.toNat 8 then .exc s Cause.protect (some a)
      else if poisoned s k 8 then .exc s Cause.poison (some a)
      else .jump (ctxSet s c (enterLevel x level (x.pc + 8) (BitVec.ofNat 64 (memNum s k 8))))) s

/-- ERET (R81): pc and cs restored from the level's saved registers; PRIVILEGE at tenant level. -/
def execEret (c : CtxId) (w : Ins64) (s : State) : Res :=
  issue64 0 true c w (fun s =>
    let x := ctxGet s c
    if privOf x = 0 then .exc s Cause.privilege none else .jump (ctxSet s c (returnFrom x))) s

/-- BREAK (R80): raises BREAK. -/
def execBreak (c : CtxId) (w : Ins64) (s : State) : Res := issue64 0 true c w (fun s => .exc s Cause.brk none) s

/-- NOP (R84): no effect. -/
def execNop (c : CtxId) (w : Ins64) (s : State) : Res := issue64 0 true c w (fun s => .adv s) s

/-- YIELD (R51, R84): no issue until every other READY context of the core of equal or higher cs.prio has issued. -/
def execYield (c : CtxId) (w : Ins64) (s : State) : Res :=
  issue64 0 true c w (fun s =>
    let x := ctxGet s c
    let ds := (slotCtxs c).filter fun d =>
      d ≠ c.val && stateOf (ctxGet s d) = 1 && decide (prioOf x ≤ prioOf (ctxGet s d))
    .adv (ctxSet s c { withState x 1 with yieldFor := ds })) s

/-- A context number that names a context of a core slot in the partition of context c, with a core bound
(R25, R51). -/
def inPartition (s : State) (c : Nat) (n : Nat) : Bool :=
  decide (n < 128) && slotPart s (n / 8) = partOf (ctxGet s c) && holdsCore s (partOf (ctxGet s c)) (n / 8) &&
  (coreOf s (n / 8)).isSome

/-- The handles of an issuer less those that a CSTART mask clears: bit i of the mask names q_i, bit 16 + i t_i,
i below 10 for t. -/
def keptHandles (t : Table W32) (lo n mask : Nat) : Table W32 :=
  t.filter fun (k, _) => !(decide (k < n) && mask.testBit (lo + k))

/-- A context as CSTART leaves it (R51, R84). -/
def startedCtx (issuer target : Ctx) (entry : Word) (priv mask : Nat) : Ctx :=
  let take (w : Word) (lo n : Nat) : Word := setF w lo n (getF issuer.cs lo n)
  let cs := take (take (take (take (take target.cs 24 8) 20 4) 32 4) 19 1) 18 1
  withState (withPriv { target with
    q := keptHandles issuer.q 0 16 mask, t := keptHandles issuer.t 16 10 mask, pc := entry, cs := cs,
    wait := .none, yieldFor := [] } priv) 1

/-- An operator-level program started in a partition: the role it selects, if any, is taken up where none is in force, else its
change is issued, and one that names the role in force ends a change under way (R10, R11; log entry 108). -/
def loadProgram (s : State) (p : Nat) (entry : Word) : State :=
  match Config.roleOf p entry with
  | none => s
  | some n =>
    let r := roleOfPart s p
    let past := (r.past ++ r.cur.toList).eraseDups.filter fun x => x ≠ roleOfNum n
    if r.cur.isNone || r.cur = some (roleOfNum n) then setRole s p { cur := some (roleOfNum n), past := past }
    else setRole s p { r with next := some (roleOfNum n), past := past }

/-- CSTART (R10, R11, R51, R84). -/
def execCstart (c : CtxId) (w : Ins64) (s : State) : Res :=
  issue64 1 true c w (fun s =>
    let x := ctxGet s c
    let n := (opA x w.sa).toNat
    let priv := getF w.imm 0 2
    let ok := inPartition s c n && stateOf (ctxGet s n) = 0 && priv ≠ 3 && decide (priv ≤ privOf x)
    if ok then
      let t := statusTo (ctxSet s n (startedCtx x (ctxGet s n) (getS x w.sb.toNat) priv (getF w.imm 2 26))) c w.sd.toNat St.complete
      .adv (if priv = 1 then loadProgram t (partOf x).val (getS x w.sb.toNat) else t)
    else .adv (statusTo s c w.sd.toNat St.protect)) s

/-- A context ended or halted: its wait and any post it held are dropped (R62, R76, R89). -/
def endContext (s : State) (n st : Nat) : State :=
  ctxSet s n { withState (ctxGet s n) st with wait := .none, yieldFor := [] }

/-- CSTOP (R84, R89): the context goes to IDLE. -/
def execCstop (c : CtxId) (w : Ins64) (s : State) : Res :=
  issue64 1 true c w (fun s =>
    let n := (opA (ctxGet s c) w.sa).toNat
    if inPartition s c n then .adv (statusTo (endContext s n 0) c w.sd.toNat St.complete)
    else .adv (statusTo s c w.sd.toNat St.protect)) s

/-- CHALT (R25, R84, R89): a context of a slot that has a core, READY, RUN or in WAIT, goes to HALT. -/
def execChalt (c : CtxId) (w : Ins64) (s : State) : Res :=
  issue64 2 true c w (fun s =>
    let n := (opA (ctxGet s c) w.sa).toNat
    let st := stateOf (ctxGet s n)
    if n < 128 && (st = 1 || st = 2 || st = 3) && (coreOf s (n / 8)).isSome then .adv (endContext s n 4) else .adv s) s

/-- CRESUME (R25, R84): a HALT context of a core slot that has a core goes to READY at s[sb]. -/
def execCresume (c : CtxId) (w : Ins64) (s : State) : Res :=
  issue64 2 true c w (fun s =>
    let x := ctxGet s c
    let n := (opA x w.sa).toNat
    if n < 128 && stateOf (ctxGet s n) = 4 && (coreOf s (n / 8)).isSome then
      .adv (ctxSet s n { withState (ctxGet s n) 1 with pc := getS x w.sb.toNat })
    else .adv s) s

end Sys2Proof.Machine
end

