-- ==== Sys2Proof/Machine/Cxl.lean ====
section
/-! DEFINITION. The host port: its link, host loads and stores, the back-invalidation directory and its recalls, extents, and
the logical devices (R286 to R302, R306). -/
namespace Sys2Proof.Machine

/-! ## Logical devices, events, extents -/

def ldGet (s : State) (n : Nat) : LdCtl := tget {} s.cxd.lds n
def ldSet (s : State) (n : Nat) (x : LdCtl) : State := { s with cxd := { s.cxd with lds := tset {} s.cxd.lds n x } }

/-! The states of CXD_LDCTL.state (R299). -/
namespace Ld
abbrev enabled : Nat := 0
abbrev disabling : Nat := 1
abbrev disabled : Nat := 2
abbrev failed : Nat := 3
end Ld

/-- A host range meets an extent. -/
def extMeets (e : Extent) (a n : Nat) : Bool := decide (a < e.base + e.len) && decide (e.base < a + n)
def extHolds (e : Extent) (a n : Nat) : Bool := decide (e.base ≤ a) && decide (a + n ≤ e.base + e.len)

/-- An extent's state changed. -/
def extTo (s : State) (e : Extent) (st : ExtState) : State :=
  { s with cxd := { s.cxd with extents := updFirst (fun x => x = e) (fun x => { x with state := st }) s.cxd.extents } }

/-- The MEMORY entry that a host access of the device's own memory needs (R381). -/
def hostGrant (s : State) (ld : LdId) (a n : Nat) : Bool :=
  s.sec.prot.any fun (_, e) =>
    let base := getF e 76 52 * 2 ^ 12
    getF e 44 2 = 1 && decide (base ≤ a) && decide (a + n ≤ base + 2 ^ (12 + getF e 70 6)) && (getF e 54 16).testBit ld.val

/-- The status with which a host request to a line is refused, if it is (R291, R293, R294, R249). -/
def hostRefused (s : State) (ld : LdId) (dpa : Nat) : Option Byte :=
  let mine := s.cxd.extents.filter fun e => e.ld = ld && extHolds e dpa 64
  if mine.any fun e => e.state = .allocated then
    match dpaLocal s dpa with
    | some a => if hostGrant s ld a 64 && reachable s a 64 then none else some St.protect
    | none => if (dpaFabric s dpa).isSome then none else some St.protect
  else if mine.any fun e => e.state = .revoking || e.state = .released then some St.revoked
  else some St.protect

/-- CXL.mem of a logical device is served (R287, R299, R301, R302). -/
def memServed (s : State) (ld : LdId) : Bool :=
  s.phase = .running && memService s && hostUp s && s.cxd.memok && !s.cxd.ideInsecure && (ldGet s ld).state.toNat = Ld.enabled

/-! ## The directory (R295) -/

/-- The entries of a line's set. -/
def dirSet (s : State) (line : Nat) : List DirEntry :=
  s.cxd.dir.filter fun d => d.slot / 4 = line % 2 ^ (s.cxd.dirN.toNat - 2)

/-- A directory entry as its table holds it. -/
def dirNum (d : DirEntry) : Nat := d.line.toNat * 2 ^ 24 + d.ld.val * 2 ^ 20 + (if d.excl then 2 else 1) * 2 ^ 18

def dirWrite (s : State) (slot v : Nat) : State := memWriteNum s (s.cxd.dirBase.toNat * 64 + 8 * slot) 8 v

/-- Entries leave the directory. -/
def dirDrop (s : State) (f : DirEntry → Bool) : State :=
  let gone := s.cxd.dir.filter f
  gone.foldl (fun s d => dirWrite s d.slot 0) { s with cxd := { s.cxd with dir := s.cxd.dir.filter fun d => !f d } }

/-- A line entered for a host that acquires it; none where its set has no free way (R295). -/
def dirAcquire (s : State) (ld : LdId) (line : Nat) (want : LineWish) : Option State :=
  if want = .uncached || !s.cxd.flit256 || s.cxd.dirN = 0 then some s
  else
    let is (d : DirEntry) : Bool := d.line.toNat = line && d.ld = ld
    match s.cxd.dir.find? is with
    | some d =>
      let d' := { d with excl := d.excl || want = .exclusive }
      some (dirWrite { s with cxd := { s.cxd with dir := updFirst is (fun _ => d') s.cxd.dir } } d.slot (dirNum d'))
    | none =>
      let set := line % 2 ^ (s.cxd.dirN.toNat - 2)
      let used := (dirSet s line).map fun d => d.slot % 4
      match [0, 1, 2, 3].find? fun w => !used.contains w with
      | none => none
      | some w =>
        let d : DirEntry := { slot := set * 4 + w, line := BitVec.ofNat 40 line, ld := ld, excl := want = .exclusive }
        some (dirWrite { s with cxd := { s.cxd with dir := s.cxd.dir ++ [d] } } d.slot (dirNum d))

/-! ## The landing for hosts (R249, R251) -/

/-- The waiting stores of a logical device to a node's other blocks leave, so that stores to one target stay in issue order (R251; log
entry 36). -/
def flushOthers (s : State) (ld : LdId) (n : Node) (b : Nat) : State :=
  (((s.isf.lstores.filter fun w => w.ld = ld && w.block ≠ b && w.block * 4096 / 2 ^ 50 = n.toNat).map fun w => w.block).eraseDups).foldl
    flushBlock s

/-- Reads under way of a block that a store changes: the block that they bring is not kept (R251). -/
def staleReads (out : List OutReq) (b : Nat) : List OutReq :=
  out.map fun r => match r.owner with
    | .load _ _ _ | .share _ _ => if reqBlock r = b then { r with noKeep := true } else r
    | _ => r

/-- A host store to another node: it updates the held block, and waits to be coalesced. -/
def landStore (s : State) (ld : LdId) (dpa : Nat) (bs : List (Option Byte)) (poison : Bool) : State :=
  match dpaFabric s dpa with
  | none => storesEnd s [(ld, BitVec.ofNat 64 dpa)] true
  | some (n, x) =>
    if excluded s n then storesEnd (deadRecord s n) [(ld, BitVec.ofNat 64 dpa)] true
    else
      let b := (n.toNat * 2 ^ 50 + x) / 4096
      let put (old : List Byte) : List Byte :=
        (indexed old).map fun (i, o) => if x % 4096 ≤ i then ((bs.getD (i - x % 4096) none).getD o) else o
      let s := flushOthers s ld n b
      let cache := if poison then s.isf.lcache.filter fun y => y.1 ≠ b
        else s.isf.lcache.map fun y => if y.1 = b then (b, put y.2) else y
      let w : LStore := { block := b, ld := ld, dpa := BitVec.ofNat 64 dpa, at_ := x % 4096, bytes := bs, poison := poison }
      { s with isf := { s.isf with lcache := cache, lstores := s.isf.lstores ++ [w], out := staleReads s.isf.out b } }

/-- A host load from another node: from the held block, or the block is read; the host's earlier stores to it go first. -/
def landLoad (s : State) (ld : LdId) (dpa : Word) (want : LineWish) : State :=
  match dpaFabric s dpa.toNat with
  | none => loadEnd s ld dpa want none
  | some (n, x) =>
    let b := (n.toNat * 2 ^ 50 + x) / 4096
    match s.isf.lcache.find? fun y => y.1 = b with
    | some (_, bs) => loadEnd s ld dpa want (some ((bs.drop (x % 4096 / 64 * 64)).take 64, false))
    | none =>
      if excluded s n then loadEnd (deadRecord s n) ld dpa want none
      else sendRequest (flushBlock (flushOthers s ld n b) b) (.load ld dpa want) true
        { op := 0x01, dst := n, off := BitVec.ofNat 50 (x / 4096 * 4096), edition := s.isf.map.edition, arg := 4096 }

/-! ## Host loads and stores (R291, R295, R298, R306) -/

/-- A load of the device's own line. -/
def loadOwn (s : State) (ld : LdId) (dpa : Word) (want : LineWish) (err : MemError) (a : Nat) : State :=
  let s := if a < 2 ^ 41 && rowProtected s (a / 2 ^ 36) (a % 2 ^ 36) then dramError s (a / 2 ^ 36) (a % 2 ^ 36) err else s
  let bad := poisoned s a 64
  let s := if bad then logEvent s ld.val Ev.poison St.poison dpa.toNat else s
  loadEnd s ld dpa want (some (memRead s a 64, bad))

/-- A load whose line the directory records, or that acquires none: it waits where its bank is busy, and behind a poison injected into
its line (R194, R306). -/
def loadGo (s : State) (ld : LdId) (dpa : Word) (want : LineWish) (err : MemError) : State :=
  match dpaLocal s dpa.toNat with
  | none => landLoad s ld dpa want
  | some a =>
    if bankBusy s a 64 || s.mem.waiting.contains (.inject (a / 64)) then
      { s with mem := { s.mem with waiting := s.mem.waiting ++ [.hostRead ld dpa want err] } }
    else loadOwn s ld dpa want err a

/-- An accepted load: where its set has no free way the way granted earliest is recalled first, and a line under recall is
granted anew only after the held write. One that waited while its extent began to be revoked gets its data and no line (R294; log
entry 135). -/
def loadAccepted (s : State) (ld : LdId) (dpa : Word) (want : LineWish) (err : MemError) : State :=
  let line := dpa.toNat / 64
  let wait (s : State) : State := { s with cxd := { s.cxd with accepted := s.cxd.accepted ++ [.hostRead ld dpa want err] } }
  let want := if s.cxd.extents.any fun e => e.ld = ld && e.state = .revoking && extHolds e (line * 64) 64 then .uncached else want
  if want ≠ .uncached && s.cxd.recalls.any fun r => r.line.toNat = line then wait s
  else match dirAcquire s ld line want with
    | some s => loadGo s ld dpa want err
    | none => wait (startRecalls s (((dirSet s line).take 1).map fun d => d.line.toNat))

/-- The error response to a load (R291). -/
def loadError (s : State) (ld : LdId) (dpa : Word) (st : Byte) : State :=
  logEvent (loadEnd s ld dpa .uncached none) ld.val Ev.refused st dpa.toNat

/-- HOST_MEM_READ (R290, R291, R295, R305): a line. -/
def execHostMemRead (ld : LdId) (dpa : Word) (want : LineWish) (err : MemError) (s : State) : Res :=
  let d : Word := BitVec.ofNat 64 (dpa.toNat / 64 * 64)
  whenOk (memServed s ld)
    (match hostRefused s ld d.toNat with
     | some st => loadError s ld d st
     | none => loadAccepted s ld d want err) s

/-- The bytes that a store's byte enables select. -/
def enabledBytes (data : BitVec 512) (bytes : BitVec 64) : List (Option Byte) :=
  (List.range 64).map fun i => if bytes.toNat.testBit i then some (BitVec.ofNat 8 (data.toNat >>> (8 * i))) else none

/-- A store to the device's own line. -/
def storeOwn (s : State) (ld : LdId) (dpa : Word) (bs : List (Option Byte)) (poison : Bool) (a : Nat) : State :=
  let s := (runsOf 0 [] bs).foldl (fun s (i, r) => memWrite s (a + i) r) s
  storesEnd (if poison then poisonLine s (a / 64) else s) [(ld, dpa)] false

/-- A store that was accepted: it waits where its bank is busy or its row is named by an in-bank manifest. -/
def storeGo (s : State) (ld : LdId) (dpa : Word) (data : BitVec 512) (bytes : BitVec 64) (poison : Bool) : State :=
  match dpaLocal s dpa.toNat with
  | none => landStore s ld dpa.toNat (enabledBytes data bytes) poison
  | some a =>
    if bankHolds s true a 64 then
      { s with mem := { s.mem with waiting := s.mem.waiting ++ [.hostWrite ld dpa data bytes poison] } }
    else storeOwn s ld dpa (enabledBytes data bytes) poison a

/-- HOST_MEM_WRITE (R290, R291, R298). -/
def execHostMemWrite (ld : LdId) (dpa : Word) (data : BitVec 512) (bytes : BitVec 64) (poison : Bool) (s : State) : Res :=
  let d : Word := BitVec.ofNat 64 (dpa.toNat / 64 * 64)
  whenOk (memServed s ld)
    (match hostRefused s ld d.toNat with
     | some st => logEvent (storesEnd s [(ld, d)] true) ld.val Ev.refused st d.toNat
     | none => storeGo s ld d data bytes poison) s

/-! ### Waiting accesses (R194) -/

/-- Waiting accesses, reads before writes. -/
def readsFirst (l : List BankWait) : List BankWait :=
  let read (w : BankWait) : Bool := match w with | .hostRead _ _ _ _ => true | _ => false
  l.filter read ++ l.filter fun w => !read w

/-- What is not a packet among the waiting accesses. -/
def waitHosts (s : State) : List BankWait := s.mem.waiting.filter fun w => match w with | .packet _ => false | _ => true

/-- A host access of a line of the device's own memory waits at its bank or for its line (R306). -/
def lineWaits (s : State) (line : Nat) : Bool :=
  (s.mem.waiting ++ s.cxd.accepted).any fun w => match w with
    | .hostRead _ dpa _ _ | .hostWrite _ dpa _ _ _ | .lineBack _ dpa _ => dpaLocal s dpa.toNat = some (line * 64)
    | .inject l => l = line
    | .packet _ => false

/-- A line of the device's own memory poisoned by injection: served in arrival order, so behind what waits for the line (R306). -/
def injectLine (s : State) (line : Nat) : State :=
  if lineWaits s line then { s with mem := { s.mem with waiting := s.mem.waiting ++ [.inject line] } } else poisonLine s line

/-- Modified data written back by the holder of a line: an outside write, which waits where its bank is busy or its row is named by an
in-bank manifest (R194). -/
def writeBack (s : State) (ld : LdId) (line : Nat) (v : BitVec 512) : State :=
  match dpaLocal s (line * 64) with
  | some a =>
    if bankHolds s true a 64 then
      { s with mem := { s.mem with waiting := s.mem.waiting ++ [.lineBack ld (BitVec.ofNat 64 (line * 64)) v] } }
    else memWrite s a (leBytes 64 v.toNat)
  | none => landStore s ld (line * 64) ((leBytes 64 v.toNat).map some) false

/-- One waiting host access served. -/
def serveHost (s : State) : BankWait → State
  | .inject l => injectLine s l
  | .lineBack ld dpa v => writeBack s ld (dpa.toNat / 64) v
  | .hostRead ld dpa want err => loadGo s ld dpa want err
  | .hostWrite ld dpa data bytes poison => storeGo s ld dpa data bytes poison
  | _ => s

/-- Waiting host accesses in the order of service: reads first, in arrival order, but none past an injected poison (R194, R306). -/
def hostOrder (now : List BankWait) : List BankWait → List BankWait
  | [] => readsFirst now
  | .inject l :: r => readsFirst now ++ .inject l :: hostOrder [] r
  | w :: r => hostOrder (now ++ [w]) r

/-- The accesses that wait at banks served, host reads first in arrival order; those still held wait on (R194). -/
def serveWaiting (s : State) : State :=
  let hs := hostOrder [] (waitHosts s)
  let s := { s with mem := { s.mem with waiting := s.mem.waiting.filter fun w => match w with | .packet _ => true | _ => false } }
  retryHeld (hs.foldl serveHost s)

/-! ## Recalls (R296, R297) -/

/-- Held writes of packets tried again after a recall; those of contexts and works, then the loads that wait, come after (`andServe`). -/
def recallsEnd (s : State) : State := retryHeld s

/-- The loads that wait for a way or for a held write of their line (R306: the held write first; log entry 135), then the poison injected
behind them. -/
def grantLoads (s : State) : State :=
  let s := s.cxd.accepted.foldl (fun s w => match w with
    | .hostRead ld dpa want err => loadAccepted s ld dpa want err
    | _ => s) { s with cxd := { s.cxd with accepted := [] } }
  if s.mem.waiting.any fun w => match w with | .inject _ => true | _ => false then serveWaiting s else s

/-- A line leaves its holder: an exclusive one's modified data comes back. -/
def lineLeaves (s : State) (d : DirEntry) (back : Option (BitVec 512)) : State :=
  let s := match back with | some v => if d.excl then writeBack s d.ld d.line.toNat v else s | none => s
  dirDrop s fun e => e = d

/-- The directory entry of a line and its holder. -/
def dirFind (s : State) (ld : LdId) (line : BitVec 40) : Option DirEntry := s.cxd.dir.find? fun d => d.line = line && d.ld = ld

/-- A logical device whose host still answers for lines it holds. -/
def holderUp (s : State) (ld : LdId) : Bool := s.phase = .running && hostUp s && (ldGet s ld).state.toNat = Ld.enabled

/-- HOST_LINE_RELEASE (R295): a line dropped, or written back, by its host. -/
def hostLineRelease (ld : LdId) (line : BitVec 40) (back : Option (BitVec 512)) (s : State) : Res :=
  match dirFind s ld line with
  | none => .next s
  | some d => whenOk (holderUp s ld) (recallsEnd (lineLeaves s d back)) s

/-- BI_RESPONSE (R296): the recall ends and the held write is applied. -/
def biResponse (ld : LdId) (line : BitVec 40) (back : Option (BitVec 512)) (s : State) : Res :=
  let is (r : Recall) : Bool := r.line = line && r.ld = ld
  let t := { s with cxd := { s.cxd with recalls := s.cxd.recalls.filter fun r => !is r } }
  let t := match dirFind t ld line with | some d => lineLeaves t d back | none => t
  whenOk (holderUp s ld && s.cxd.recalls.any is) (recallsEnd t) s

/-- A line marked poisoned where its memory lies: on another node by a poisoned WRITE whose data no reader gets. -/
def poisonHeld (s : State) (d : DirEntry) : State :=
  match dpaLocal s (d.line.toNat * 64) with
  | some a => poisonLine s (a / 64)
  | none =>
    let (b, s) := undefinedBytes s 64
    landStore s d.ld (d.line.toNat * 64) (b.map some) true

/-- A logical device's lines leave the directory, exclusive ones poisoned; its recalls end (R297, R300). -/
def clearHolder (s : State) (ld : LdId) : State :=
  let ex := s.cxd.dir.filter fun d => d.ld = ld && d.excl
  let s := dirDrop (ex.foldl poisonHeld s) fun d => d.ld = ld
  { s with cxd := { s.cxd with recalls := s.cxd.recalls.filter fun r => r.ld ≠ ld } }

/-- BI_TIMEOUT (R297). -/
def biTimeout (ld : LdId) (line : BitVec 40) (s : State) : Res :=
  match s.cxd.recalls.find? fun r => r.line = line && r.ld = ld with
  | none => .next s
  | some r =>
    let n := s.cxd.dir.countP fun d => d.ld = ld && d.excl
    let t := clearHolder s ld
    let t := raise (ldSet t ld.val { ldGet t ld.val with state := 3 }) 0x14 2 0 ld.val n
    whenOk (s.phase = .running && decide (r.sent.toNat + bellUs s s.cxd.biUs.toNat ≤ s.clk.bell.toNat))
      (recallsEnd (logEvent t 16 Ev.failed St.timeout (line.toNat * 64))) s

/-! ## Extents (R292 to R294) -/

/-- An extent enters REVOKING: its held lines are recalled. -/
def revokeExtent (s : State) (e : Extent) : State :=
  startRecalls (extTo s e .revoking) ((s.cxd.dir.filter fun d => extMeets e (d.line.toNat * 64) 64).map fun d => d.line.toNat)

/-- An access of a range that was accepted and is not done. -/
def extentBusy (s : State) (e : Extent) : Bool :=
  let at_ (dpa : Word) : Bool := extMeets e dpa.toNat 64
  (s.mem.waiting ++ s.cxd.accepted).any (fun w => match w with
    | .hostRead _ dpa _ _ | .hostWrite _ dpa _ _ _ | .lineBack _ dpa _ => at_ dpa
    | _ => false) ||
  s.isf.lstores.any (fun w => at_ w.dpa) ||
  s.isf.out.any fun r => match r.owner with
    | .load _ dpa _ => at_ dpa
    | .store l => l.any fun x => at_ x.2
    | _ => false

/-- EXTENT_RELEASED (R294). -/
def execExtentReleased (base : Word) (s : State) : Res :=
  match s.cxd.extents.find? fun e => e.base = base.toNat && e.state = .revoking with
  | none => .next s
  | some e =>
    let held := s.cxd.dir.any fun d => extMeets e (d.line.toNat * 64) 64
    let recalled := s.cxd.recalls.any fun r => extMeets e (r.line.toNat * 64) 64
    let t := extTo s e .released
    whenOk (s.phase = .running && !extentBusy s e && !held && !recalled)
      (logEvent (logEvent t e.ld.val Ev.released St.complete e.base) 16 Ev.released St.complete e.base) s

/-! ## Enable, disable, the link (R287, R299 to R301) -/

/-- A logical device that the attachment has (R299). -/
def ldExists (s : State) (ld : LdId) : Bool := ld = 0 || s.cxd.viaSwitch

/-- A write of enable, or a bind (R299). -/
def enableLd (s : State) (ld : LdId) : State :=
  let x := ldGet s ld.val
  if x.state.toNat = Ld.disabled && ldExists s ld then ldSet s ld.val { x with state := 0 } else s

/-- The landing's loads and the waiting loads of a logical device dropped; its stores go on (R300 steps 2 and 3). -/
def dropLoads (s : State) (ld : LdId) : State :=
  let s := dropOwned s fun w => match w with | .load d _ _ => d = ld | _ => false
  let keep (w : BankWait) : Bool := match w with | .hostRead d _ _ _ => d ≠ ld | _ => true
  { s with mem := { s.mem with waiting := s.mem.waiting.filter keep }, cxd := { s.cxd with accepted := s.cxd.accepted.filter keep } }

/-- Accepted stores that wait reach memory (R300 step 2); one to a bank or row that an in-bank manifest still holds waits for it (R194). -/
def absorbStores (s : State) (ld : LdId) : State :=
  let free (dpa : Word) : Bool := match dpaLocal s dpa.toNat with | some a => !bankHolds s true a 64 | none => true
  let mine (w : BankWait) : Bool := match w with | .hostWrite d dpa _ _ _ => d = ld && free dpa | _ => false
  (s.mem.waiting.filter mine).foldl (fun s w => match w with
    | .hostWrite d dpa data bytes poison =>
      (match dpaLocal s dpa.toNat with
       | some a => storeOwn s d dpa (enabledBytes data bytes) poison a
       | none => s)
    | _ => s) { s with mem := { s.mem with waiting := s.mem.waiting.filter fun w => !mine w } }

/-- The ledger entries of a logical device, live ones. -/
def ownedEntries (s : State) (ld : LdId) : List LEntry :=
  ((s.ldg.entries ++ s.ldg.spilled).filter fun x => x.2.ld = ld && (x.2.state.toNat = LSt.admitted || x.2.state.toNat = LSt.running)).map
    fun x => x.2

/-- The operations that a disable aborts (R110, R300): of the logical device's queues, and a hand-off of one of its requests through
another's. -/
def disabledOps (s : State) (ld : LdId) : List Ticket :=
  ticketsOf s fun o => o.ld = ld || (o.cls = 8 && o.op = 5 && (entryOf s o.request.toNat).ld = ld &&
    (entryOf s o.request.toNat).state.toNat = LSt.handing)

/-- An operation aborted by a disable; a plan's notes whose disable ended it, for the other requests of its step (R110, R306). -/
def abortByLd (ld : LdId) (s : State) (t : Ticket) : State :=
  let (st, s) := abortTicket s t
  if st = St.aborted then opUpd s t fun o => { o with byLd := some ld } else s

/-- A disable begins (R300 steps 1 to 5): an abort is decided at once, since an operation is at a pre-emption point between
commands (R110, R281). -/
def beginDisable (s : State) (ld : LdId) : State :=
  let x := ldGet s ld.val
  if x.state.toNat = Ld.enabled || x.state.toNat = Ld.failed then
    let s := ldSet s ld.val { x with state := 1 }
    let s := recallsEnd (clearHolder (absorbStores (dropLoads s ld) ld) ld)
    let s := (disabledOps s ld).foldl (abortByLd ld) s
    let s := (ownedEntries s ld).foldl abortEntry s
    qpDisableLd s ld
  else s

/-- LD_ENABLE (R299). -/
def execLdEnable (a : Agent) (ld : LdId) (s : State) : Res :=
  asAgent a (0x70_0200 + 0x20 * ld.val) (fun s => whenOk (s.phase = .running && stewardAgent s a) (enableLd s ld) s) s

/-- LD_DISABLE (R300). -/
def ldDisable (a : Agent) (ld : LdId) (s : State) : Res :=
  asAgent a (0x70_0200 + 0x20 * ld.val) (fun s => whenOk (s.phase = .running && stewardAgent s a) (beginDisable s ld) s) s

/-- A queue emptied: head := tail, its written slots freed (R300, R357). -/
def emptyQueue (s : State) (q : Nat) : State :=
  let d := queueGet s q
  let s := queueSet s q { d with head := d.tail }
  { s with ops := s.ops.filter fun o => !(o.queue = q && o.phase = .recorded) }

/-- Tallies set to zero. -/
def zeroTallies (s : State) (base n : Nat) : State :=
  ((s.tallies.filter fun x => decide (base ≤ x.1) && decide (x.1 < base + n)).map fun x => x.1).foldl (fun s i => tallySet s i 0) s

/-- The end of a disable (R300 steps 6 and 7, R395, R396). -/
def finishDisable (s : State) (ld : LdId) : State :=
  let x := ldGet s ld.val
  let cs := below 128 fun c => ldOf (ctxGet s c) = ld.val
  let qs := below 1024 fun q => (queueGet s q).ld = ld
  let t := qs.foldl emptyQueue (cs.foldl (fun s c => endContext s c 0) s)
  let t := zeroTallies t x.tbase.toNat x.tcount.toNat
  let r := ringGet t ld
  let t := ringSet t ld { r with head := r.tail, en := false }
  let t := (below 60 fun j => (tget {} t.arms (ld.val * 64 + j)).due).foldl (fun s j => sendArm s (ld.val * 64 + j)) t
  let arms := (t.arms.map fun y => if y.1 / 64 = ld.val then (y.1, { y.2 with armed := false }) else y).filter fun y => y.2 ≠ {}
  logEvent (ldSet { t with arms := arms } ld.val { x with state := 2, again := false }) 16 Ev.disabled St.complete ld.val

/-- LD_DISABLE_COMPLETE (R300); a function-level reset enables again (R356). -/
def execLdDisableComplete (ld : LdId) (s : State) : Res :=
  whenOk ((s.phase = .running || s.phase = .waitImage) && (ldGet s ld.val).state.toNat = Ld.disabling && !ringBusy s ld.val)
    (let t := finishDisable s ld; if (ldGet s ld.val).again then enableLd t ld else t) s

/-- FUNCTION_LEVEL_RESET (R356): a disable and then an enable; a ring record being taken completes first (R395). -/
def functionLevelReset (ld : LdId) (s : State) : Res :=
  let t := beginDisable s ld
  let t := if (ldGet t ld.val).state.toNat ≠ Ld.disabling then enableLd t ld
    else if ringBusy t ld.val then ldSet t ld.val { ldGet t ld.val with again := true }
    else enableLd (finishDisable t ld) ld
  whenOk (s.phase = .running && hostUp s && ldExists s ld) t s

/-- The host link goes down (R301, R384): every logical device of the port is disabled, the IDE keys are lost. -/
def linkDown (s : State) : State :=
  if s.cxd.up then
    let s := { s with cxd := { s.cxd with up := false, width := 0, rate := 0, flit256 := false, memok := false, ideKeys := [],
                                          ideStreams := [], ideSkid := false,
                                          ideInsecure := false } }
    (List.range 16).foldl (fun s n => beginDisable s (Fin.ofNat 16 n)) s
  else s

/-- HOST_LINK_DOWN (R301). -/
def hostLinkDown (s : State) : Res := .next (linkDown s)

/-- A result that the port can have (R287): 64 GT/s in 256-byte flits, 32 GT/s in either; below it CXL.io alone. -/
def trainingOk (t : HostTraining) : Bool :=
  decide (1 ≤ t.width.toNat) && decide (t.width.toNat ≤ 5) && t.rate.toNat ≠ 3 &&
  (t.rate.toNat ≠ 2 || t.flit256) && (t.rate.toNat ≠ 0 || !t.flit256)

/-- HOST_LINK_TRAIN (R287, R299, R301): without a switch, logical device 0 is enabled. -/
def execHostLinkTrain (t : HostTraining) (s : State) : Res :=
  let s' := { s with cxd := { s.cxd with up := true, width := t.width, rate := t.rate, flit256 := t.flit256,
                                         memok := t.rate.toNat ≠ 0, viaSwitch := t.viaSwitch } }
  whenOk ((s.phase = .running || s.phase = .waitImage) && s.clk.refPresent && !s.cxd.up && trainingOk t && unitIn s (uid 12 0) &&
      decide (t.width ≤ widthCode (portWidth s 0)))
    (if t.viaSwitch then s' else enableLd s' 0) s

/-- IDE_FAILURE (R302): CXL.mem stops, requests in flight as in a surprise removal. -/
def ideFailure (s : State) : Res :=
  let t := { s with cxd := { s.cxd with ideInsecure := true } }
  whenOk (s.cxd.up && !s.cxd.ideKeys.isEmpty)
    ((List.range 16).foldl (fun s n => beginDisable s (Fin.ofNat 16 n)) t) s

end Sys2Proof.Machine
end

