-- ==== Sys2Proof/Machine/Caps.lean ====
section
/-! DEFINITION. The parts of CXL 3.1 that the port implements, the structures of a function's configuration space, and its component
and device registers (R286, R289, R301, R387). The spec leaves the layout of these structures to the PCI Express and CXL
specifications; numbers taken from there are PRESUMED (log entry 132). -/
namespace Sys2Proof.Machine

/-- A Bool as bit n. -/
def bitAt (n : Nat) (b : Bool) : Nat := if b then 2 ^ n else 0

/-! ## Parts and options (R286) -/

/-- Parts and options of CXL 3.1 that the spec's table names. -/
inductive CxlPart where
  | type1 | type2 | type3 | io | mem | cache | hdmDb | hdmH | flit256 | flit256LowLatency | flit68 | dynamicCapacity | multiLogical
  | portRouting | multiHeaded | persistent | viral | ideIo | ideMem | doe | hotAdd
  deriving DecidableEq, Repr

/-- A part is implemented; the others are reported absent (R286). -/
def partPresent : CxlPart → Bool
  | .type1 | .type2 | .cache | .flit256LowLatency | .portRouting | .multiHeaded | .persistent | .viral => false
  | .type3 | .io | .mem | .hdmDb | .hdmH | .flit256 | .flit68 | .dynamicCapacity | .multiLogical | .ideIo | .ideMem | .doe
  | .hotAdd => true

def partBit (n : Nat) (x : CxlPart) : Nat := bitAt n (partPresent x)

/-! ## Configuration space (R289)

No command of the table reads configuration space; what a host finds there is written down as the spec gives it. -/

/-- The structures of a function. -/
inductive FnStruct where
  | pciExpress | msix | powerManagement | aer | serialNumber | secondaryPcie | physicalLayer32 | physicalLayer64 | laneMargining
  | dataLinkFeature | ide | doe (inst : Fin 2) | dvsecCxl | dvsecFlexBus | dvsecLocator | dvsecMld
  deriving DecidableEq, Repr

/-- The structures that a function carries: MLD's are logical device 0's and the FM-owned device's only. -/
def fnStructs (m : MbxPort) : List FnStruct :=
  [.pciExpress, .msix, .powerManagement, .aer, .serialNumber, .secondaryPcie, .physicalLayer32, .physicalLayer64, .laneMargining,
   .dataLinkFeature, .ide, .doe 0, .doe 1, .dvsecCxl, .dvsecFlexBus, .dvsecLocator] ++
  (match m with | .ld 0 | .fm => [.dvsecMld] | .ld _ => [])

/-- Vendor and device, class and revision, and BAR0's type: 64-bit and prefetchable. -/
def vendorDevice : Nat := 0x7340_1F3C
def classRevision : Nat := 0x05_0210_A1
def bar0Type : Nat := 0xC

/-- The serial number structure reports the device's. -/
def serialWords (s : State) : Nat := s.plan.serial.toNat % 2 ^ 64

/-- The capability word of the DVSEC of CXL devices: IO and mem, no cache, no viral, one HDM range of size 0 (R289). -/
def dvsecCapability : Nat := partBit 0 .cache + partBit 1 .io + partBit 2 .mem + 2 ^ 4 + partBit 14 .viral

/-- The IDE structure: link and selective streams, and how many selective ones. -/
def ideLinkStreams : Nat := 1
def ideSelectiveStreams : Nat := 2

/-! ## Component registers -/

/-- The component structures of BAR0, each with its identifier, version and place. -/
def compStructs : List (Nat × Nat × Nat) := [(2, 2, 0x100), (4, 3, 0x180), (5, 3, 0x200), (0xC, 1, 0x400), (7, 1, 0x420)]

/-- The places of the structures in the 64 KiB. -/
abbrev rasAt : Nat := 0x1100
abbrev linkAt : Nat := 0x1180
abbrev hdmAt : Nat := 0x1200
abbrev biAt : Nat := 0x1400
abbrev ideAt : Nat := 0x1420

/-- A decoder register's offset in its decoder, 0 to 7 in words of 4 bytes; none outside the eight decoders. -/
def decoderReg (off : Nat) : Option Nat :=
  if hdmAt + 0x10 ≤ off && off < hdmAt + 0x10 + 8 * 0x20 then some ((off - hdmAt - 0x10) % 0x20 / 4) else none

/-- The bits of a component register that a host may write. -/
def compMask (off : Nat) : Nat :=
  match decoderReg off with
  | some 0 | some 2 | some 5 => 0xF000_0000
  | some 1 | some 3 | some 6 => 0xFFFF_FFFF
  | some 4 => 0x13FF
  | _ =>
    if off = rasAt + 4 || off = rasAt + 8 || off = rasAt + 0x10 then 0xFFFF_FFFF
    else if off = hdmAt + 4 then 3
    else if off = biAt + 4 then 7
    else 0

/-- A decoder's interleave: granularity 256 bytes to 16 KiB, 1, 2, 4, 8 or 16 ways (R289). -/
def decoderOk (v : Nat) : Bool := decide (bf v 0 4 ≤ 6) && decide (bf v 4 4 ≤ 4)

/-- The bits of a component register that the device sets. -/
def compFixed (s : State) (off stored : Nat) : Nat :=
  if off = 0x1000 then 1 + 2 ^ 16 + 2 ^ 20 + compStructs.length * 2 ^ 24
  else if 0x1004 ≤ off && off < 0x1004 + 4 * compStructs.length then
    (match compStructs[(off - 0x1004) / 4]? with
     | some (i, v, p) => i + v * 2 ^ 16 + p * 2 ^ 20
     | none => 0)
  else if off = hdmAt then 4 + bitAt 8 true + bitAt 9 true + bitAt 12 true
  else if off = ideAt then partBit 0 .ideMem + 2 ^ 1 + 2 ^ 2
  else if off = ideAt + 8 then
    if s.cxd.ideInsecure then 4 else if s.cxd.ideKeys.isEmpty then 0 else if s.cxd.ideSkid then 2 else 1
  else if decoderReg off = some 4 then (if bit stored 9 then (if decoderOk stored then 2 ^ 10 else 2 ^ 11) else 0)
  else 0

/-- A component register of a function. -/
def compReg (s : State) (ld : Nat) (off : Nat) : Nat :=
  let v := (tget (0 : W32) s.cxd.compRegs (ld * 2 ^ 16 + off)).toNat
  v + compFixed s off v

/-- A write of a component register: the bits that a host may write; a locked decoder keeps its values. -/
def compWrite (s : State) (ld off v : Nat) : State :=
  let key := ld * 2 ^ 16 + off
  let ctl := match decoderReg off with
    | some k => (tget (0 : W32) s.cxd.compRegs (key - 4 * k + 16)).toNat
    | none => 0
  if bit ctl 8 && bit ctl 9 then s
  else { s with cxd := { s.cxd with compRegs := tset 0 s.cxd.compRegs key (BitVec.ofNat 32 v &&& BitVec.ofNat 32 (compMask off)) } }

/-! ## Device registers -/

/-- The capabilities array of the device registers: its three structures, with identifier, offset and length. -/
def deviceStructs : List (Nat × Nat × Nat) := [(1, 0x80, 8), (2, 0x1_0000, 0x2_0000), (0x4000, 0x88, 8)]

/-- The device registers of a function: the array, the device status, and the memory device status, which reports ready once an image
runs (R289, R301). -/
def deviceReg (s : State) (ld : Nat) (off : Nat) : Nat :=
  if off = 0 then 2 ^ 16 + 2 ^ 24 + deviceStructs.length * 2 ^ 32
  else if 0x10 ≤ off && off < 0x40 then
    (match deviceStructs[(off - 0x10) / 16]? with
     | some (i, a, n) => if off % 16 = 0 then i + 2 ^ 16 + a * 2 ^ 32 else n
     | none => 0)
  else if off = 0x80 then bitAt 0 (s.cxd.events.any fun e => e.log = ld)
  else if off = 0x88 then (if mediaReady s then 2 ^ 2 else 0) + 2 ^ 4
  else 0

end Sys2Proof.Machine
end

