-- ==== Sys2Proof/Machine/Clock.lean ====
section
/-! DEFINITION. The bell, the loss and return of the reference, pace, the frequency-measuring counter, and the registers of the
CLK block (R39, R41 to R48, R282). -/
namespace Sys2Proof.Machine

/-- A write of a register outside its meaning by an agent that may not make it is ignored (R387). -/
def byWriter (s : State) (a : Agent) (t : State) : Res :=
  whenOk ((s.phase = .running || s.phase = .waitImage) && stewardAgent s a) t s

/-! ## The bell -/

/-- BELL_EDGE (R41, R43, R46, R282): the counter rises by one, the buckets refill, launch conditions are tested. -/
def execBellEdge (s : State) : Res :=
  let t := refillBuckets { s with clk := { s.clk with bell := s.clk.bell + 1 } }
  whenOk (s.phase ≠ .inReset && s.clk.run && s.clk.refPresent && s.clk.locked) (settle t 1) s

/-- A write of CLK_BELL_CTL (R42): a reserved div keeps the one before. -/
def writeBellCtl (s : State) (v : Nat) : State :=
  if s.clk.run then s
  else
    let d := v % 2 ^ 16
    { s with clk := { s.clk with div := if 2 ≤ d then BitVec.ofNat 16 d else s.clk.div, run := v.testBit 31 } }

/-- BELL_START (R42). -/
def execBellStart (a : Agent) (v : W32) (s : State) : Res :=
  asAgent a 0x44_0100 (fun s => byWriter s a (writeBellCtl s v.toNat)) s

/-- A 4-byte read of CLK_BELL_COUNT: the low half latches the high one, which the next read of it returns. -/
def readBellHalf (s : State) (high : Bool) : W32 × State :=
  if high then (s.clk.latch, s)
  else
    let h : W32 := BitVec.ofNat 32 (s.clk.bell.toNat / 2 ^ 32)
    (s.clk.bell.setWidth 32, { s with clk := { s.clk with latch := h } })

/-- What a read over a bus returned. -/
def busValue (s : State) (v : Nat) : State := { s with cxd := { s.cxd with busRead := BitVec.ofNat 64 v } }

/-- An agent that reads registers: a core above tenant level, any host function (R387). -/
def readAgent (s : State) : Agent → Bool
  | .core c => privOf (ctxGet s c) ≠ 0
  | .host _ => true

/-- BELL_COUNT_HALF_READ (R386). -/
def execBellCountHalfRead (a : Agent) (high : Bool) (s : State) : Res :=
  asAgent a (if high then 0x44_010C else 0x44_0108) (fun s =>
    let (v, t) := readBellHalf s high
    whenOk (s.phase ≠ .inReset && readAgent s a) (busValue t v.toNat) s) s

/-! ## Pace (R39) -/

/-- The unit whose service a region follows, for each CLK_PACE index; the engine region has none. -/
def regionUnit (i : Nat) : Option UnitId :=
  if i < 16 then some (uid 2 i) else if i < 24 then some (uid 6 (i - 16)) else if i < 56 then some (uid 9 (i - 24))
  else if i < 74 then some (uid 3 (i - 56)) else if i = 74 then none else some (uid 6 (i - 75))

/-- The region is in service: that of a spare core is not (R25). -/
def regionIn (s : State) (i : Nat) : Bool := (regionUnit i).all (unitIn s)

/-- CLK_PACE: the latest reading, 0 of a region that is not in service (R39). -/
def paceOf (s : State) (i : Nat) : BitVec 11 := if regionIn s i then tget 0 s.clk.pace i else 0

/-- PACE_READING (R39): a reading that falls below 768 raises PACE_LOW and stops launches in the region. DESIGN CHOICE (log
entry 111): there is none before the device runs, nor while the reference is lost. -/
def execPaceReading (i : Fin 83) (reading : BitVec 11) (s : State) : Res :=
  let r : BitVec 11 := if regionIn s i then reading else 0
  let was := tget 0 s.clk.pace i.val
  let low := regionIn s i && decide (r.toNat < 768)
  let t := { s with clk := { s.clk with pace := tset 0 s.clk.pace i.val r,
                                        slow := if low then insNat i.val s.clk.slow else s.clk.slow } }
  let fell := low && !(s.clk.slow.contains i.val && decide (was.toNat < 768))
  let u := (regionUnit i.val).getD 0
  let t := noteUnderWay s t
  whenOk (s.phase = .running && s.clk.refPresent) (if fell then raise t 0x01 (recPart s u) u i.val r.toNat else t) s

/-- PACE_RESUME (R39): the reading has stayed at 768 or above for 100 µs. -/
def execPaceResume (i : Fin 83) (s : State) : Res :=
  whenOk (s.phase = .running && decide (768 ≤ (tget 0 s.clk.pace i.val).toNat))
    { s with clk := { s.clk with slow := s.clk.slow.filter fun j => j ≠ i.val } } s

/-! ## The frequency-measuring counter (R48) -/

/-- Instances of a source coded 6 to 11. -/
def fmcInstances : Nat → Nat | 6 => 16 | 7 => 8 | 8 => 32 | 9 => 19 | 10 => 8 | 11 => 16 | _ => 256

/-- A write of CLK_FMC_CTL: reserved values keep the ones before; ignored while a measurement runs. -/
def writeFmcCtl (s : State) (v : Nat) : State :=
  if s.clk.fmcRun then s
  else
    let meas : BitVec 4 := if bf v 20 4 < 12 then BitVec.ofNat 4 (bf v 20 4) else s.clk.fmcMeas
    let base : BitVec 4 := if bf v 16 4 < 12 then BitVec.ofNat 4 (bf v 16 4) else s.clk.fmcBase
    let sel := bf v 8 8
    let selOk : Bool := decide (sel < fmcInstances meas.toNat) && decide (sel < fmcInstances base.toNat)
    let k := bf v 0 5
    let start := v.testBit 31
    { s with clk := { s.clk with
      fmcMeas := meas, fmcBase := base, fmcSel := if selOk then BitVec.ofNat 8 sel else s.clk.fmcSel,
      fmcK := if 4 ≤ k && k ≤ 24 then BitVec.ofNat 5 k else s.clk.fmcK,
      fmcRun := start, fmcDone := s.clk.fmcDone && !start } }

/-- FMC_START (R48). -/
def execFmcStart (a : Agent) (v : W32) (s : State) : Res :=
  asAgent a 0x44_0400 (fun s => byWriter s a (writeFmcCtl s v.toNat)) s

/-- FMC_DONE (R48): the window ends. -/
def execFmcDone (edges : Nat) (s : State) : Res :=
  whenOk (s.clk.fmcRun && s.clk.refPresent)
    { s with clk := { s.clk with fmcRun := false, fmcDone := true, fmcStatus := St.complete,
                                 fmcCount := BitVec.ofNat 32 (min edges (2 ^ 32 - 1)) } } s

/-- A measurement that ends early; the count is left as it was. -/
def fmcStop (s : State) : State :=
  if s.clk.fmcRun then { s with clk := { s.clk with fmcRun := false, fmcDone := true, fmcStatus := St.timeout } } else s

/-- FMC_TIMEOUT (R48). -/
def execFmcTimeout (s : State) : Res := .next (fmcStop s)

/-! ## Loss and return of the reference (R46, R47) -/

/-- The Isandi ports go down; what they held is kept for the retraining. -/
def portsDown (s : State) : State :=
  portsChange { s with isf := { s.isf with ports := (s.isf.ports.map fun x => (x.1, { x.2 with up := false })).filter fun x => x.2 ≠ {} } }

/-- REFCLK_LOSS (R46): the bell holds, the ports go down, a measurement ends, and no step launches until the return; the steps
under way end, and each stack enters self-refresh once its in-bank steps have. -/
def execRefclkLoss (s : State) : Res :=
  let on := (s.ops.filter fun o => opStepping s o).map fun o => o.ticket
  let t := { s with clk := { s.clk with lost := true, locked := false, refPresent := false, away := true, underWay := on } }
  whenOk (s.phase ≠ .inReset && s.clk.refPresent) (restStacks (portsDown (linkDown (fmcStop t)))) s

/-- The return of the reference: the root relocks, the stacks leave self-refresh, gap_us is written, the loss recorded (R47). -/
def refReturned (gapUs : Nat) (s : State) : State :=
  let g := min gapUs 0xFFFF
  let t := { s with clk := { s.clk with locked := true, refPresent := true, away := false, underWay := [], gapUs := BitVec.ofNat 16 g },
                    mem := { s.mem with selfRefresh := 0 } }
  raise t 0x02 2 0 g 0

end Sys2Proof.Machine
end

