-- ==== Sys2Proof/Machine/Curve.lean ====
section
/-! DEFINITION. ECDSA over brainpoolP384r1 with SHA-384, and the keys that the device derives from its seed, and the stored certificates (R367, R369, R372, R375, R376). The
curve is that of RFC 5639, which R367 names. -/
namespace Sys2Proof.Machine

/-! ## The curve -/

/-- The field, the coefficients, the base point and its order. -/
def bpP : Nat := 0x8CB91E82A3386D280F5D6F7E50E641DF152F7109ED5456B412B1DA197FB71123ACD3A729901D1A71874700133107EC53
def bpA : Nat := 0x7BC382C63D8C150C3C72080ACE05AFA0C2BEA28E4FB22787139165EFBA91F90F8AA5814A503AD4EB04A8C7DD22CE2826
def bpB : Nat := 0x04A8C7DD22CE28268B39B55416F0447C2FB77DE107DCD2A62E880EA53EEB62D57CB4390295DBC9943AB78696FA504C11
def bpG : Nat × Nat :=
  (0x1D1C64F068CF45FFA2A63A81B7C13F6B8847A3E77EF14FE3DB7FCAFE0CBD10E8E826E03436D646AAEF87B2E247D4AF1E,
   0x8ABE1D7520F9C2A45CB1EB8E95CFD55262B70B29FEEC5864E19C054FF99129280E4646217791811142820341263C5315)
def bpN : Nat := 0x8CB91E82A3386D280F5D6F7E50E641DF152F7109ED5456B31F166E6CAC0425A7CF3AB6AF6B7FC3103B883202E9046565

/-- b to the power e modulo m, for an e of the given number of bits. -/
def powMod (m b : Nat) : Nat → Nat → Nat
  | 0, _ => 1 % m
  | k + 1, e => let h := powMod m (b * b % m) k (e / 2); if e % 2 = 1 then b * h % m else h

/-- The inverse modulo a prime of 384 bits. -/
def invMod (m a : Nat) : Nat := powMod m a 384 (m - 2)

/-- The sum of two points; none is the point at infinity. -/
def ptAdd : Option (Nat × Nat) → Option (Nat × Nat) → Option (Nat × Nat)
  | none, q => q
  | p, none => p
  | some (x, y), some (u, v) =>
    if x = u && (y + v) % bpP = 0 then none
    else
      let l := if x = u then (3 * x * x + bpA) * invMod bpP (2 * y % bpP) % bpP else (v + bpP - y) * invMod bpP ((u + bpP - x) % bpP) % bpP
      let w := (l * l + 2 * bpP - x - u) % bpP
      some (w, (l * (x + bpP - w) + bpP - y) % bpP)

/-- A point times a number of the given count of bits. -/
def ptMul (p : Option (Nat × Nat)) : Nat → Nat → Option (Nat × Nat)
  | 0, _ => none
  | b + 1, k =>
    let h := ptMul (ptAdd p p) b (k / 2)
    if k % 2 = 1 then ptAdd p h else h

/-! ## ECDSA -/

/-- A public key in uncompressed SEC1 encoding. -/
def sec1 : Option (Nat × Nat) → List Byte
  | none => [0]
  | some (x, y) => 4 :: (beBytes 48 x ++ beBytes 48 y)

/-- The point that a key's 97 bytes encode, where it lies on the curve. -/
def pointOf (key : List Byte) : Option (Nat × Nat) :=
  let x := ofBe ((key.drop 1).take 48)
  let y := ofBe ((key.drop 49).take 48)
  if key.length = 97 && key.head? = some 4 && decide (x < bpP) && decide (y < bpP) && y * y % bpP = (x * x * x + bpA * x + bpB) % bpP then
    some (x, y)
  else none

/-- A signature, r then s of 48 bytes each, verifies over a message under a key. -/
def ecdsaOk (key msg sig : List Byte) : Bool :=
  let r := ofBe (sig.take 48)
  let t := ofBe ((sig.drop 48).take 48)
  match pointOf key with
  | none => false
  | some q =>
    if sig.length ≠ 96 || r = 0 || bpN ≤ r || t = 0 || bpN ≤ t then false
    else
      let w := invMod bpN t
      let z := ofBe (sha384 msg)
      match ptAdd (ptMul (some bpG) 384 (z * w % bpN)) (ptMul (some q) 384 (r * w % bpN)) with
      | none => false
      | some (x, _) => x % bpN = r

/-- A signature over a digest by a private scalar with a nonce. -/
def ecdsaSign (d k z : Nat) : Nat × Nat :=
  match ptMul (some bpG) 384 k with
  | none => (0, 0)
  | some (x, _) => (x % bpN, invMod bpN k * (z + x % bpN * d) % bpN)

/-! ## The device's keys (R367) -/

def ascii (t : String) : List Byte := t.toList.map fun c => BitVec.ofNat 8 c.toNat

/-- The 2 KiB of the SRAM PUF array, and the PUF's helper data in the identity flash. -/
def pufReading : List Byte := (List.range 2048).map Config.pufByte
def pufHelper : List Byte := (List.range 4096).map fun i => Config.factoryByte (0x2000 + i)

/-- The seed that a start reconstructs. -/
def deviceSeed : BitVec 256 := Config.pufSeed pufReading pufHelper

/-- An HMAC-SHA-384 under the seed. -/
def seedMac (seed : BitVec 256) (label : List Byte) : List Byte := hmac384 (leBytes 32 seed.toNat) label

/-- A private scalar derived from the seed. -/
def seedScalar (seed : BitVec 256) (label : List Byte) : Nat := ofBe (seedMac seed label) % (bpN - 1) + 1

/-- The public key of a scalar. -/
def publicKey (d : Nat) : List Byte := sec1 (ptMul (some bpG) 384 d)

/-- The device identity key. -/
def dikScalar (seed : BitVec 256) : Nat := seedScalar seed (ascii "UD7340 DIK")

/-- The alias key for an image's measurement. -/
def aliasScalar (seed : BitVec 256) (meas3 : BitVec 384) : Nat := seedScalar seed (ascii "UD7340 alias" ++ beBytes 48 meas3.toNat)

/-- The serial number: bytes 0 to 7 of the digest of the DIK public key. DESIGN CHOICE (log entry 156): byte 0 is the lowest. -/
def deviceSerial : Word := BitVec.ofNat 64 (ofLe ((sha384 (publicKey (dikScalar deviceSeed))).take 8))

/-- The record key of R376. -/
def recordKey (seed : BitVec 256) : List Byte := seedMac seed (ascii "UD7340 record")

/-! ## The stored certificates (R369, R375) -/

/-- The length of the DER value that stands first in some bytes. -/
def derSize (b : List Byte) : Nat :=
  let n := (b.getD 1 0).toNat
  if n < 128 then 2 + n else 2 + (n - 128) + ofBe ((b.drop 2).take (n - 128))

/-- The three certificates that the identity flash holds, without the padding (R369, R375). -/
def storedChain : List Byte :=
  let b := (List.range 0x2000).map Config.factoryByte
  let n := derSize b
  let m := derSize (b.drop n)
  b.take (n + m + derSize (b.drop (n + m)))

/-- The product key, which the second stored certificate, of the Urdor product CA, certifies (R369, R376). -/
def productKey : List Byte :=
  let n := derSize storedChain
  let m := derSize (storedChain.drop n)
  Config.certKey ((storedChain.drop n).take m)

end Sys2Proof.Machine
end

