-- ==== Sys2Proof/Machine/Weights.lean ====
section
/-! DEFINITION. Stored weights: slice descriptors, blocks raw and coded, encryption, adapter tables and factors
(R218 to R225, R234), and the operand lists of values with poison. -/
namespace Sys2Proof.Machine

/-- A weight-slice descriptor as read (R223). -/
structure SliceDesc where
  cbase : Nat
  bidx  : Nat
  atab  : Nat
  nrows : Nat
  kblk  : Nat
  wfmt  : Nat
  coded : Bool
  enc   : Bool
  kslot : Nat
  nsc   : Nat
  nel   : Nat
  nblk  : Nat
  tweak : Nat
  table : List Nat
  deriving DecidableEq, Repr

/-- The descriptor in 128 bytes. -/
def descOf (bs : List Byte) : SliceDesc :=
  let d := ofLe bs
  { cbase := bf d 448 64, bidx := bf d 384 64, atab := bf d 320 64, nrows := bf d 300 20 + 1, kblk := bf d 284 16 + 1,
    wfmt := bf d 280 4, coded := d.testBit 279, enc := d.testBit 278, kslot := bf d 270 8, nsc := bf d 264 6,
    nel := bf d 258 6, nblk := bf d 226 32, tweak := bf d 64 128,
    table := (List.range 32).map fun i => bf d (512 + 16 * i) 16 }

/-- Groups of a block, bytes of a group, by format (R219). -/
def wfGpb : Nat → Nat | 0 => 240 | 1 => 163 | 2 => 163 | 6 => 64 | _ => 124
def wfGroup : Nat → Nat | 0 => 17 | 1 => 25 | 2 => 25 | 6 => 64 | _ => 33
/-- Twice f of R219. -/
def wfTwoF : Nat → Nat | 0 => 4 | 1 => 4 | 2 => 4 | 6 => 1 | _ => 2

def ceLen (e : Nat) : Nat := bf e 12 4
def ceEsc (e : Nat) : Bool := e.testBit 11

/-- A part is a complete prefix code with at most one escape (R221, R225). -/
def partOk (es : List Nat) : Bool :=
  ((es.map fun e => 2 ^ (15 - ceLen e)).foldl (· + ·) 0) = 2 ^ 15 && decide ((es.countP ceEsc) ≤ 1)

def scalePart (d : SliceDesc) : List Nat := d.table.take d.nsc
def elemPart (d : SliceDesc) : List Nat := (d.table.drop d.nsc).take d.nel

/-- The launch check of a descriptor (R225, R383): format, code, key slot. -/
def descOk (s : State) (p : Part) (d : SliceDesc) : Bool :=
  decide (d.wfmt ≤ 6) && decide (d.nsc + d.nel ≤ 32) &&
  (if d.wfmt = 6 then d.nsc = 0 else partOk (scalePart d)) &&
  (if d.wfmt = 5 then d.nel = 0 else partOk (elemPart d)) &&
  (!d.enc || (let k := tget {} s.sec.slots d.kslot; k.usage = 1 && (k.part = 2 || k.part.toNat = p.val)))

/-- Codes of a part with their lengths (R221). -/
def assignCodes : Nat → Nat → List Nat → List (Nat × Nat × Nat)
  | _, _, [] => []
  | code, len, e :: r =>
    let c := code * 2 ^ (ceLen e - len)
    (ceLen e, c, e) :: assignCodes (c + 1) (ceLen e) r

def partCodes (es : List Nat) : List (Nat × Nat × Nat) :=
  match es with
  | [] => []
  | e :: r => (ceLen e, 0, e) :: assignCodes 1 (ceLen e) r

/-- One code read, most significant bit first, from len bits read so far with value acc. -/
def readCode (cs : List (Nat × Nat × Nat)) : Nat → Nat → Nat → List Bool → Option (Nat × List Bool)
  | fuel, len, acc, bits =>
    match cs.find? fun c => c.1 = len && c.2.1 = acc with
    | some c => some (c.2.2, bits)
    | none => match fuel, bits with
      | f + 1, b :: r => readCode cs f (len + 1) (acc * 2 + boolNat b) r
      | _, _ => none

/-- A field: a code's value, or after an escape the raw field, least significant bit first (R220). -/
def readField (cs : List (Nat × Nat × Nat)) (w : Nat) (bits : List Bool) : Option (Nat × List Bool) :=
  match readCode cs 16 0 0 bits with
  | none => none
  | some (e, r) =>
    if ceEsc e then
      if r.length < w then none
      else some (((indexed (r.take w)).map fun (i, b) => boolNat b * 2 ^ i).foldl (· + ·) 0, r.drop w)
    else some (bf e 0 8, r)

/-- n fields in order. -/
def readFields (cs : List (Nat × Nat × Nat)) (w : Nat) : Nat → List Bool → Option (List Nat × List Bool)
  | 0, bits => some ([], bits)
  | n + 1, bits => match readField cs w bits with
    | none => none
    | some (x, r) => (readFields cs w n r).map fun (xs, r) => (x :: xs, r)

def byteBits (b : Byte) : List Bool := (List.range 8).map b.toNat.testBit

/-- The scales and elements of a block of n groups (R219, R220); none where a coded block is in error (R225). -/
def blockFields (d : SliceDesc) (t : Elem) (n : Nat) (raw : Bool) (bs : List Byte) : Option (List Nat × List Nat) :=
  let (ew, sm) := elemSplit t
  let w := ew + sm
  let nsc := if d.wfmt = 6 then 0 else n
  if raw then
    let v := ofLe (bs.drop nsc)
    some ((bs.take nsc).map fun b => b.toNat, (List.range (32 * n)).map fun i => bf v (w * i) w)
  else
    let plane := ceilDiv (32 * n * sm) 8
    let v := ofLe (bs.take plane)
    let bits := (bs.drop plane).flatMap byteBits
    match if d.wfmt = 6 then some ([], bits) else readFields (partCodes (scalePart d)) 8 n bits with
    | none => none
    | some (scs, bits) =>
      match if d.wfmt = 5 then some (List.replicate (32 * n) 0, bits) else readFields (partCodes (elemPart d)) ew (32 * n) bits with
      | none => none
      | some (xs, _) =>
        some (scs, (indexed xs).map fun (i, x) =>
          let m := bf v (sm * i) sm
          m / 2 ^ (sm - 1) * 2 ^ (w - 1) + x % 2 ^ ew * 2 ^ (sm - 1) + m % 2 ^ (sm - 1))

/-- The groups of a block as they reach the array; poison for a block in error or poisoned (R225). -/
def blockGroups (d : SliceDesc) (t : Elem) (n : Nat) (b : Option (Bool × List Byte)) : List Grp :=
  match b.bind fun (raw, bs) => blockFields d t n raw bs with
  | none => List.replicate n .poison
  | some (scs, xs) =>
    (List.range n).map fun g =>
      let es := ((xs.drop (32 * g)).take 32).map (decElem t)
      if t = .bf16 then .bf es else .mx (scs.getD g 0) (t = .int8) es

/-- The place of stored block i: whether raw, its address and length (R222). -/
def blockPlace (s : State) (d : SliceDesc) (i : Nat) : Bool × Nat × Nat :=
  if d.coded then
    let e := memNum s (d.bidx + 4 * i) 4
    let a := bf e 0 31
    let z := bf (memNum s (d.bidx + 4 * (i + 1)) 4) 0 31
    (e.testBit 31, d.cbase + 16 * a, if e.testBit 31 then 4096 else (z - a) * 16)
  else (true, d.cbase + 4096 * i, 4096)

/-- Stored block i decrypted; none where it or its index is poisoned (R224, R225). -/
def readBlock (s : State) (d : SliceDesc) (i : Nat) : Option (Bool × List Byte) :=
  let (raw, a, n) := blockPlace s d i
  if (d.coded && poisoned s (d.bidx + 4 * i) 8) || poisoned s a n then none
  else
    let bs := memRead s a n
    let bs := if d.enc then
        xtsDecrypt (leBytes 64 (tget {} s.sec.slots d.kslot).mat.toNat) ((d.tweak + i) % 2 ^ 128) bs
      else bs
    some (raw, bs)

/-- Rows of panel p. -/
def panelRows (d : SliceDesc) (p : Nat) : Nat := min 128 (d.nrows - 128 * p)
/-- Stored blocks of panel p. -/
def panelBlocks (d : SliceDesc) (p : Nat) : Nat := ceilDiv (panelRows d p * d.kblk) (wfGpb d.wfmt)

/-- The rows of a panel whose first block is b0: each a list of kblk groups (R218). -/
def panelGroups (d : SliceDesc) (block : Nat → Option (Bool × List Byte)) (p b0 : Nat) : List (List Grp) :=
  match elemOf d.wfmt with
  | none => []
  | some t =>
    let r := panelRows d p
    let ng := r * d.kblk
    let gpb := wfGpb d.wfmt
    let gs := (List.range (panelBlocks d p)).flatMap fun i => blockGroups d t (min gpb (ng - gpb * i)) (block (b0 + i))
    (List.range r).map fun row => (List.range d.kblk).map fun j => gs.getD (j * r + row) .poison

/-- The rows of a slice (R218). -/
def sliceRows (d : SliceDesc) (block : Nat → Option (Bool × List Byte)) : List (List Grp) :=
  let n := ceilDiv d.nrows 128
  ((List.range n).foldl (fun (acc, b0) p => (acc ++ panelGroups d block p b0, b0 + panelBlocks d p)) (([] : List (List Grp)), 0)).1

/-- The stored bytes of a slice: where they lie and how many. -/
def sliceBlocks (d : SliceDesc) : Nat := ((List.range (ceilDiv d.nrows 128)).map (panelBlocks d)).foldl (· + ·) 0
def sliceBytes (s : State) (d : SliceDesc) : Nat :=
  if d.coded then bf (memNum s (d.bidx + 4 * sliceBlocks d) 4) 0 31 * 16 else 4096 * sliceBlocks d

/-! ## Adapters (R234) -/

/-- An entry of an adapter table: aaddr, baddr, scale, rank; none where it is not valid. -/
def adapterEntry (s : State) (atab a : Nat) : Option (Nat × Nat × W32 × Nat) :=
  let e := memNum s (atab + 32 * a) 32
  if atab = 0 || a ≥ 4096 || poisoned s (atab + 32 * a) 32 || !e.testBit 0 then none
  else some (bf e 192 64, bf e 128 64, BitVec.ofNat 32 (bf e 96 32), 8 * (bf e 76 4 + 1))

/-- A factor of n rows of k as an uncoded MXFP8 E4M3 slice at an address: the layout of R218 and R219 (log entry 21). -/
def factorDesc (base n k : Nat) : SliceDesc :=
  { cbase := base, bidx := 0, atab := 0, nrows := n, kblk := ceilDiv k 32, wfmt := 3, coded := false, enc := false,
    kslot := 0, nsc := 0, nel := 0, nblk := 0, tweak := 0, table := [] }

/-- The stored bytes of a factor of n rows of k. -/
def factorBytes (n k : Nat) : Nat := 4096 * sliceBlocks (factorDesc 0 n k)

/-- Bytes of a factor, with a missing block for a poisoned one. -/
def factorBlock (s : State) (base i : Nat) : Option (Bool × List Byte) :=
  if poisoned s (base + 4096 * i) 4096 then none else some (true, memRead s (base + 4096 * i) 4096)

def factorRows (s : State) (base n k : Nat) : List (List Grp) :=
  sliceRows (factorDesc base n k) (factorBlock s base)

/-! ## Values with poison -/

/-- n values in BF16 or FP32 at an address, as FP32 bits; none for one that lies in a poisoned line. -/
def readVals (s : State) (f32 : Bool) (a n : Nat) : List (Option W32) :=
  let w := valBytes f32
  let bs := memRead s a (w * n)
  let bad := (List.range ((a + w * n + 63) / 64 - a / 64)).map fun i => linePoison s (a / 64 + i)
  (indexed (cutEvery w n bs)).map fun (i, b) =>
    if bad.getD ((a + w * i) / 64 - a / 64) false then none
    else some (BitVec.ofNat 32 (if f32 then ofLe b else ofLe b * 2 ^ 16))

/-- Bytes of values written, every line that a poisoned one touches poisoned. -/
def writeVals (s : State) (f32 : Bool) (a : Nat) (vs : List (Option W32)) : State :=
  let w := valBytes f32
  let s := memWrite s a (vs.flatMap fun v => encVal f32 (v.getD 0))
  (indexed vs).foldl (fun s (i, v) => if v.isNone then poisonRange s (a + w * i) w else s) s

/-- Values as operand groups of a weight format; a group that holds a poisoned value is poison (R204, R225, R226). -/
def valGroups (t : Elem) (vs : List (Option W32)) : List Grp :=
  let gs := portGroups t (vs.map fun v => dec32 (v.getD 0))
  (indexed gs).map fun (i, g) => if ((vs.drop (32 * i)).take 32).any fun v => v.isNone then .poison else g

/-- An accumulator that starts at +0 (R227). -/
def dot (xs ws : List Grp) : Option W32 := accumulate (some 0) xs ws

def lift2 (f : W32 → W32 → W32) : Option W32 → Option W32 → Option W32
  | some a, some b => some (f a b)
  | _, _ => none

/-- A natural number as FP32. -/
def natF32 (n : Nat) : W32 := enc32 (.fin false n 0)

/-- The status of an operation that met a failed page, or poison, or neither. -/
def readStatus (absent poison : Bool) : Byte := if absent then St.checksum else if poison then St.poison else St.complete

end Sys2Proof.Machine
end

