-- ==== Sys2Proof/Machine/Hub.lean ====
section
/-! DEFINITION. The hub instructions of class 6: matrix-vector units and the softmax and element-wise unit
(R97, R98, R199, R203 to R212, R237). -/
namespace Sys2Proof.Machine

/-- The base of a hub's window (R203, R388). -/
def hubWin (h : Nat) : Nat := hubBase + h * 0x400_0000

/-- n bytes at an address lie in protected rows of a hub's four stacks (R203). -/
def hubStackOk (s : State) (h a n : Nat) : Bool :=
  n = 0 || (decide (a < 2 ^ 41) && a / 2 ^ 36 / 4 = h && bytesProtected s a n)

/-- n bytes at an address lie in a hub's window, or in protected rows of its four stacks (R203). -/
def hubAddrOk (s : State) (h a n : Nat) : Bool :=
  (decide (hubWin h ≤ a) && decide (a + n ≤ hubWin h + 35 * 2 ^ 20)) || hubStackOk s h a n

/-- Every range lies where a hub instruction may have it. -/
def hubNamesOk (s : State) (h : Nat) (l : Named) : Bool := l.all fun (_, a, n) => hubAddrOk s h a n

/-- A field of a hub's constant block (R212). -/
def hubConst (s : State) (h off n : Nat) : Nat := ofLe (((tget [] s.units.hubConst h).drop off).take n)

/-- The hub named is in service, in the partition, and with it a unit of a kind (R25, R104). -/
def hubUnitOk (s : State) (o : Op) (h : Nat) (u : UnitId) : Bool :=
  decide (h < 8) && hubIn s h && holdsHub s o.part h && unitIn s u

def softUnit (h : Nat) : UnitId := uid 8 h

/-- Units of a hub in service. -/
def mvCount (s : State) (h : Nat) : Nat := (List.range 16).countP fun u => unitIn s (uid 7 (h * 16 + u))

/-- The step count of R98: C pace steps, and the bytes read from the stacks over the stacks they lie in. -/
def hubSteps (c : Nat) (reads : List (Nat × Nat)) : Nat :=
  let ds := reads.filter fun r => decide (r.1 < 2 ^ 41)
  let b := (ds.map fun r => r.2).foldl (· + ·) 0
  let st := max 1 (min 4 ((ds.map fun r => r.1 / 2 ^ 36).eraseDups.length))
  max (ceilDiv (1200 + 2 * c) 6000) (ceilDiv (736000 * st + b) (3680000 * st))

/-! ## Softmax and element-wise unit (R209, R211) -/

def negInf : W32 := 0xFF80_0000

/-- A row-wise operation of the softmax unit: its checks, its effect as a function of the state, its element count. -/
def softOp (named : State → Op → Named) (ok : Op → Bool) (hub : Op → Nat) (elems : Op → Nat)
    (f : Op → State → Bool × State) (o : Op) (s : State) : State :=
  let l := named s o
  let steps := hubSteps (ceilDiv (elems o) 256) (readsOf l)
  if ok o && hubUnitOk s o (hub o) (softUnit (hub o)) && hubNamesOk s (hub o) l then
    let (bad, s) := f o s
    opEnd s o.ticket (readStatus false bad) steps
  else opEnd s o.ticket St.protect 0

/-- σ(a) = 1 ÷ (1 + e^(−a)) over NP-3's approximations, each operation rounded to FP32 (R209; log entry 124). -/
def sigma32 (a : W32) : W32 := Config.np3Div 0x3F80_0000 (add32 0x3F80_0000 (Config.np3Exp (sub32 0 a)))

/-- a × σ(a) (R209, HACT mode 0). -/
def silu32 (a : W32) : W32 := mul32 a (sigma32 a)

/-- GELU in the tanh form, ½ a (1 + tanh(√(2 ÷ π) (a + 0.044715 a³))), with its constants rounded to FP32 (R209, HACT mode 1; log
entry 124). -/
def gelu32 (a : W32) : W32 :=
  let cube := mul32 (mul32 a a) a
  mul32 (mul32 0x3F00_0000 a) (add32 0x3F80_0000 (Config.np3Tanh (mul32 0x3F4C_422A (add32 a (mul32 0x3D37_2713 cube)))))

/-- 1 ÷ √d in FP32 (R207, R228): 1/8 and 1/16 exactly, elsewhere NP-3's constant. -/
def invSqrt (d : Nat) : W32 := if d = 64 then 0x3E00_0000 else if d = 256 then 0x3D80_0000 else Config.np3InvSqrt d

def anyNone (vs : List (Option W32)) : Bool := vs.any fun v => v.isNone

def hsRows (o : Op) : Nat := bodyF o 176 16 + 1
def hsCols (o : Op) : Nat := bodyF o 160 16 + 1
def hsHub (o : Op) : Nat := bodyF o 150 4
def hsMode (n : Nat) (o : Op) : Bool := bodyF o 158 2 = n
/-- Bytes of a MERGE area. -/
def hsArea (o : Op) : Nat := (16 + 4 * hsCols o) * hsRows o
def hsAreas (o : Op) : Nat := bodyF o 155 3 + 1

def hsoftOk (o : Op) : Bool := bodyF o 158 2 ≠ 3

def namedHsoft (_ : State) (o : Op) : Named :=
  let n := hsRows o * hsCols o
  match bodyF o 158 2 with
  | 0 => [(false, bodyF o 320 64, 4 * n), (true, bodyF o 256 64, 4 * n), (false, bodyF o 192 64, 16 * hsRows o),
          (true, bodyF o 192 64, 16 * hsRows o)]
  | 1 => [(false, bodyF o 320 64, 4 * n), (true, bodyF o 256 64, valBytes ((o.body.toNat).testBit 154) * n),
          (false, bodyF o 192 64, 16 * hsRows o)]
  | 2 => [(false, bodyF o 320 64, hsAreas o * hsArea o), (true, bodyF o 256 64, hsArea o)]
  | _ => []

/-- e^(a − b). -/
def expDiff (a b : W32) : W32 := Config.np3Exp (sub32 a b)

/-- FOLD of one row (R209): new m, s, r and the probabilities. -/
def foldRow (m sum : W32) (xs : List W32) : W32 × W32 × W32 × List W32 :=
  let m' := xs.foldl max32 m
  let ps := xs.map fun x => expDiff x m'
  let r := expDiff m m'
  (m', add32 (mul32 sum r) (Config.np3Sum ps), r, ps)

def sequence {α : Type} : List (Option α) → Option (List α)
  | [] => some []
  | none :: _ => none
  | some x :: r => (sequence r).map fun l => x :: l

/-- FOLD over the rows. -/
def hsoftFold (o : Op) (s : State) : Bool × State :=
  let c := hsCols o
  (List.range (hsRows o)).foldl (fun (bad, s) i =>
    let rec' := bodyF o 192 64 + 16 * i
    let out := bodyF o 256 64 + 4 * c * i
    match sequence (readVals s true rec' 2 ++ readVals s true (bodyF o 320 64 + 4 * c * i) c) with
    | some (m :: sum :: xs) =>
      let (m', s', r, ps) := foldRow m sum xs
      (bad, writeVals (writeVals s true out (ps.map some)) true rec' [some m', some s', some r, some 0])
    | _ => (true, writeVals (writeVals s true out (List.replicate c none)) true rec' [none, none, none, none])) (false, s)

/-- FINISH: out := acc ÷ s. -/
def hsoftFinish (o : Op) (s : State) : Bool × State :=
  let c := hsCols o
  let y32 := (o.body.toNat).testBit 154
  (List.range (hsRows o)).foldl (fun (bad, s) i =>
    let sum := (readVals s true (bodyF o 192 64 + 16 * i + 4) 1).headD none
    let vs := (readVals s true (bodyF o 320 64 + 4 * c * i) c).map fun x => lift2 Config.np3Div x sum
    (bad || anyNone vs, writeVals s y32 (bodyF o 256 64 + valBytes y32 * c * i) vs)) (false, s)

/-- Two partial triples combined. -/
def mergeRow (x y : W32 × W32 × List W32) : W32 × W32 × List W32 :=
  let (m, a, v) := x
  let (n, b, w) := y
  let k := max32 m n
  let (e, f) := (expDiff m k, expDiff n k)
  (k, add32 (mul32 a e) (mul32 b f), List.zipWith (fun p q => add32 (mul32 p e) (mul32 q f)) v w)

/-- Row i of area k of a MERGE. -/
def mergePart (s : State) (o : Op) (k i : Nat) : Option (W32 × W32 × List W32) :=
  let base := bodyF o 320 64 + k * hsArea o
  let c := hsCols o
  match sequence (readVals s true (base + 16 * i) 2 ++ readVals s true (base + 16 * hsRows o + 4 * c * i) c) with
  | some (m :: a :: v) => some (m, a, v)
  | _ => none

/-- MERGE in ascending hub order; the merged record's r is 1.0, no rescale (log entry 22). -/
def hsoftMerge (o : Op) (s : State) : Bool × State :=
  let c := hsCols o
  let out := bodyF o 256 64
  let res := (List.range (hsRows o)).map fun i =>
    ((List.range (hsAreas o)).map fun k => mergePart s o k i).foldl (fun (acc : Option (Option (W32 × W32 × List W32))) x =>
      match acc with
      | none => some x
      | some a => some (match a, x with | some a, some b => some (mergeRow a b) | _, _ => none)) none
  (indexed res).foldl (fun (bad, s) (i, r) =>
    match r with
    | some (some (m, a, v)) =>
      (bad, writeVals (writeVals s true (out + 16 * i) [some m, some a, some 0x3F80_0000, some 0]) true
        (out + 16 * hsRows o + 4 * c * i) (v.map some))
    | _ => (true, writeVals (writeVals s true (out + 16 * i) [none, none, none, none]) true
        (out + 16 * hsRows o + 4 * c * i) (List.replicate c none))) (false, s)

/-- HSOFT in one of its modes. -/
def hsoft (mode : Nat) (f : Op → State → Bool × State) (p : Posted) (s : State) : Res :=
  postedMode 0 namedHsoft 6 3 (hsMode mode) p
    (softOp namedHsoft hsoftOk hsHub (fun o => hsRows o * hsCols o * (if mode = 2 then hsAreas o else 1)) f) s

/-- HSOFT mode FOLD (R209). -/
def execHsoftFold (p : Posted) (s : State) : Res := hsoft 0 hsoftFold p s
/-- HSOFT mode FINISH (R209). -/
def execHsoftFinish (p : Posted) (s : State) : Res := hsoft 1 hsoftFinish p s
/-- HSOFT mode MERGE (R209). -/
def execHsoftMerge (p : Posted) (s : State) : Res := hsoft 2 hsoftMerge p s

def rowsF (o : Op) : Nat := bodyF o 176 16 + 1
def widthF (o : Op) : Nat := bodyF o 160 16 + 1
def fmtBit (o : Op) (i : Nat) : Bool := (o.body.toNat).testBit i

def namedHnorm (_ : State) (o : Op) : Named :=
  let n := rowsF o * widthF o
  [(false, bodyF o 320 64, valBytes (fmtBit o 159) * n), (true, bodyF o 256 64, valBytes (fmtBit o 158) * n),
   (false, bodyF o 192 64, 4 * widthF o)]

/-- y := x × g ÷ √(mean(x²) + ε) for one row (R209). -/
def normRow (eps : W32) (g xs : List W32) : List W32 :=
  let mean := Config.np3Div (Config.np3Sum (xs.map fun x => mul32 x x)) (natF32 xs.length)
  let r := Config.np3Rsqrt (add32 mean eps)
  List.zipWith (fun x k => mul32 (mul32 x k) r) xs g

/-- HNORM (R209, R211). -/
def execHnorm (p : Posted) (s : State) : Res :=
  posted 0 false namedHnorm 6 4 p (softOp namedHnorm (fun _ => true) (fun o => bodyF o 154 4)
    (fun o => rowsF o * widthF o) fun o s =>
      let w := widthF o
      let eps := BitVec.ofNat 32 (hubConst s (bodyF o 154 4) 0 4)
      let g := readVals s true (bodyF o 192 64) w
      let (xf, yf) := (fmtBit o 159, fmtBit o 158)
      (List.range (rowsF o)).foldl (fun (bad, s) i =>
        let y := bodyF o 256 64 + valBytes yf * w * i
        match sequence g, sequence (readVals s xf (bodyF o 320 64 + valBytes xf * w * i) w) with
        | some g, some xs => (bad, writeVals s yf y ((normRow eps g xs).map some))
        | _, _ => (true, writeVals s yf y (List.replicate w none))) (false, s)) s

def namedHact (_ : State) (o : Op) : Named :=
  let n := rowsF o * widthF o
  let x := valBytes (fmtBit o 158)
  [(false, bodyF o 320 64, x * n), (false, bodyF o 256 64, x * n), (true, bodyF o 192 64, valBytes (fmtBit o 157) * n)]

/-- HACT (R209, R211). -/
def execHact (p : Posted) (s : State) : Res :=
  posted 0 false namedHact 6 5 p (softOp namedHact (fun _ => true) (fun o => bodyF o 153 4)
    (fun o => rowsF o * widthF o) fun o s =>
      let n := rowsF o * widthF o
      let act := if fmtBit o 159 then gelu32 else silu32
      let vs := List.zipWith (lift2 fun a b => mul32 (act a) b) (readVals s (fmtBit o 158) (bodyF o 320 64) n)
        (readVals s (fmtBit o 158) (bodyF o 256 64) n)
      (anyNone vs, writeVals s (fmtBit o 157) (bodyF o 192 64) vs)) s

def hrRows (o : Op) : Nat := bodyF o 112 16 + 1
def hrHeads (o : Op) : Nat := bodyF o 104 8 + 1
def hrDim (o : Op) : Nat := 64 + 32 * bodyF o 101 3
def hrKv (o : Op) : Nat := bodyF o 93 6 + 1

def namedHrope (_ : State) (o : Op) : Named :=
  let n := hrRows o * hrHeads o * hrDim o
  [(false, bodyF o 320 64, valBytes (fmtBit o 100) * n), (true, bodyF o 256 64, valBytes (fmtBit o 99) * n),
   (false, bodyF o 192 64, 4 * hrRows o)] ++
  if bodyF o 128 64 = 0 then [] else [(true, bodyF o 128 64, 32 * hrRows o * hrKv o)]

/-- The checks of HROPE (R211). DESIGN CHOICE (log entry 174): sketches that are not 32-byte aligned give PROTECT. -/
def hropeOk (o : Op) : Bool := bodyF o 101 3 ≠ 7 && bodyF o 128 64 % 32 = 0

/-- One head rotated: element pairs (j, j + d ÷ 2) by angle pos × θ_j (R209). -/
def ropeHead (theta : Nat → W32) (pos : W32) (xs : List (Option W32)) : List (Option W32) :=
  let h := xs.length / 2
  let at' (j : Nat) : Option W32 := xs.getD j none
  let cs (j : Nat) : W32 := Config.np3Cos (mul32 pos (theta j))
  let sn (j : Nat) : W32 := Config.np3Sin (mul32 pos (theta j))
  ((List.range h).map fun j => lift2 (fun a b => sub32 (mul32 a (cs j)) (mul32 b (sn j))) (at' j) (at' (j + h))) ++
  ((List.range h).map fun j => lift2 (fun a b => add32 (mul32 a (sn j)) (mul32 b (cs j))) (at' j) (at' (j + h)))

/-- KV head of query head q of hq, with h KV heads (R205). -/
def kvHead (h hq q : Nat) : Nat := q * h / hq

/-- The query sketch of a KV head over rotated heads (R199): the sign of the sum over its query heads, ascending. -/
def querySketch (h : Nat) (heads : List (List (Option W32))) (k d : Nat) : Option Nat :=
  let mine := ((indexed heads).filter fun (q, _) => kvHead h heads.length q = k).map fun x => x.2
  if mine.any anyNone then none
  else
    some (((List.range d).map fun j =>
      let sum := mine.foldl (fun a x => add32 a ((x.getD j none).getD 0)) 0
      boolNat (sum.toNat.testBit 31 && sum.toNat % 2 ^ 31 ≠ 0) * 2 ^ j).foldl (· + ·) 0)

/-- HROPE (R199, R209, R211). DESIGN CHOICE (log entry 175): the positions are unsigned integers. -/
def execHrope (p : Posted) (s : State) : Res :=
  posted 0 false namedHrope 6 6 p (softOp namedHrope hropeOk (fun o => bodyF o 89 4)
    (fun o => hrRows o * hrHeads o * hrDim o) fun o s =>
      let (nh, d, h) := (hrHeads o, hrDim o, hrKv o)
      let (xf, yf) := (fmtBit o 100, fmtBit o 99)
      let theta (j : Nat) : W32 := BitVec.ofNat 32 (hubConst s (bodyF o 89 4) (16 + 4 * j) 4)
      (List.range (hrRows o)).foldl (fun (bad, s) t =>
        let pa := bodyF o 192 64 + 4 * t
        let pbad := poisoned s pa 4
        let pos := natF32 (memNum s pa 4)
        let xs := readVals s xf (bodyF o 320 64 + valBytes xf * nh * d * t) (nh * d)
        let heads := (cutEvery d nh xs).map fun x => ropeHead theta pos (if pbad then x.map fun _ => none else x)
        let s := writeVals s yf (bodyF o 256 64 + valBytes yf * nh * d * t) heads.flatten
        let s := if bodyF o 128 64 = 0 then s
          else (List.range h).foldl (fun s k =>
            let a := bodyF o 128 64 + 32 * (t * h + k)
            match querySketch h heads k d with
            | some q => memWriteNum s a 32 q
            | none => poisonRange (memWriteNum s a 32 0) a 32) s
        (bad || heads.any anyNone, s)) (false, s)) s

def haN (o : Op) : Nat := bodyF o 160 32 + 1

def namedHadd (_ : State) (o : Op) : Named :=
  [(false, bodyF o 320 64, valBytes (fmtBit o 159) * haN o), (false, bodyF o 256 64, valBytes (fmtBit o 158) * haN o),
   (true, bodyF o 192 64, valBytes (fmtBit o 157) * haN o)]

/-- HADD (R209, R211). -/
def execHadd (p : Posted) (s : State) : Res :=
  posted 0 false namedHadd 6 7 p (softOp namedHadd (fun _ => true) (fun o => bodyF o 153 4) haN fun o s =>
    let vs := List.zipWith (lift2 add32) (readVals s (fmtBit o 159) (bodyF o 320 64) (haN o))
      (readVals s (fmtBit o 158) (bodyF o 256 64) (haN o))
    (anyNone vs, writeVals s (fmtBit o 157) (bodyF o 192 64) vs)) s

/-! ## HMV (R204, R206, R237) -/

def mvHub (o : Op) : Nat := bodyF o 100 4
def mvVecs (o : Op) : Nat := bodyF o 106 6 + 1

def readDesc (s : State) (a : Nat) : SliceDesc := descOf (memRead s a 128)

/-- The geometry of the model whose key/value fmt an output takes (R206): of the header's request, else of a request of the
hub's model (log entry 23). -/
def outGeom (s : State) (o : Op) (model : Option Nat) : Option Nat :=
  match entryIn s o.part o.request.toNat with
  | some e => some (rootGeom s (rootAddr e))
  | none => model.bind fun m =>
      (s.ldg.entries.find? fun x => x.2.model.toNat = m && x.2.part = o.part && x.2.state ≠ 0).map fun x => rootGeom s (rootAddr x.2)

def mvGeom (s : State) (o : Op) : Option Nat := outGeom s o (some (hubConst s (mvHub o) 8 2 % 4096))

/-- Bytes of one output vector. -/
def outBytes (geom : Option Nat) (yfmt n : Nat) : Nat :=
  match yfmt with
  | 0 => 2 * n
  | 1 => 4 * n
  | _ => match geom with
    | some g => geVec g * ceilDiv n (geDim g)
    | none => n

/-- From one output row to the next: a key/value row takes a token row of a vat (R146, R206, R228; log entry 23). -/
def outStride (geom : Option Nat) (yfmt n : Nat) : Nat :=
  match yfmt, geom with
  | 2, some g => geRow g
  | _, _ => outBytes geom yfmt n

/-- One output vector written; head vectors with a poisoned element are poisoned whole. -/
def writeOut (s : State) (geom : Option Nat) (yfmt a : Nat) (vs : List (Option W32)) : State :=
  match yfmt, geom with
  | 0, _ => writeVals s false a vs
  | 1, _ => writeVals s true a vs
  | _, none => s
  | _, some g =>
    let d := geDim g
    (indexed (cutEvery d (ceilDiv vs.length d) vs)).foldl (fun s (i, v) =>
      let bs := encHead (geFmt g) d (v.map fun x => dec32 (x.getD 0))
      let s := memWrite s (a + geVec g * i) bs
      if anyNone v then poisonRange s (a + geVec g * i) bs.length else s) s

/-- The adapter of vector v; none where it has none. -/
def mvAdapter (s : State) (o : Op) (v : Nat) : Option Nat :=
  if bodyF o 128 64 = 0 then none
  else let a := memNum s (bodyF o 128 64 + 2 * v) 2; if a = 0xFFFF then none else some a

/-- The weights an HMV reads: the slice's blocks, its block index, and the table entry and the factors of each adapter named (R203,
R222, R234, R237). -/
def mvWeights (s : State) (o : Op) : List (Nat × Nat) :=
  let d := readDesc s (bodyF o 320 64)
  [(d.cbase, sliceBytes s d)] ++ (if d.coded then [(d.bidx, 4 * (sliceBlocks d + 1))] else []) ++
  (((List.range (mvVecs o)).filterMap (mvAdapter s o)).eraseDups.flatMap fun a =>
    (d.atab + 32 * a, 32) :: match adapterEntry s d.atab a with
      | none => []
      | some e => [(e.1, factorBytes e.2.2.2 (32 * d.kblk)), (e.2.1, factorBytes d.nrows e.2.2.2)])

/-- The ranges of an HMV: those its body names, and from its launch on the weights that its descriptor and adapters name (R54; log
entry 127). -/
def namedHmv (s : State) (o : Op) : Named :=
  let d := readDesc s (bodyF o 320 64)
  let v := mvVecs o
  let y := bodyF o 104 2
  let g := mvGeom s o
  [(false, bodyF o 320 64, 128), (false, bodyF o 256 64, 64 * d.kblk * v),
   (true, bodyF o 192 64, outStride g y d.nrows * (v - 1) + outBytes g y d.nrows)] ++
  (if bodyF o 128 64 = 0 then [] else [(false, bodyF o 128 64, 2 * v)]) ++
  if o.trig.isNone then [] else (mvWeights s o).map fun x => (false, x.1, x.2)

/-- The checks of HMV (R25, R203, R219, R225, R237). DESIGN CHOICE (log entry 149): umask 0 is refused; outputs in the key/value format may lie
wherever R203 allows. -/
def hmvOk (s : State) (o : Op) : Bool :=
  let h := mvHub o
  let d := readDesc s (bodyF o 320 64)
  let um := bodyF o 112 16
  bodyF o 104 2 ≠ 3 && um ≠ 0 && decide (h < 8) &&
  (List.range 16).all (fun u => !um.testBit u || unitIn s (uid 7 (h * 16 + u))) &&
  hubIn s h && holdsHub s o.part h && bodyF o 320 64 % 64 = 0 &&
  hubAddrOk s h (bodyF o 320 64) 128 && descOk s o.part d && (d.wfmt = 0 || d.wfmt = 3 || d.wfmt = 5) &&
  hubNamesOk s h (namedHmv s o) && (mvWeights s o).all (fun x => hubStackOk s h x.1 x.2) && (bodyF o 104 2 ≠ 2 || (mvGeom s o).isSome) &&
  (List.range (mvVecs o)).all fun v => match mvAdapter s o v with
    | none => true
    | some a => (adapterEntry s d.atab a).isSome

/-- The adapter vector u := s_a × (A_a x), rounded to BF16 (R237). -/
def adapterU (s : State) (k : Nat) (e : Nat × Nat × W32 × Nat) (xg : List Grp) : List (Option W32) :=
  (factorRows s e.1 e.2.2.2 k).map fun row =>
    (dot xg row).map fun y => BitVec.ofNat 32 ((enc16 (dec32 (mul32 e.2.2.1 y))).toNat * 2 ^ 16)

/-- HMV (R206, R227, R237): a descriptor or adapter list that is poisoned poisons every output (log entry 127). -/
def execHmv (p : Posted) (s : State) : Res :=
  posted 0 false namedHmv 6 0 p (checked hmvOk fun o s =>
    let d := readDesc s (bodyF o 320 64)
    let k := 32 * d.kblk
    let n := d.nrows
    let t := (elemOf d.wfmt).getD .e4m3
    let rows := sliceRows d (readBlock s d)
    let bad := poisoned s (bodyF o 320 64) 128 || (bodyF o 128 64 ≠ 0 && poisoned s (bodyF o 128 64) (2 * mvVecs o))
    let outs := (List.range (mvVecs o)).map fun v =>
      let xs := readVals s false (bodyF o 256 64 + 2 * k * v) k
      let xg := valGroups t xs
      match (mvAdapter s o v).bind (adapterEntry s d.atab) with
      | none => rows.map fun row => dot xg row
      | some e =>
        let ug := valGroups .e4m3 (adapterU s k e (valGroups .e4m3 xs))
        List.zipWith (fun row b => accumulate (dot xg row) ug b) rows (factorRows s e.2.1 n e.2.2.2)
    let outs := if bad then outs.map fun vs => vs.map fun _ => none else outs
    let g := mvGeom s o
    let y := bodyF o 104 2
    let s' := (indexed outs).foldl (fun s (v, vs) => writeOut s g y (bodyF o 192 64 + outStride g y n * v) vs) s
    let u := (List.range 16).countP (bodyF o 112 16).testBit
    let adapters := (List.range (mvVecs o)).filterMap fun v => (mvAdapter s o v).bind (adapterEntry s d.atab)
    let extra := (adapters.map fun e => e.2.2.2 * (k + n)).foldl (· + ·) 0
    opEnd s' o.ticket (readStatus false (outs.any anyNone))
      (hubSteps (ceilDiv (2 * (n * k * mvVecs o + extra)) (512 * u * wfTwoF d.wfmt)) (readsOf (namedHmv s o)))) s

/-! ## HQK and HPV (R97, R205, R207, R208) -/

def qkHub (o : Op) : Nat := bodyF o 144 4
def qkLayer (o : Op) : Nat := bodyF o 160 8
def qkFirst (o : Op) : Nat := bodyF o 154 6
def qkHeads (o : Op) : Nat := bodyF o 148 6 + 1

/-- The positions, ascending as listed; a list counts them in its bytes 0 and 1 (R202, R207). -/
def qkPositions (s : State) (o : Op) : List Nat :=
  let l := bodyF o 192 64
  if l = 0 then (List.range (bodyF o 168 12 + 1)).map fun i => bodyF o 180 12 + i
  else (List.range (memNum s l 2)).map fun i => memNum s (l + 8 + 2 * i) 2

/-- The geometry of the header's request. -/
def reqGeom (s : State) (o : Op) : Nat :=
  match entryIn s o.part o.request.toNat with
  | some e => rootGeom s (rootAddr e)
  | none => 0

/-- The query heads that map to the named KV heads (R205). -/
def qkRows (s : State) (o : Op) : List Nat :=
  let hq := hubConst s (qkHub o) 4 2
  (List.range hq).filter fun q =>
    let k := kvHead (geHeads (reqGeom s o)) hq q
    decide (qkFirst o ≤ k) && decide (k < qkFirst o + qkHeads o)

def namedQk (value : Bool) (s : State) (o : Op) : Named :=
  let rows := (qkRows s o).length
  let cols := 256 * (qkPositions s o).length
  let d := geDim (reqGeom s o)
  let l := bodyF o 192 64
  (if value then [(false, bodyF o 320 64, 16 * rows + 4 * rows * cols), (false, bodyF o 256 64, 4 * rows * d),
                  (true, bodyF o 256 64, 4 * rows * d)]
   else [(false, bodyF o 320 64, 2 * rows * d), (true, bodyF o 256 64, 4 * rows * cols)]) ++
  if l = 0 then [] else [(false, l, 8 + 2 * (qkPositions s o).length)]

/-- The checks of HQK and HPV (R25, R203, R207). DESIGN CHOICE (log entry 172): a request without an entry in the partition gives PROTECT. -/
def qkOk (value : Bool) (s : State) (o : Op) : Bool :=
  let h := qkHub o
  decide (h < 8) && hubIn s h && holdsHub s o.part h && decide (0 < mvCount s h) &&
  (entryIn s o.part o.request.toNat).isSome && decide (qkFirst o + bodyF o 148 6 < geHeads (reqGeom s o)) &&
  hubNamesOk s h (namedQk value s o)

/-- How a page of a list is read: none where another hub's stacks hold it (R207), verified where every head is read
(R208). DESIGN CHOICE (log entry 173): all H heads of one instruction are the full read, of its K or its V blocks. -/
def lookPage (s : State) (o : Op) (e : LEntry) (layer g : Nat) (hub : Option Nat) (full : Bool) : Option PageUse × State :=
  let table := tableOf s o.request.toNat e layer g
  let (v, s) := translate s o.request.toNat e layer (256 * g)
  let held := peKind v = PK.vat || peKind v = PK.dram
  let s := if held then noteUses s o.ticket [(peStack v, peGran v, geGran (reqGeom s o))] else s
  if held && hub.any fun h => peStack v / 4 ≠ h then (none, s)
  else match table with
    | none => (some .absent, raise s 0x07 o.part.val 0 0xFFFFFFFF layer)
    | some gt =>
      if peKind v = PK.dram && peCv v && !full then
        (some (.sealed (pageAddr (peStack v) (peGran v))), noteRead s (pageAddr (peStack v) (peGran v)) (gePage (hdGeom (gtHeader s gt))))
      else if layer < geLayers (hdGeom (gtHeader s gt)) then
        let (u, s) := usePage s o.part gt layer v
        (some u, s)
      else (some .absent, raise s 0x07 o.part.val 0 0xFFFFFFFF layer)

/-- The pages of a list read in order. -/
def lookPages (o : Op) (e : LEntry) (layer : Nat) (hub : Option Nat) (full : Bool) :
    List Nat → State → List (Option PageUse) × State
  | [], s => ([], s)
  | g :: r, s =>
    let (u, s) := lookPage s o e layer g hub full
    let (us, s) := lookPages o e layer hub full r s
    (u :: us, s)

/-- The head vector of a token: none where the page has none for it; inside, none for poison (R135, R153). -/
def headVec (s : State) (geom : Nat) (u : PageUse) (value : Bool) (h t : Nat) : Option (Option (List Byte)) :=
  let r := geVec geom
  let b := (if value then geHeads geom else 0) + h
  let at' (a : Nat) : Option (List Byte) := if poisoned s a r then none else some (memRead s a r)
  match u with
  | .absent => none
  | .sealed a => some (at' (a + b * 256 * r + t * r))
  | .vat a fill => if t < fill then some (at' (a + t * geRow geom + b * r)) else none

/-- The groups of a key along d (R204, R226). -/
def keyGroups (geom : Nat) (bs : List Byte) : List Grp :=
  let d := geDim geom
  let (xs, sc) := headElems (geFmt geom) d bs
  (indexed (cutEvery 32 (d / 32) xs)).map fun (i, g) =>
    match geFmt geom with
    | 2 => .bf g
    | 1 => .mx (sc.getD i 0) false g
    | _ => .mx 127 false g

/-- A query's groups at a matrix-vector unit: MXFP8 E4M3, blocks of 32 along d, whatever the keys' format (R204). -/
def queryGroups (q : List (Option W32)) : List Grp := valGroups .e4m3 q

/-- The score of a token: −∞ where it has no key (R207; log entry 24). -/
def tokenScore (geom : Nat) (qg : List Grp) : Option (Option (List Byte)) → Option W32
  | none => some negInf
  | some none => none
  | some (some bs) => (dot qg (keyGroups geom bs)).map fun x => mul32 x (invSqrt (geDim geom))

def useVec (s : State) (geom : Nat) (value : Bool) (h t : Nat) (u : Option PageUse) : Option (Option (List Byte)) :=
  u.bind fun u => headVec s geom u value h t

def anyAbsent (us : List (Option PageUse)) : Bool := us.any fun u => u = some .absent

/-- The tokens that a use of a page reads, and where: none of a page of another hub or an absent one, those below its fill of a vat. -/
def useTokens (us : List (Option PageUse)) : List (Nat × Nat) :=
  us.filterMap fun u => match u with
    | some (.sealed a) => some (a, 256)
    | some (.vat a fill) => some (a, min fill 256)
    | _ => none

/-- The place of a page that a full read found bad, from the state before: it was read whole, though none of its data is used (R153). -/
def failedPage (s : State) (o : Op) (e : LEntry) (layer g : Nat) : Option Nat :=
  (tableOf s o.request.toNat e layer g).bind fun gt =>
    let v := getPte s gt layer
    if peKind v = PK.dram && peCv v then some (pageAddr (peStack v) (peGran v)) else none

/-- What HQK and HPV read of the pages of a list, from the state before: all of a page read in full, pad and sketch among it as its
checksum covers them, of the failing ones too; else the blocks of the named heads; of a vat the slots below its fill (R98, R151, R153,
R208). -/
def qkReads (s : State) (o : Op) (e : LEntry) (us : List (Option PageUse)) : List (Nat × Nat) :=
  let geom := reqGeom s o
  let r := geVec geom
  let full := gePage geom + 32 * geHeads geom * geDim geom
  (List.zip (qkPositions s o) us).filterMap fun (g, u) => match u with
    | some (.sealed a) => some (a, if qkHeads o = geHeads geom then full else 256 * r * qkHeads o)
    | some (.vat a fill) => some (a, min fill 256 * r * qkHeads o)
    | some .absent => (failedPage s o e (qkLayer o) g).map fun a => (a, full)
    | none => none

/-- The steps of HQK and HPV (R98), s the state before: E counts the multiply-accumulates done, over the tokens used, and u every
matrix-vector unit of the hub in service, as the body names none. DESIGN CHOICE (log entry 126): R98 gives f for MXFP4, FP8 and INT8; of BF16
it is taken as 0.5, as R99 has it. -/
def qkSteps (s : State) (o : Op) (e : LEntry) (us : List (Option PageUse)) (rows : Nat) (named : Named) : Nat :=
  let geom := reqGeom s o
  let twoF := match geFmt geom with | 1 => 4 | 2 => 1 | _ => 2
  let tokens := ((useTokens us).map fun x => x.2).foldl (· + ·) 0
  hubSteps (ceilDiv (2 * rows * tokens * geDim geom) (512 * max 1 (mvCount s (qkHub o)) * twoF))
    (qkReads s o e us ++ readsOf named)

/-- HQK (R205, R207, R208). DESIGN CHOICE (log entry 171): queries and scores lie row after row. -/
def execHqk (p : Posted) (s : State) : Res :=
  posted 0 false (namedQk false) 6 1 p (checked (qkOk false) fun o s =>
    match entryIn s o.part o.request.toNat with
    | none => s
    | some e =>
      let geom := reqGeom s o
      let d := geDim geom
      let rows := qkRows s o
      let ps := qkPositions s o
      let hq := hubConst s (qkHub o) 4 2
      let named := namedQk false s o
      let s0 := s
      let (us, s) := lookPages o e (qkLayer o) (some (qkHub o)) (qkHeads o = geHeads geom) ps s
      let outs := (indexed rows).map fun (i, q) =>
        let qg := queryGroups (readVals s false (bodyF o 320 64 + 2 * d * i) d)
        us.flatMap fun u => (List.range 256).map fun t => tokenScore geom qg (useVec s geom false (kvHead (geHeads geom) hq q) t u)
      let s' := (indexed outs).foldl (fun s (i, vs) => writeVals s true (bodyF o 256 64 + 4 * 256 * ps.length * i) vs) s
      opEnd s' o.ticket (readStatus (anyAbsent us) (outs.any anyNone)) (qkSteps s0 o e us rows.length named)) s

/-- The value element n of each of 32 tokens as an operand group: FP8 with scale 1, the others as numbers, which a tile rounds to
BF16 (R204, R228); tokens without data give zeros, a poisoned one poison. -/
def valueGroup (tile : Bool) (geom : Nat) (vs : List (Option (Option (List Num)))) (n : Nat) : Grp :=
  if vs.any fun v => v = some none then .poison
  else
    let xs := vs.map fun v => match v with | some (some l) => l.getD n Num.zero | _ => Num.zero
    if geFmt geom = 0 then .mx 127 false xs else .bf (if tile then xs.map fun x => dec16 (enc16 x) else xs)

/-- The values of a head vector. -/
def valueVec (geom : Nat) : Option (Option (List Byte)) → Option (Option (List Num))
  | some (some bs) => some (some (headVals (geFmt geom) (geDim geom) bs))
  | some none => some none
  | none => none

/-- The sums Σ p × v of one row over groups of 32 tokens, by column: probabilities, as elements of a type, of tokens without data
count as zero, and groups without data do not enter (R207, R227). -/
def weightedSum (tile : Bool) (t : Elem) (geom : Nat) (ps : List (Option W32)) (vecs : List (Option (Option (List Num)))) :
    List (Option W32) :=
  let n := vecs.length / 32
  let ps := List.zipWith (fun p v => if v.isSome then p else some 0) ps vecs
  let gs := (List.zip (cutEvery 32 n ps) (cutEvery 32 n vecs)).filter fun (_, v) => v.any fun x => x.isSome
  let pg := gs.map fun (p, _) => (valGroups t p).headD .poison
  (List.range (geDim geom)).map fun c => dot pg (gs.map fun (_, v) => valueGroup tile geom v c)

/-- HPV (R207, R208, R227). DESIGN CHOICE (log entry 171): operand a is the state records of all rows, 16 bytes each, then the
probabilities of all rows, row after row. -/
def execHpv (p : Posted) (s : State) : Res :=
  posted 0 false (namedQk true) 6 2 p (checked (qkOk true) fun o s =>
    match entryIn s o.part o.request.toNat with
    | none => s
    | some e =>
      let geom := reqGeom s o
      let d := geDim geom
      let rows := qkRows s o
      let ps := qkPositions s o
      let hq := hubConst s (qkHub o) 4 2
      let cols := 256 * ps.length
      let a := bodyF o 320 64
      let named := namedQk true s o
      let s0 := s
      let (us, s) := lookPages o e (qkLayer o) (some (qkHub o)) (qkHeads o = geHeads geom) ps s
      let outs := (indexed rows).map fun (i, q) =>
        let h := kvHead (geHeads geom) hq q
        let vecs := us.flatMap fun u => (List.range 256).map fun t => valueVec geom (useVec s geom true h t u)
        let r := (readVals s true (a + 16 * i + 8) 1).headD none
        let sums := weightedSum false .e4m3 geom (readVals s true (a + 16 * rows.length + 4 * cols * i) cols) vecs
        List.zipWith (lift2 add32) ((readVals s true (bodyF o 256 64 + 4 * d * i) d).map fun x => lift2 mul32 x r) sums
      let s' := (indexed outs).foldl (fun s (i, vs) => writeVals s true (bodyF o 256 64 + 4 * d * i) vs) s
      opEnd s' o.ticket (readStatus (anyAbsent us) (outs.any anyNone)) (qkSteps s0 o e us rows.length named)) s

/-! ## HSWAP (R212) -/

def swUnits (o : Op) : List Nat := (List.range 16).filter (bodyF o 240 16).testBit
def swHub (o : Op) : Nat := bodyF o 235 4

/-- The places of an image besides the constant block: address in the hub window and length. -/
def swParts (o : Op) : List (Nat × Nat) :=
  ((swUnits o).map fun u => (hubWin (swHub o) + 0x210_0000 + 0x2_0000 * u, 0x2_0000)) ++
  if fmtBit o 239 then [(hubWin (swHub o) + 0x200_0000, 0x10_0000)] else []

def swBytes (o : Op) : Nat := 4096 + ((swParts o).map fun x => x.2).foldl (· + ·) 0

def namedHswap (_ : State) (o : Op) : Named :=
  (if bodyF o 320 64 = 0 then [] else [(true, bodyF o 320 64, swBytes o)]) ++
  (if bodyF o 256 64 = 0 then [] else [(false, bodyF o 256 64, swBytes o)])

def hswapOk (s : State) (o : Op) : Bool :=
  let h := swHub o
  decide (h < 8) && hubIn s h && holdsHub s o.part h &&
  (swUnits o).all (fun u => unitIn s (uid 7 (h * 16 + u))) && (!fmtBit o 239 || unitIn s (softUnit h)) &&
  hubNamesOk s h (namedHswap s o)

/-- The parts of an image copied, one after another from an address. -/
def copyParts (out : Bool) (a : Nat) : List (Nat × Nat) → State → State
  | [], s => s
  | (x, n) :: r, s => copyParts out (a + n) r (if out then copyBytes s x a n else copyBytes s a x n)

/-- HSWAP (R212). -/
def execHswap (p : Posted) (s : State) : Res :=
  posted 1 false namedHswap 6 8 p (checked hswapOk fun o s =>
    let h := swHub o
    let (sv, ld) := (bodyF o 320 64, bodyF o 256 64)
    let bad := (sv ≠ 0 && (swParts o).any fun x => poisoned s x.1 x.2) || (ld ≠ 0 && poisoned s ld (swBytes o))
    let s := if sv = 0 then s
      else copyParts true (sv + 4096) (swParts o)
        (memWrite s sv ((List.range 4096).map fun i => (tget [] s.units.hubConst h).getD i 0))
    let s := if ld = 0 then s
      else
        let s := { s with units := { s.units with hubConst := tset [] s.units.hubConst h (memRead s ld 4096) } }
        copyParts false (ld + 4096) (swParts o) s
    opEnd s o.ticket (readStatus false bad) (hubSteps 0 (readsOf (namedHswap s o)))) s

end Sys2Proof.Machine
end

