-- ==== Sys2Proof/Machine/Tile.lean ====
section
/-! DEFINITION. The tile instructions: TJOB, TGATHER and TSWAP (R99, R216, R217, R225 to R240). -/
namespace Sys2Proof.Machine

/-! ## Named slots (R24, R25, R229) -/

def tjC (o : Op) : Nat := bodyF o 112 16
def tjS (o : Op) : Nat := bodyF o 104 8
def tjClusters (o : Op) : List Nat := (List.range 16).filter (tjC o).testBit
def tjSlots (o : Op) : List Nat := (List.range 8).filter (tjS o).testBit

/-- The named slots, ascending by cluster and then slot, as numbers cluster × 8 + slot. -/
def tjNamed (o : Op) : List Nat := (tjClusters o).flatMap fun c => (tjSlots o).map fun k => c * 8 + k

def tileGet (s : State) (i : Nat) : TileSlot := tget {} s.units.tiles i
def tileSet (s : State) (i : Nat) (x : TileSlot) : State := { s with units := { s.units with tiles := tset {} s.units.tiles i x } }

/-- Every named cluster is in service, held by the partition, and every named slot has a tile (R25, R99, R104). -/
def tileSlotsOk (s : State) (o : Op) : Bool :=
  !(tjNamed o).isEmpty &&
  (tjClusters o).all (fun c => unitIn s (uid 2 c) && holdsCluster s o.part c) &&
  (tjNamed o).all fun i => (tileOf s (i / 8) (i % 8)).isSome

/-- The waves that bring up a cluster's tiles. -/
def clusterWaves (i : Nat) : List Nat := (List.range 18).filter fun w => decide (w * 8 < 9 * i + 9) && decide (9 * i < w * 8 + 8)

/-- Compute service is given, and the named clusters are brought up and powered; a launch waits for one that is gated or not yet up (R352
steps 10 and 11; log entry 25). -/
def clustersUp (s : State) (o : Op) : Bool :=
  memService s && (tjClusters o).all fun c =>
    !s.units.gated.toNat.testBit c && (clusterWaves c).all s.units.tileUp.toNat.testBit

/-! ## Descriptors by their addresses, through the configuration blocks (R228, R238) -/

def tjRows (o : Op) : Nat := bodyF o 94 10 + 1
def tjKind (o : Op) : Nat := bodyF o 86 2
def tjSplit (o : Op) : Bool := fmtBit o 85
def tjHold (o : Op) : Bool := fmtBit o 84
def tjCfmt (o : Op) : Nat := bodyF o 79 2

/-- The descriptor addresses listed at an address. -/
def descAddrs (s : State) (o : Op) (src : Nat) : List Nat :=
  (List.range (bodyF o 88 6 + 1)).map fun i => memNum s (src + 8 * i) 8

/-- A descriptor's bytes as a slot's jobs see them: those its configuration block holds, else those in memory (R238). -/
def descBytes (s : State) (slot a : Nat) : List Byte :=
  match (tileGet s slot).cache.find? fun x => x.1.toNat = a with
  | some (_, bs) => bs
  | none => memRead s a 128

/-- Descriptors looked up enter the configuration block of every named slot, at most 32, the oldest leaving (R238; log
entry 26). -/
def cacheDescs (s : State) (o : Op) (as : List Nat) : State :=
  (tjNamed o).foldl (fun s i =>
    as.foldl (fun s a =>
      let x := tileGet s i
      if x.cache.any fun y => y.1.toNat = a then s
      else
        let c := x.cache ++ [(BitVec.ofNat 64 a, descBytes s i a)]
        tileSet s i { x with cache := c.drop (c.length - 32) }) s) s

/-- The listed descriptors as one slot sees them. -/
def slotDescs (s : State) (o : Op) (src slot : Nat) : List SliceDesc :=
  (descAddrs s o src).map fun a => descOf (descBytes s slot a)

/-- The descriptors that fix a job's shape and dealing: the first named slot's. -/
def tjDescs (s : State) (o : Op) (src : Nat) : List SliceDesc := slotDescs s o src ((tjNamed o).headD 0)

/-- The distinct views that the named slots have of the listed descriptors. -/
def descViews (s : State) (o : Op) (src : Nat) : List (List SliceDesc) := ((tjNamed o).map (slotDescs s o src)).eraseDups

/-- The list of descriptors, or a descriptor that no slot caches, is poisoned: the job reads it as poison (log entry 127). -/
def descPoison (s : State) (o : Op) (src : Nat) : Bool :=
  poisoned s src (8 * (bodyF o 88 6 + 1)) ||
  (descAddrs s o src).any fun a => poisoned s a 128 &&
    (tjNamed o).any fun i => !(tileGet s i).cache.any fun x => x.1.toNat = a

/-! ## The operands of a job (R228) -/

def tjA (o : Op) : Nat := bodyF o 256 64
def tjDst (o : Op) : Nat := bodyF o 192 64
def tjU (o : Op) : Nat := bodyF o 128 64
def tjPos (o : Op) : Nat := bodyF o 41 12 + 1

/-- The directory of a gather: adapter, offset and rank of each entry (R235). -/
def directory (s : State) (a : Nat) : List (Nat × Nat × Nat) :=
  let h := memNum s a 16
  (List.range (min (bf h 0 16) 64)).map fun i =>
    let e := memNum s (a + 16 + 16 * i) 16
    (bf e 0 16, bf e 16 16, bf e 32 16)

/-- The total rank R of a directory. -/
def dirRank (s : State) (a : Nat) : Nat := bf (memNum s a 16) 16 16

/-- The reduction dimension K, by kind. -/
def tjK (s : State) (o : Op) : Nat :=
  match tjKind o with
  | 1 => geDim (reqGeom s o)
  | 2 => 256 * tjPos o
  | _ => match tjDescs s o (bodyF o 320 64) with | d :: _ => 32 * d.kblk | [] => 0

/-- The output columns N, by kind. -/
def tjN (s : State) (o : Op) : Nat :=
  match tjKind o with
  | 0 => ((tjDescs s o (bodyF o 320 64)).map fun d => d.nrows).foldl (· + ·) 0
  | 1 => 256 * tjPos o
  | 2 => geDim (reqGeom s o)
  | _ => dirRank s (tjU o)

/-- The element type of a descriptor's weights. -/
def descElem (d : SliceDesc) : Elem := (elemOf d.wfmt).getD .e4m3

/-- The operand type at the array's port for the held operand of kinds 1 to 3 (R226, R228). -/
def tjElem (s : State) (o : Op) : Elem :=
  match tjKind o with
  | 1 => if geFmt (reqGeom s o) = 2 then .bf16 else .e4m3
  | 2 => if geFmt (reqGeom s o) = 0 then .e4m3 else .bf16
  | _ => .e4m3

/-- Twice f of the streamed operand of kinds 1 to 3 (R228). -/
def tjTwoF (s : State) (o : Op) : Nat :=
  match tjKind o with
  | 1 => match geFmt (reqGeom s o) with | 1 => 4 | 2 => 1 | _ => 2
  | 2 => if geFmt (reqGeom s o) = 0 then 2 else 1
  | _ => 2

/-- The type to which the port converts the held operand for weights of a type (R226). -/
def portElem : Elem → Elem | .bf16 => .bf16 | .int8 => .int8 | _ => .e4m3

/-- Bytes of a converted group at the port: 33, or 64 of BF16. -/
def portBytes : Elem → Nat | .bf16 => 64 | _ => 33

/-! ## The dealing of panels (R229) -/

/-- The panels of a list of slices in order: the slice, its place in the list, the panel of the slice. -/
def slicePanels (ds : List SliceDesc) : List (SliceDesc × Nat × Nat) :=
  (indexed ds).flatMap fun (i, d) => (List.range (ceilDiv d.nrows 128)).map fun p => (d, i, p)

/-- The lanes that panels are dealt to in turn: the named slots where panels are split, else the named clusters. -/
def lanes (split : Bool) (o : Op) : Nat := max 1 (if split then (tjNamed o).length else (tjClusters o).length)

/-- The slot that computes panel p for held row t (R229). -/
def slotOf (o : Op) (t p : Nat) : Nat :=
  let l := p % lanes (tjSplit o) o
  if tjSplit o then (tjNamed o).getD l 0 else (tjClusters o).getD l 0 * 8 + (tjSlots o).getD (t / 128) 0

/-- The cluster that receives panel p. -/
def clusterOf (o : Op) (p : Nat) : Nat := slotOf o 0 p / 8

/-- For each panel of a job, twice f of what streams in it. -/
def panelRates (s : State) (o : Op) : List Nat :=
  match tjKind o with
  | 0 => (slicePanels (tjDescs s o (bodyF o 320 64))).map fun x => wfTwoF x.1.wfmt
  | _ => List.replicate (ceilDiv (tjN s o) 128) (tjTwoF s o)

/-- The panels of the busiest slot, each in the time of one at f = 2 (R229, R231). -/
def tjPMax (s : State) (o : Op) : Nat :=
  let n := lanes (tjSplit o) o
  let ps := indexed (panelRates s o)
  ((List.range n).map fun l => ((ps.filter fun x => x.1 % n = l).map fun x => 4 / x.2).foldl (· + ·) 0).foldl max 0

/-! ## The held operand (R226, R228) -/

/-- A row of converted groups as the pinned part holds it, each group's scale and elements (log entry 27); poison in a line that was
loaded poisoned. -/
def pinnedRow (x : TileSlot) (t : Elem) (k j : Nat) : List Grp :=
  let w := portBytes t
  let n := ceilDiv k 32 * w
  (indexed (cutEvery w (ceilDiv k 32) ((x.pinned.drop (n * j)).take n))).map fun (i, g) =>
    let at' := 4096 + n * j + w * i
    if x.bad.any fun l => decide (at' / 64 ≤ l) && decide (l ≤ (at' + w - 1) / 64) then .poison
    else match t with
    | .bf16 => .bf ((cutEvery 2 32 g).map fun x => dec16 (BitVec.ofNat 16 (ofLe x)))
    | _ => .mx ((g.headD 0).toNat) (t = .int8) ((g.drop 1).map fun b => decElem t b.toNat)

/-- Held row i as operand groups for weights of a type, by the slot that uses it: converted from memory, or that slot's pinned part in place. -/
def heldRow (s : State) (o : Op) (t : Elem) (i : Nat) : Nat → List Grp :=
  let k := tjK s o
  if tjA o = 0 then fun slot => pinnedRow (tileGet s slot) (portElem t) k (if tjSplit o then i else i % 128)
  else
    let f32 := tjKind o = 2
    let g := valGroups t (readVals s f32 (tjA o + valBytes f32 * k * i) k)
    fun _ => g

/-! ## The launch checks (R225, R230) -/

/-- The bytes of held data of the named slot of place n, after conversion; with several formats in a list, a conversion for each
(R230; log entry 128). -/
def slotHeld (s : State) (o : Op) (n : Nat) : Nat :=
  let ds := tjDescs s o (bodyF o 320 64)
  if tjHold o then
    (((indexed (slicePanels ds)).filter fun x => x.1 % lanes true o = n).map fun (_, d, _, p) =>
      panelRows d p * d.kblk * wfGroup d.wfmt).foldl (· + ·) 0
  else
    let rows := if tjSplit o then tjRows o else min 128 (tjRows o - 128 * (n % max 1 (tjSlots o).length))
    let types := if tjKind o = 0 then (ds.map fun d => portElem (descElem d)).eraseDups
      else [tjElem s o]
    (types.map fun t => rows * ceilDiv (tjK s o) 32 * portBytes t).foldl (· + ·) 0

/-- Every named slot has room for its held data: its held region, or its pinned part where that is used in place (R217, R230). -/
def heldFits (s : State) (o : Op) : Bool :=
  (indexed (tjNamed o)).all fun (n, i) => decide (slotHeld s o n ≤ if tjA o = 0 then (tileGet s i).pin * 65536 else 1536 * 1024)

/-- The slots hold a gather whose rows and dealing match (R230). -/
def gatherOk (s : State) (o : Op) : Bool :=
  (tjNamed o).all fun i => match (tileGet s i).gather with
    | some g => g.rows = tjRows o && g.split = tjSplit o && g.cmask.toNat = tjC o && g.smask.toNat = tjS o
    | none => false

/-- The rank of the gathered adapters that a job applies, 0 where it applies none. -/
def tjRank (s : State) (o : Op) : Nat :=
  if tjKind o = 0 && fmtBit o 82 then (((tileGet s ((tjNamed o).headD 0)).gather).map fun g => g.rank).getD 0 else 0

/-- The geometry of a key/value output. -/
def tjGeom (s : State) (o : Op) : Option Nat := outGeom s o none

/-- From one output row to the next; kind 3 writes BF16 (R228, R236). -/
def tjOutStride (s : State) (o : Op) : Nat :=
  if tjKind o = 3 then 2 * tjN s o
  else match tjCfmt o with
  | 2 => outStride (tjGeom s o) 2 (tjN s o)
  | 3 => ceilDiv (tjN s o) 32 * 33
  | f => outBytes none f (tjN s o)

/-- The factors that a directory names in a table: table entry and A_a of each. -/
def downFactors (s : State) (o : Op) : List (Nat × Nat) :=
  let atab := ((tjDescs s o (bodyF o 320 64)).headD (factorDesc 0 1 1)).atab
  (directory s (tjU o)).flatMap fun (a, _, r) => (atab + 32 * a, 32) :: match adapterEntry s atab a with
    | none => []
    | some e => [(e.1, factorBytes r (tjK s o))]

/-- The ranges of a TJOB: those its body and its list name, and from its launch on what its descriptors and directory name (R54; log
entry 127). -/
def namedTjob (s : State) (o : Op) : Named :=
  let k := tjK s o
  let kinds03 := tjKind o = 0 || tjKind o = 3
  let src := bodyF o 320 64
  let stride := tjOutStride s o
  let last := if tjKind o ≠ 3 && tjCfmt o = 2 then outBytes (tjGeom s o) 2 (tjN s o) else stride
  (if tjA o = 0 then [] else [(false, tjA o, valBytes (tjKind o = 2) * k * tjRows o)]) ++
  [(true, tjDst o, stride * (tjRows o - 1) + last)] ++
  (if kinds03 then (false, src, 8 * (bodyF o 88 6 + 1)) :: (descAddrs s o src).map (fun a => (false, a, 128)) else []) ++
  (if tjKind o = 3 then [(false, tjU o, 16 + 16 * (directory s (tjU o)).length)] else []) ++
  (if tjRank s o = 0 then [] else [(false, tjU o, 2 * tjRows o * tjRank s o)]) ++
  if o.trig.isNone then []
  else if tjKind o = 0 then (tjDescs s o src).flatMap fun d =>
    (false, d.cbase, sliceBytes s d) :: (if d.coded then [(false, d.bidx, 4 * (sliceBlocks d + 1))] else [])
  else if tjKind o = 3 then (downFactors s o).map fun x => (false, x.1, x.2)
  else []

/-- The checks of TJOB (R25, R225, R228, R230). -/
def tjobOk (s : State) (o : Op) : Bool :=
  let kind := tjKind o
  let kv := kind = 1 || kind = 2
  let views := descViews s o (bodyF o 320 64)
  let kblk := (((views.headD []).headD (factorDesc 0 1 1))).kblk
  tileSlotsOk s o &&
  (if tjSplit o then tjHold o || decide (tjRows o ≤ 128) else decide (tjRows o ≤ 128 * (tjSlots o).length)) &&
  heldFits s o &&
  (!tjHold o || (tjSplit o && kind = 0)) && (!fmtBit o 83 || tjCfmt o = 1) &&
  (kind ≠ 1 || tjCfmt o = 1) && (tjCfmt o ≠ 2 || (kind = 0 && (tjGeom s o).isSome)) &&
  (!fmtBit o 82 || gatherOk s o) &&
  (!kv || ((activeEntry s o).isSome && decide (bodyF o 65 6 < geHeads (reqGeom s o)))) &&
  (kv || views.all fun ds => ds.all fun d => descOk s o.part d && d.kblk = kblk)

/-! ## What a job computes (R226 to R228, R236) -/

/-- The columns of kind 0: for each output row of a list, its slice, its place in the slice and its panel. -/
def weightCols (ds : List SliceDesc) : List (Nat × Nat × Nat) :=
  (indexed (slicePanels ds)).flatMap fun (n, d, i, p) => (List.range (panelRows d p)).map fun r => (i, 128 * p + r, n)

/-- Held row t's U of the columns of its adapter's range, as MXFP8 groups along the rank, and its adapter and rank; the columns outside
the range are zero and add nothing (R236). DEDUCED (log entry 164): the groups begin at the range, as R237 has HMV, which knows no
directory, give the same bits. -/
def uRow (s : State) (o : Op) (g : Gathered) (t : Nat) : Option ((Nat × Nat) × List Grp) :=
  (g.dir.find? fun x => x.1 = g.rowAdapters.getD t 0xFFFF).map fun (a, off, r) =>
    ((a, r), valGroups .e4m3 (readVals s false (tjU o + 2 * (g.rank * t + off)) r))

/-- The stored rows of the factor B_a of slice i that a slot holds, in groups along the adapter's rank. -/
def heldFactor (g : Gathered) (ds : List SliceDesc) (a i r : Nat) : List (List Grp) :=
  match g.factors.find? fun x => x.1 = a && x.2.1 = i with
  | none => []
  | some (_, _, f) =>
    sliceRows (factorDesc 0 ((ds.getD i (factorDesc 0 1 1)).nrows) r) fun k =>
      if g.bad.contains (a, i, k) then none else some (true, (f.drop (4096 * k)).take 4096)

/-- The output of kind 0, its adapter's term added to each accumulator group by group along the rank (R227, R236, R237). -/
def tjWeights (s : State) (o : Op) : List (List (Option W32)) :=
  let src := bodyF o 320 64
  let ds := tjDescs s o src
  let views := (descViews s o src).map fun v => (v, v.map fun d => sliceRows d (readBlock s d))
  let types := (ds.map descElem).eraseDups
  let cols := weightCols ds
  (List.range (tjRows o)).map fun t =>
    let held := types.map fun e => (e, heldRow s o e t)
    cols.map fun (i, j, p) =>
      let slot := slotOf o t p
      let e := descElem (ds.getD i (factorDesc 0 1 1))
      let h := match held.find? fun x => x.1 = e with | some x => x.2 slot | none => []
      let rows := match views.find? fun x => x.1 = slotDescs s o src slot with | some x => x.2.getD i [] | none => []
      let y := dot h (rows.getD j [])
      match if fmtBit o 82 then (tileGet s slot).gather else none with
      | none => y
      | some g => match uRow s o g t with
        | none => y
        | some ((a, r), u) => accumulate y u ((heldFactor g ds a i r).getD j [])

/-- The output of kind 1: scores of every token, −∞ for a token without data and, where causal, beyond its query. -/
def tjScores (s : State) (o : Op) (us : List (Option PageUse)) (m : Nat) : List (List (Option W32)) :=
  let geom := reqGeom s o
  let keys := us.flatMap fun u => (List.range 256).map fun t => useVec s geom false (bodyF o 65 6) t u
  (List.range (tjRows o)).map fun i =>
    let h := heldRow s o (tjElem s o) i
    (indexed keys).map fun (c, v) =>
      if fmtBit o 81 && decide (bodyF o 21 20 + i / max 1 m < 256 * bodyF o 53 12 + c) then some negInf
      else tokenScore geom (h (slotOf o i (c / 128))) v

/-- The output of kind 2: probabilities times values. -/
def tjValues (s : State) (o : Op) (us : List (Option PageUse)) : List (List (Option W32)) :=
  let geom := reqGeom s o
  let k := 256 * tjPos o
  let vecs := us.flatMap fun u => (List.range 256).map fun t => valueVec geom (useVec s geom true (bodyF o 65 6) t u)
  (List.range (tjRows o)).map fun i =>
    if tjA o = 0 then
      let h := heldRow s o (tjElem s o) i
      (List.range (geDim geom)).map fun c =>
        dot (h (slotOf o i (c / 128))) ((cutEvery 32 (k / 32) vecs).map fun v => valueGroup true geom v c)
    else weightedSum true (tjElem s o) geom (readVals s true (tjA o + 4 * k * i) k) vecs

/-- The output of kind 3: U, each column scaled by its adapter's scale (R236). -/
def tjDown (s : State) (o : Op) : List (List (Option W32)) :=
  let k := tjK s o
  let atab := ((tjDescs s o (bodyF o 320 64)).headD (factorDesc 0 1 1)).atab
  let cols := (directory s (tjU o)).flatMap fun (a, _, r) =>
    match adapterEntry s atab a with
    | none => (List.replicate r (none : Option (W32 × List Grp)))
    | some e => (factorRows s e.1 r k).map fun row => some (e.2.2.1, row)
  (List.range (tjRows o)).map fun i =>
    let h := heldRow s o (tjElem s o) i
    (indexed cols).map fun (n, c) => c.bind fun (sc, row) => (dot (h (slotOf o i (n / 128))) row).map fun y => mul32 sc y

/-- One output row written in cfmt; kind 3 writes BF16 (R228, R236). -/
def tjWrite (geom : Option Nat) (o : Op) (s : State) (a : Nat) (vs : List (Option W32)) : State :=
  if tjKind o = 3 then writeVals s false a vs
  else match tjCfmt o with
  | 3 =>
    (indexed (cutEvery 32 (ceilDiv vs.length 32) vs)).foldl (fun s (i, g) =>
      let (sc, cs) := toMxCodes .e4m3 (g.map fun v => dec32 (v.getD 0))
      let s := memWrite s (a + 33 * i) (BitVec.ofNat 8 sc :: cs.map (BitVec.ofNat 8))
      if anyNone g then poisonRange s (a + 33 * i) 33 else s) s
  | f => writeOut s geom f a vs

/-- Query heads of the model that map to a KV head: by the constants of the hub that the scores go to (R205, R228). -/
def headsPerToken (s : State) (o : Op) : Nat :=
  let h := match placeOf s (tjDst o) 1 with | .hub h => h | _ => 0
  let hq := hubConst s h 4 2
  (List.range hq).countP fun q => kvHead (geHeads (reqGeom s o)) hq q = bodyF o 65 6

/-! ## The step counts of R99 -/

/-- Bytes that cross die-to-die links: those of the stacks and the hub windows. -/
def overLinks (rs : List (Nat × Nat)) : List (Nat × Nat) :=
  rs.filter fun r => decide (0 < r.2) && (decide (r.1 < 2 ^ 41) || (decide (hubBase ≤ r.1) && decide (r.1 < localBase)))

/-- The hubs behind whose links ranges lie. -/
def hubsOf (rs : List (Nat × Nat)) : List Nat :=
  ((overLinks rs).flatMap fun r =>
    if r.1 < 2 ^ 41 then [r.1 / 2 ^ 38, (r.1 + r.2 - 1) / 2 ^ 38] else [(r.1 - hubBase) / 0x400_0000]).eraseDups

/-- The steps of 1 µs and bytes over the links that carry them (R99). -/
def streamSteps (rs : List (Nat × Nat)) : Nat :=
  let l := 2400 * max 1 (hubsOf rs).length
  ceilDiv (1000 * l + ((overLinks rs).map fun r => r.2).foldl (· + ·) 0) (2000 * l)

/-- The distinct clusters that panels of a range receive. -/
def receivers (o : Op) (from' n : Nat) : Nat := ((List.range n).map fun p => clusterOf o (from' + p)).eraseDups.length

/-- The pages that a job streams, from the state before, with their tokens: those it uses and those that fail their check (R153, R231). -/
def tjTokens (s : State) (o : Op) (us : List (Option PageUse)) : List (Nat × Nat) :=
  useTokens us ++ match activeEntry s o with
    | none => []
    | some e =>
      (indexed us).filterMap fun (i, u) =>
        if u = some .absent then (failedPage s o e (bodyF o 71 8) (bodyF o 53 12 + i)).map fun a => (a, 256) else none

/-- What a job streams over the links: every block once per cluster that receives it, and the held and gathered bytes, which every
named cluster loads (R231). -/
def tjStreamed (s : State) (o : Op) (us : List (Option PageUse)) : List (Nat × Nat) :=
  let src := bodyF o 320 64
  let c := (tjClusters o).length
  let k := tjK s o
  let blocks := match tjKind o with
    | 0 => (tjDescs s o src).map fun d => (d.cbase, sliceBytes s d)
    | 3 =>
      let atab := ((tjDescs s o src).headD (factorDesc 0 1 1)).atab
      (directory s (tjU o)).filterMap fun (a, off, r) => (adapterEntry s atab a).map fun e =>
        (e.1, factorBytes r k * receivers o (off / 128) (ceilDiv (off + r) 128 - off / 128))
    | kind =>
      let n := if kind = 2 then receivers o 0 (ceilDiv (tjN s o) 128) else 1
      (tjTokens s o us).map fun x => (x.1, x.2 * geVec (reqGeom s o) * n)
  blocks ++ (if tjA o = 0 then [] else [(tjA o, valBytes (tjKind o = 2) * k * tjRows o * c)]) ++ [(tjU o, 2 * tjRows o * tjRank s o * c)]

/-- The step count of a job, from the state before (R99, R231): the panels of its busiest slot, or what it streams. -/
def tjSteps (s : State) (o : Op) (us : List (Option PageUse)) : Nat :=
  let blocks := if tjHold o then ceilDiv (tjRows o) 128 else 1
  max (ceilDiv (15000 + 4 * (tjK s o + tjRank s o) * tjPMax s o * blocks) 30000) (streamSteps (tjStreamed s o us))

/-- TJOB (R228 to R237). -/
def execTjob (p : Posted) (s : State) : Res :=
  posted 0 false namedTjob 7 0 p (checked tjobOk fun o s =>
    let kind := tjKind o
    let listed := kind = 0 || kind = 3
    let bad := listed && descPoison s o (bodyF o 320 64)
    let s := if listed then cacheDescs s o (descAddrs s o (bodyF o 320 64)) else s
    let s0 := s
    let (us, s) := match activeEntry s o with
      | some e =>
        if kind = 1 || kind = 2 then
          lookPages o e (bodyF o 71 8) none true ((List.range (tjPos o)).map fun i => bodyF o 53 12 + i) s
        else ([], s)
      | none => ([], s)
    let outs := match kind with
      | 0 => tjWeights s o
      | 1 => tjScores s o us (headsPerToken s o)
      | 2 => tjValues s o us
      | _ => tjDown s o
    let outs := if bad then outs.map fun vs => vs.map fun _ => none else outs
    let stride := tjOutStride s o
    let geom := tjGeom s o
    let s' := (indexed outs).foldl (fun s (t, vs) =>
      let a := tjDst o + stride * t
      let vs := if fmtBit o 83 then List.zipWith (lift2 add32) vs (readVals s true a vs.length) else vs
      tjWrite geom o s a vs) s
    opEnd s' o.ticket (readStatus (anyAbsent us) (outs.any anyNone)) (tjSteps s0 o us)) s

/-! ## TGATHER (R235) -/

/-- Entries of an LSTEP list: request and tokens (R118). -/
def stepList (s : State) (a n : Nat) : List (Nat × Nat) :=
  (List.range n).map fun i => let e := memNum s (a + 8 * i) 8; (bf e 0 32, bf e 32 16)

def tgList (s : State) (o : Op) : List (Nat × Nat) := stepList s (bodyF o 320 64) (bodyF o 76 12 + 1)

def tgAdapter (s : State) (o : Op) (r : Nat) : Nat :=
  match entryIn s o.part r with | some e => e.adapter.toNat | none => 0xFFFF

/-- The distinct adapters in order of first appearance. -/
def tgAdapters (s : State) (o : Op) : List Nat :=
  (((tgList s o).map fun x => tgAdapter s o x.1).filter fun a => a ≠ 0xFFFF).eraseDups

/-- The tables of the listed slices. -/
def tgTables (s : State) (o : Op) : List SliceDesc := tjDescs s o (bodyF o 192 64)

/-- The directory a gather makes: adapter, offset, rank. -/
def tgDir (s : State) (o : Op) : List (Nat × Nat × Nat) :=
  let atab := ((tgTables s o).headD (factorDesc 0 1 1)).atab
  ((tgAdapters s o).foldl (fun (l, off) a =>
    let r := ((adapterEntry s atab a).map fun e => e.2.2.2).getD 0
    (l ++ [(a, off, r)], off + r)) (([] : List (Nat × Nat × Nat)), 0)).1

def tgRank (s : State) (o : Op) : Nat := ((tgDir s o).map fun x => x.2.2).foldl (· + ·) 0

/-- The stored B_a of each adapter of the directory in each listed slice: adapter, slice, place, bytes (R234, R235). -/
def tgFactors (s : State) (o : Op) : List (Nat × Nat × Nat × Nat) :=
  (tgDir s o).flatMap fun (a, _, r) => (indexed (tgTables s o)).filterMap fun (i, d) =>
    (adapterEntry s d.atab a).map fun e => (a, i, e.2.1, factorBytes d.nrows r)

/-- The ranges of a TGATHER: those its body and its list name, and from its launch on the adapters' table entries and factors (R54;
log entry 127). -/
def namedTgather (s : State) (o : Op) : Named :=
  [(false, bodyF o 320 64, 8 * (bodyF o 76 12 + 1)), (true, bodyF o 256 64, 16 + 16 * (tgAdapters s o).length),
   (false, bodyF o 192 64, 8 * (bodyF o 88 6 + 1))] ++ (descAddrs s o (bodyF o 192 64)).map (fun a => (false, a, 128)) ++
  if o.trig.isNone then []
  else ((tgAdapters s o).flatMap fun a => (tgTables s o).map fun d => (false, d.atab + 32 * a, 32)) ++
    (tgFactors s o).map fun (_, _, b, n) => (false, b, n)

/-- The rows of B that the lane of place n holds: those of its panels. -/
def tgLaneRows (s : State) (o : Op) (n : Nat) : Nat :=
  (((indexed (slicePanels (tgTables s o))).filter fun x => x.1 % lanes (fmtBit o 75) o = n).map fun (_, d, _, p) =>
    panelRows d p).foldl (· + ·) 0

/-- The checks of TGATHER (R25, R225, R235). -/
def tgatherOk (s : State) (o : Op) : Bool :=
  let r := tgRank s o
  bodyF o 256 64 % 16 = 0 && tileSlotsOk s o &&
  (descViews s o (bodyF o 192 64)).all (fun ds => ds.all (descOk s o.part)) &&
  ((tgList s o).map fun x => x.2).foldl (· + ·) 0 = tjRows o &&
  (tgList s o).all (fun x => (entryIn s o.part x.1).isSome) &&
  decide ((tgAdapters s o).length ≤ 64) && decide (r ≤ 512) &&
  (tgAdapters s o).all (fun a => (tgTables s o).all fun d => (adapterEntry s d.atab a).isSome) &&
  (List.range (lanes (fmtBit o 75) o)).all fun n =>
    decide (ceilDiv (tgLaneRows s o n * r * 33) 32 + ceilDiv (128 * r * 33) 32 ≤ 384 * 1024)

/-- TGATHER (R235): the directory, and in each named slot the B rows and each held row's adapter. -/
def execTgather (p : Posted) (s : State) : Res :=
  posted 0 false namedTgather 7 1 p (checked tgatherOk fun o s =>
    let dir := tgDir s o
    let r := tgRank s o
    let fs := tgFactors s o
    let bad := fs.flatMap fun (a, i, b, n) => (below (n / 4096) fun k => poisoned s (b + 4096 * k) 4096).map fun k => (a, i, k)
    let g : Gathered :=
      { rows := tjRows o, split := fmtBit o 75, cmask := BitVec.ofNat 16 (tjC o), smask := BitVec.ofNat 8 (tjS o), rank := r,
        dir := dir, rowAdapters := (tgList s o).flatMap fun (q, n) => List.replicate n (tgAdapter s o q),
        factors := fs.map fun (a, i, b, n) => (a, i, memRead s b n), bad := bad }
    let lines := descPoison s o (bodyF o 192 64) || poisoned s (bodyF o 320 64) (8 * (bodyF o 76 12 + 1))
    let s := cacheDescs s o (descAddrs s o (bodyF o 192 64))
    let s := memWrite s (bodyF o 256 64) (leBytes 16 (dir.length + r * 2 ^ 16) ++
      dir.flatMap fun (a, off, rk) => leBytes 16 (a + off * 2 ^ 16 + rk * 2 ^ 32))
    let s := (tjNamed o).foldl (fun s i => tileSet s i { tileGet s i with gather := some g }) s
    opEnd s o.ticket (readStatus false (lines || !bad.isEmpty)) (streamSteps (fs.map fun (_, _, b, n) => (b, n)))) s

/-! ## TSWAP (R238) -/

def twPin (o : Op) : Nat := bodyF o 96 8

/-- The configuration block as bytes: the cached descriptors in order, then what was loaded. -/
def cfgBytes (x : TileSlot) : List Byte :=
  let c := x.cache.flatMap fun y => y.2
  c ++ ((List.range (4096 - c.length)).map fun i => x.cfg.getD (c.length + i) 0)

def pinBytes (x : TileSlot) : List Byte := (List.range (x.pin * 65536)).map fun i => x.pinned.getD i 0

/-- The lines of a slot's image that hold poison: of the configuration block past the cached descriptors, and of the pinned part. -/
def imageBad (x : TileSlot) : List Nat := x.bad.filter fun i => decide (2 * x.cache.length ≤ i)

/-- An image of a slot saved at an address, poison with it. -/
def saveImage (s : State) (a : Nat) (x : TileSlot) : State :=
  (imageBad x).foldl (fun s i => poisonRange s (a + 64 * i) 64) (memWrite s a (cfgBytes x ++ pinBytes x))

/-- Bytes that a save writes, and a load reads. -/
def twSave (s : State) (o : Op) : Nat := ((tjNamed o).map fun i => 4096 + (tileGet s i).pin * 65536).foldl (· + ·) 0
def twLoad (o : Op) : Nat := (tjNamed o).length * (4096 + twPin o * 65536)

def namedTswap (s : State) (o : Op) : Named :=
  (if bodyF o 320 64 = 0 then [] else [(true, bodyF o 320 64, twSave s o)]) ++
  (if bodyF o 256 64 = 0 then [] else [(false, bodyF o 256 64, twLoad o)])

def tswapOk (s : State) (o : Op) : Bool :=
  decide (twPin o ≤ 24) && tileSlotsOk s o

/-- TSWAP (R238): for each named slot, first the save, then the load. -/
def execTswap (p : Posted) (s : State) : Res :=
  posted 1 false namedTswap 7 2 p (checked tswapOk fun o s =>
    let (sv, ld) := (bodyF o 320 64, bodyF o 256 64)
    let bad := (ld ≠ 0 && poisoned s ld (twLoad o)) || (sv ≠ 0 && (tjNamed o).any fun i => !(imageBad (tileGet s i)).isEmpty)
    let steps := streamSteps ((if sv = 0 then [] else [(sv, twSave s o)]) ++ if ld = 0 then [] else [(ld, twLoad o)])
    let r := (tjNamed o).foldl (fun (x : State × Nat × Nat) i =>
      let (s, a, b) := x
      let t := tileGet s i
      let s := if sv = 0 then s else saveImage s a t
      let n := 4096 + twPin o * 65536
      let s := if ld = 0 then s
        else tileSet s i { t with cfg := memRead s b 4096, cache := [], pin := twPin o,
                                  pinned := memRead s (b + 4096) (twPin o * 65536),
                                  bad := below (n / 64) fun i => poisoned s (b + 64 * i) 64 }
      (s, a + 4096 + t.pin * 65536, b + n)) (s, sv, ld)
    opEnd r.1 o.ticket (readStatus false bad) steps) s

end Sys2Proof.Machine
end

