-- ==== Sys2Proof/Machine/Ras.lean ====
section
/-! DEFINITION. Failed units: sparing, retirement and the operations held on them; SPAREIN and RETIRE; PARTSET
(R22, R25, R103, R104, R333 to R337, R348). -/
namespace Sys2Proof.Machine

/-! ## Operations held on a unit (R333 to R335) -/

def heldOn (s : State) (u : UnitId) : List Ticket := ticketsOf s fun o => o.held.any fun h => h.declared && h.units.contains u

/-- A unit that a held step waits for is replaced: the step is replayed from its start on what is bound now (R333), once, after
the last of its units (R348). -/
def replayHeld (s : State) (u : UnitId) : State :=
  (heldOn s u).foldl (fun s t => opUpd s t fun o =>
    { o with held := o.held.map (fun h =>
               let us := h.units.filter fun v => v ≠ u
               { h with units := us, declared := !us.isEmpty }),
             replayed := true }) s

/-- The requests of a ferry operation that its steps after those done would send: no later step runs (R82, R100). -/
def dropLater (s : State) (o : Op) : State :=
  let done := o.ran * 65536
  let (lo, hi) := match o.op with
    | 0 => (bodyF o 256 50, bodyF o 192 40)
    | 1 => (bodyF o 256 50, bodyF o 192 40)
    | _ => (bodyF o 206 50, bodyF o 152 40)
  if o.cls = 8 && o.op ≤ 2 then
    let mine := s.isf.out.filter fun r => match r.owner with
      | .ferryRead t _ _ | .ferryWrite t _ _ | .reduce t => t = o.ticket
      | _ => false
    mine.foldl (fun s r =>
      let at' := (match r.owner with
        | .ferryRead _ dst _ => dst - bodyF o 256 64
        | .ferryWrite _ _ slot => if o.op = 2 then slotRank s o slot * hi + (r.pkt.pkt.off.toNat - lo) else r.pkt.pkt.off.toNat - lo
        | _ => r.pkt.pkt.off.toNat - lo)
      if done ≤ at' then outDel s r.pkt.pkt.tag else s) s
  else s
where
  slotRank (s : State) (o : Op) (k : Nat) : Nat := ((fmMembers s o).filter fun j => decide (j < k)).length

/-- An operation that no spare is left for ends with NO_SPARE (R82): at or before its commit step as an abort accepted there
would end it, an FHAND with its request back in its state before HANDING; after its commit step with its effects so far. -/
def noSpareEnd (s : State) (o : Op) : State :=
  let t := o.ticket
  let s :=
    if o.phase ≠ .launched || hasWritten o then opEnd (dropLater s o) t St.noSpare o.ran
    else if o.cls = 8 && o.op = 5 then handUndo s t St.noSpare
    else opEnd (abortUndo s o) t St.noSpare o.ran
  opUpd s t fun x => { x with held := none, due := none }

/-- Held operations end with NO_SPARE (R82, R335). -/
def failHeld (s : State) (u : UnitId) : State :=
  (heldOn s u).foldl (fun s t => match opGet s t with | some o => noSpareEnd s o | none => s) s

/-- The contexts of a core slot that no core serves any more halt with cause none (R337). -/
def haltSlot (s : State) (k : Nat) : State :=
  (slotCtxs (k * 8)).foldl (fun s d =>
    ctxSet s d (withCause (ctxGet (endContext s d 4) d) 0)) s

/-- A failed unit leaves the list of those that await a decision. -/
def decided (s : State) (u : UnitId) : State :=
  { s with ras := { s.ras with failed := s.ras.failed.filter fun x => x.1 ≠ u } }

/-- A unit retired, with what follows for its held operations and contexts (R335 to R337). A walker's requests are dealt
anew, so what was held on it is replayed. -/
def retireNow (s : State) (u : UnitId) (failed : Bool) : State :=
  let e := fptGet s u
  let s := portRetired (decided (retireUnit s u) u) u
  let s := if unitKind u = 5 then replayHeld s u else failHeld s u
  if failed && unitKind u = 3 && e.state = 0 && (lowestSpare s u).isNone then haltSlot s e.slot.toNat else s

/-- A spare brought in at a slot (R103, R336): what was held on the unit it replaces is replayed. -/
def spareNow (s : State) (spare : UnitId) (slot : Nat) : State :=
  match boundTo s (unitKind spare) (unitIndex spare) slot with
  | some u => replayHeld (decided (bindSpare s spare slot) u) u
  | none => bindSpare s spare slot

/-- What the device itself does for a failed unit (R335, auto = 1). -/
def spareOrRetire (s : State) (u : UnitId) : State :=
  let e := fptGet s u
  match lowestSpare s u with
  | some v => if e.state = 0 then spareNow s v e.slot.toNat else retireNow s u true
  | none => retireNow s u true

/-- A unit declared failed (R333, R335): the contexts of a core that no spare can replace halt first (R337), UNIT_FAIL, then the sparing or the wait for steward code's decision. A unit that
awaits the decision is not declared again. -/
def declareFailed (s : State) (u : UnitId) (t : Nat) : State :=
  if s.ras.failed.any fun x => x.1 = u then s
  else
  let s := if unitKind u = 3 && (fptGet s u).state = 0 && (lowestSpare s u).isNone then haltSlot s (fptGet s u).slot.toNat else s
  let s := raise s 0x25 (recPart s u) u t (fptGet s u).slot.toNat
  if s.ras.auto then spareOrRetire s u
  else
    let due := s.clk.bell + BitVec.ofNat 64 (bellUs s s.ras.hold.toNat)
    { s with ras := { s.ras with failed := s.ras.failed ++ [(u, due)] } }

/-- SPARE_DECISION_TIMEOUT (R335): neither SPAREIN nor RETIRE came within the hold. -/
def execSpareDecisionTimeout (u : UnitId) (s : State) : Res :=
  whenOk (s.phase = .running && s.ras.failed.any fun x => x.1 = u && decide (x.2.toNat ≤ s.clk.bell.toNat))
    (retireNow s u true) s

/-! ## SPAREIN and RETIRE (R103) -/

/-- SPAREIN: identifier, kind, slot, state, in this order (log entry 13). -/
def sparein (s : State) (slot v : Nat) : Byte × State :=
  let u : UnitId := BitVec.ofNat 32 v
  let (n, k) := domainSize (unitKind u)
  if !(decide (v < 2 ^ 32) && validUnit u) then (St.protect, s)
  else if n = 0 then (St.noSpare, s)
  else if k ≤ slot then (St.protect, s)
  else if (fptGet s u).state ≠ 1 then (St.noSpare, s)
  else (St.complete, spareNow s u slot)

def execSparein (c : CtxId) (w : Ins64) (s : State) : Res :=
  issue64 2 true c w (fun s =>
    let x := ctxGet s c
    let (st, s) := sparein s (opA x w.sa).toNat (getS x w.sb.toNat).toNat
    .adv (statusTo s c w.sd.toNat st)) s

/-- RETIRE: a unit already retired stays as it is. -/
def retire (s : State) (v : Nat) : Byte × State :=
  let u : UnitId := BitVec.ofNat 32 v
  if !(decide (v < 2 ^ 32) && validUnit u) then (St.protect, s)
  else if (fptGet s u).state = 2 then (St.complete, s)
  else (St.complete, retireNow s u (s.ras.failed.any fun x => x.1 = u))

def execRetire (c : CtxId) (w : Ins64) (s : State) : Res :=
  issue64 2 true c w (fun s =>
    let (st, s) := retire s (opA (ctxGet s c) w.sa).toNat
    .adv (statusTo s c w.sd.toNat st)) s

/-! ## PARTSET (R104) -/

/-- A partition descriptor from its 64 bytes. -/
def partOfBytes (x : Nat) : PartDesc :=
  { clusters := BitVec.ofNat 16 x, hubs := BitVec.ofNat 8 (bf x 16 8), cores := BitVec.ofNat 16 (bf x 32 16),
    walkers := BitVec.ofNat 16 (bf x 48 16), ferries := BitVec.ofNat 32 (bf x 64 32), ledger := bf x 96 32,
    tbase := bf x 128 16, tcount := bf x 144 16, qbase := bf x 160 16, qcount := bf x 176 16,
    qpbase := bf x 192 16, qpcount := bf x 208 16, stackSet := BitVec.ofNat 32 (bf x 224 32), granules := bf x 256 64,
    slots := bf x 320 32, sbase := bf x 384 32, ssize := bf x 416 32 }

/-- The Resv bytes of a descriptor hold no bit. -/
def partResvOk (x : Nat) : Bool := bf x 24 8 = 0 && bf x 352 32 = 0 && bf x 448 64 = 0

/-- The bits of a mask whose units are in service. -/
def inServiceBits (s : State) (kind n mask : Nat) : List Nat := below n fun i => mask.testBit i && unitIn s (uid kind i)

/-- Two ranges have a number in common. -/
def rangesMeet (b n b' n' : Nat) : Bool := decide (b < b' + n') && decide (b' < b + n) && n ≠ 0 && n' ≠ 0

/-- A unit, slot or range of two descriptors in common; bits that name units out of service do not count. -/
def descsMeet (s : State) (d e : PartDesc) : Bool :=
  let both (kind n a b : Nat) : Bool := !(inServiceBits s kind n (a &&& b)).isEmpty
  both 2 16 d.clusters.toNat e.clusters.toNat || both 6 8 d.hubs.toNat e.hubs.toNat || both 5 16 d.walkers.toNat e.walkers.toNat ||
  d.cores &&& e.cores ≠ 0 || d.ferries &&& e.ferries ≠ 0 ||
  rangesMeet d.tbase d.tcount e.tbase e.tcount || rangesMeet d.qbase d.qcount e.qbase e.qcount ||
  rangesMeet d.qpbase d.qpcount e.qpbase e.qpcount || rangesMeet d.sbase d.ssize e.sbase e.ssize

/-- Sketch slots that a stack's row map provides (R187, R188). -/
def sketchSlots (s : State) (st : Nat) : Nat :=
  32 * ((below 64 fun pos => rowCode s st pos = 2).map fun pos => (below 2048 fun i => subIn s st (pos * 2048 + i)).length).foldl (· + ·) 0

/-- Granules and sketch slots that the stacks of a mask provide. -/
def provided (s : State) (mask : Nat) : Nat × Nat :=
  (below 32 fun st => mask.testBit st && stackIn s st).foldl (fun x st => (x.1 + openGrans s st, x.2 + sketchSlots s st)) (0, 0)

/-- A manifest in flight of a partition names a cluster, hub, walker or ferry slot: which ferry of its partition runs a
ferry manifest the spec does not say, so each counts. -/
def manifestUses (s : State) (p : Part) (kind i : Nat) : Bool :=
  s.ops.any fun o => o.phase ≠ .recorded && o.part = p &&
    (match kind with
     | 2 => o.engine = 0x02 && (tjC o).testBit i
     | 6 => o.engine = 0x03 && opHub s o = i
     | 5 => o.engine = 0x05 && walkerOf s o.request.toNat = some i
     | _ => o.engine = 0x01 || o.engine = 0x06)

/-- A handle register of a context names a queue or tally, or a queue pair is in use. -/
def handleHeld (s : State) (f : Nat → Bool) (tallies : Bool) : Bool :=
  s.ctxs.any fun x => (if tallies then x.2.t else x.2.q).any fun h =>
    h.2.toNat.testBit 31 && f (h.2.toNat % (if tallies then 4096 else 1024))

/-- The change takes from the partition something still in use (R104). -/
def takesUsed (s : State) (p : Part) (d : PartDesc) : Bool :=
  let o := partDesc s p
  let lost (n a b : Nat) (f : Nat → Bool) : Bool := (List.range n).any fun i => a.testBit i && !b.testBit i && f i
  let out (b n b' n' i : Nat) : Bool := decide (b ≤ i) && decide (i < b + n) && !(decide (b' ≤ i) && decide (i < b' + n'))
  lost 16 o.cores.toNat d.cores.toNat (fun k => (slotCtxs (k * 8)).any fun c =>
    let st := stateOf (ctxGet s c); st ≠ 0 && st ≠ 4) ||
  lost 16 o.clusters.toNat d.clusters.toNat (manifestUses s p 2) || lost 8 o.hubs.toNat d.hubs.toNat (manifestUses s p 6) ||
  lost 16 o.walkers.toNat d.walkers.toNat (manifestUses s p 5) || lost 32 o.ferries.toNat d.ferries.toNat (manifestUses s p 4) ||
  handleHeld s (out o.tbase o.tcount d.tbase d.tcount) true || handleHeld s (out o.qbase o.qcount d.qbase d.qcount) false ||
  s.qpe.ctxs.any (fun x => x.2.state ≠ 0 && out o.qpbase o.qpcount d.qpbase d.qpcount x.1) ||
  decide (d.ledger < entryCount s p) || decide (d.granules < (poolTaken s p).1) || decide (d.slots < (poolTaken s p).2)

/-- The descriptor is accepted (R104). DESIGN CHOICE (log entry 157): until its first PARTSET partition 0 counts with quotas of 2^40 granules
and 2^31 sketch slots. -/
def partsetOk (s : State) (p : Part) (x : Nat) : Bool :=
  let d := partOfBytes x
  let e := partDesc s (if p = 0 then 1 else 0)
  let q := provided s (d.stackSet.toNat ||| e.stackSet.toNat)
  partResvOk x && decide (d.ledger ≤ 65536) && decide (d.tbase + d.tcount ≤ 4096) && decide (d.qbase + d.qcount ≤ 1024) &&
  decide (d.qpbase + d.qpcount ≤ 16384) && decide (d.sbase + d.ssize ≤ 52992) && !descsMeet s d e &&
  decide (d.granules + e.granules ≤ q.1) && decide (d.slots + e.slots ≤ q.2) && !takesUsed s p d &&
  (p = 0 || d.cores ≠ 0 || !(s.ldg.entries ++ s.ldg.spilled).any fun y => y.2.part = 1)

/-- A partition takes its descriptor: the part fields of floor-plan entries change with it, one change of the table (R32, R412),
and the row maps of the stacks it draws pages from are closed to writes (R190). -/
def setPart (s : State) (p : Part) (d : PartDesc) : State :=
  let s := bumpChange s
  bumpChange { s with plan := if p = 0 then { s.plan with part0 := d } else { s.plan with part1 := d },
                      mem := { s.mem with frozen := s.mem.frozen ||| d.stackSet } }

/-- The work of PARTSET, with its read of memory. -/
def partsetWork (c : CtxId) (w : Ins64) (s : State) : After :=
  ctxTry c (.redo (.partset c w)) [((getS (ctxGet s c) w.sb.toNat).toNat, 64)] (fun s =>
    let x := ctxGet s c
    let p := (opA x w.sa).toNat
    match ctxRead s c (getS x w.sb.toNat) 64 64 with
    | .error (cause, fa) => .exc s cause fa
    | .ok v =>
      if decide (p < 2) && partsetOk s (Fin.ofNat 2 p) v then
        .adv (statusTo (setPart s (Fin.ofNat 2 p) (partOfBytes v)) c w.sd.toNat St.complete)
      else .adv (statusTo s c w.sd.toNat St.protect)) s

/-- PARTSET (R104). -/
def execPartset (c : CtxId) (w : Ins64) (s : State) : Res := issue64 2 true c w (partsetWork c w) s

end Sys2Proof.Machine
end

