-- ==== Sys2Proof/Machine/Security.lean ====
section
/-! DEFINITION. The security engine: identity-flash records, the image that starts the device, measurements, protection
tables, key slots, random bits, and SPDM and CDAT on DOE (R302, R303, R367 to R385). -/
namespace Sys2Proof.Machine

def digestOf (bs : List Byte) : BitVec 384 := BitVec.ofNat 384 (ofBe (sha384 bs))

/-! ## Records (R376 to R378) -/

/-- A record's header (R376). -/
def recHead (r : IdRec) : List Byte :=
  ascii "UDRC" ++ leBytes 2 r.kind.toNat ++ [r.auth, 1] ++ leBytes 4 r.body.length ++ leBytes 4 0 ++ leBytes 8 r.seq.toNat ++
  leBytes 8 r.serial.toNat ++ List.replicate 32 0

def recBytes (r : IdRec) : List Byte := recHead r ++ r.body ++ r.tag
def recSize (r : IdRec) : Nat := 160 + r.body.length
def areaSize (l : List IdRec) : Nat := (l.map recSize).foldl (· + ·) 0

/-- The bytes of one half of the records area, as it lies in the flash. -/
def areaBytes (l : List IdRec) : List Byte := l.flatMap recBytes

/-- The authentications that a kind allows (R377): 0 PRODUCT, 1 OWNER, 2 DEVICE. -/
def authAllowed (kind auth : Nat) : Bool :=
  match kind with
  | 1 => auth = 0
  | 2 => auth = 0 || auth = 2
  | 3 | 4 => auth = 1 || auth = 2
  | 5 => auth = 2
  | 6 => auth = 0 || auth = 1
  | _ => false

/-- The authenticator of a record that the device writes (R376). -/
def deviceTag (s : State) (r : IdRec) : List Byte :=
  hmac384 s.sec.recKey (recHead r ++ r.body) ++ List.replicate 48 0

/-- The parts of a record's validity that its fields show (R376). -/
def recShape (s : State) (r : IdRec) : Bool :=
  authAllowed r.kind.toNat r.auth.toNat && (r.serial = 0 || r.serial = s.plan.serial) && (r.auth ≠ 2 || r.serial = s.plan.serial) &&
  r.body.length % 16 = 0 && decide (16 ≤ r.body.length) && decide (r.body.length ≤ 16384)

/-- A record is valid, given the owner root key if there is one (R376). -/
def recValid (s : State) (key : Option (List Byte)) (r : IdRec) : Bool :=
  recShape s r &&
  (match r.auth.toNat with
   | 0 => ecdsaOk productKey (recHead r ++ r.body) r.tag
   | 1 => key.any fun k => ecdsaOk k (recHead r ++ r.body) r.tag
   | _ => !s.sec.nopuf && r.tag = deviceTag s r)

/-- A record at its place by sequence number. -/
def insRec (r : IdRec) : List IdRec → List IdRec
  | [] => [r]
  | x :: l => if r.seq.toNat < x.seq.toNat then r :: x :: l else x :: insRec r l

/-- The records of the factory area and of both halves in sequence order, each once (R350, R375, R378). -/
def flashRecs (s : State) : List IdRec := ((s.sec.factory ++ s.sec.halfA ++ s.sec.halfB).eraseDups).foldl (fun l r => insRec r l) []

/-- The key of the last of some owner records. -/
def keyOf (l : List IdRec) : Option (List Byte) := l.getLast?.map fun r => r.body.take 97

/-- The valid owner records in sequence order, each under the key of the one before it (R376). -/
def ownerRecs (s : State) : List IdRec :=
  (flashRecs s).foldl (fun l r => if r.kind = 6 && recValid s (keyOf l) r then l ++ [r] else l) []

/-- The owner root key: of the newest valid owner record (R376). -/
def ownerKey (s : State) : Option (List Byte) := keyOf (ownerRecs s)

/-- The valid records in sequence order. -/
def validRecs (s : State) : List IdRec :=
  let os := ownerRecs s
  (flashRecs s).filter fun r => if r.kind = 6 then os.contains r else recValid s (keyOf os) r

/-- The newest owner record with those that its signature rests on, back to one that is signed PRODUCT. -/
def ownerChain : List IdRec → List IdRec
  | [] => []
  | r :: l => if r.auth = 0 then [r] else r :: ownerChain l

/-- The newest valid record of a kind (R350). -/
def newestRec (s : State) (kind : Half) : Option IdRec := ((validRecs s).filter fun r => r.kind = kind).getLast?

/-- The highest sequence number read or written. -/
def topSeq (s : State) : Nat := ((s.sec.factory ++ s.sec.halfA ++ s.sec.halfB).map fun r => r.seq.toNat).foldl max 0

/-- The minimum security version (R373). -/
def svnMinimum (s : State) : W32 :=
  match newestRec s 5 with | some r => BitVec.ofNat 32 (ofLe (r.body.take 4)) | none => 0

/-- A record that the device writes, with its sequence number, serial and authenticator (R378). -/
def sealRec (s : State) (r : IdRec) : IdRec :=
  if r.auth = 2 then
    let r := { r with seq := BitVec.ofNat 64 (topSeq s + 1), serial := s.plan.serial }
    { r with tag := deviceTag s r }
  else r

/-- A record that may be appended (R378, R379): valid, and one signed PRODUCT or OWNER above every one of its kind. -/
def mayAppend (s : State) (r : IdRec) : Bool :=
  recValid s (ownerKey s) r &&
  (r.auth = 2 || ((validRecs s).filter fun x => x.kind = r.kind).all fun x => decide (x.seq.toNat < r.seq.toNat))

/-- The records of the records area still in force (R378). DESIGN CHOICE (log entry 167): with the newest owner record those that its
signature rests on. -/
def recsInForce (s : State) : List IdRec :=
  let v := validRecs s
  let os := ownerChain (ownerRecs s).reverse
  (v.filter fun r => !s.sec.factory.contains r).filter fun r =>
    r.kind = 2 || (r.kind = 6 && os.contains r) || (r.kind ≠ 1 && r.kind ≠ 6 && (v.filter fun x => x.kind = r.kind).getLast? = some r)

/-- The append to the active half, or with compaction to the other one; none where it does not fit (R378). -/
def appendRec (s : State) (r : IdRec) : Option State :=
  let l := if s.sec.activeB then s.sec.halfB else s.sec.halfA
  let put (b : Bool) (l : List IdRec) (both : Bool) : State :=
    let x := { s.sec with activeB := b, halfB := if b then l else if both then [] else s.sec.halfB,
                          halfA := if b then (if both then [] else s.sec.halfA) else l }
    { s with sec := x }
  if areaSize l + recSize r ≤ 131072 then some (put s.sec.activeB (l ++ [r]) false)
  else
    let n := recsInForce s ++ [r]
    if areaSize n ≤ 131072 then some (put (!s.sec.activeB) n true) else none

/-- An append that a power loss cuts short (R378): the record lies there without its authenticator, or the copies of a compaction stand
beside the old half; the device is without power. -/
def appendCut (s : State) (r : IdRec) : State :=
  let l := if s.sec.activeB then s.sec.halfB else s.sec.halfA
  let put (b : Bool) (l : List IdRec) : State :=
    { s with phase := .stopped, sec := if b then { s.sec with halfB := l } else { s.sec with halfA := l } }
  if areaSize l + recSize r ≤ 131072 then put s.sec.activeB (l ++ [{ r with tag := List.replicate 96 0xFF }])
  else put (!s.sec.activeB) (recsInForce s)

/-- What follows an append (R336, R373, R379). -/
def appended (s : State) (r : IdRec) (t : Option Ticket) (ok : Bool) : State :=
  let s := if ok && r.kind = 5 then { s with sec := { s.sec with svnMin := svnMinimum s } } else s
  match t with
  | some t =>
    let n := (Config.freeWord s.free).toNat % 65535 + 1
    if ok then opEnd { s with free := s.free + 1 } t St.complete n else opEnd s t St.protect 0
  | none =>
    if ok || r.kind ≠ 2 then s
    else
      let e := ofLe (r.body.take 16)
      let u : UnitId := BitVec.ofNat 32 (bf e 88 32)
      raise s 0x2B (recPart s u) u (bf e 120 8) 0

/-- RECORD_APPEND (R378): the first record handed to the engine. -/
def execRecordAppend (x : FlashResult) (s : State) : Res :=
  match s.sec.toAppend with
  | [] => .next s
  | (r, t) :: rest =>
    let s' := { s with sec := { s.sec with toAppend := rest } }
    let r' := sealRec s' r
    let t' := match (if x = .done && mayAppend s' r' then appendRec s' r' else none) with
      | some u => appended u r' t true
      | none => appended s' r' t false
    whenOk (s.phase = .running && s.clk.refPresent) (if x = .powerLost then appendCut s' r' else t') s

/-! ## IDFRD and IDFWR (R379) -/

def idAddr (o : Op) : Nat := bodyF o 320 64
def idOff (o : Op) : Nat := bodyF o 298 22
def idLen (o : Op) : Nat := bodyF o 276 22
def idSeal (o : Op) : Bool := (o.body.toNat).testBit 275

/-- n bytes of the identity flash from an offset: the chain padded with zeros, the PUF's helper data, the areas of records (R375). -/
def idBytes (s : State) (off n : Nat) : List Byte :=
  let a := areaBytes s.sec.halfA
  let b := areaBytes s.sec.halfB
  let f := areaBytes s.sec.factory
  (List.range n).map fun i =>
    let x := off + i
    if x < 0x2000 then storedChain.getD x 0 else if x < 0x3000 then Config.factoryByte x else if x < 0x1_0000 then f.getD (x - 0x3000) 0xFF else if x < 0x3_0000 then a.getD (x - 0x1_0000) 0xFF
    else if x < 0x5_0000 then b.getD (x - 0x3_0000) 0xFF else 0xFF

def namedIdfrd (_ : State) (o : Op) : Named := [(true, idAddr o, idLen o)]
def namedIdfwr (_ : State) (o : Op) : Named := [(false, idAddr o, idLen o)]

/-- The checks of IDFRD at launch. -/
def idfrdOk (_ : State) (o : Op) : Bool :=
  idAddr o % 64 = 0 && decide (idOff o + idLen o ≤ 2 ^ 22)

/-- IDFRD (R379): 1 step of 2 µs and 5 for each 256 bytes. -/
def execIdfrd (p : Posted) (s : State) : Res :=
  posted 2 false namedIdfrd 0xB 6 p (checked idfrdOk fun o s =>
    opEnd (memWrite s (idAddr o) (idBytes s (idOff o) (idLen o))) o.ticket St.complete (1 + 5 * ceilDiv (idLen o) 256)) s

/-- A record read from a buffer: with seal, header and body alone (R376, R379). -/
def parseRec (sld : Bool) (b : List Byte) : Option IdRec :=
  let n := ofLe ((b.drop 8).take 4)
  let ok : Bool := b.take 4 = ascii "UDRC" && b.getD 7 0 = 1 && (b.drop 12).take 4 = List.replicate 4 0 &&
    (b.drop 32).take 32 = List.replicate 32 0 && b.length = 64 + n + (if sld then 0 else 96)
  if ok then
    some { kind := BitVec.ofNat 16 (ofLe ((b.drop 4).take 2)), auth := if sld then 2 else b.getD 6 0,
           seq := BitVec.ofNat 64 (ofLe ((b.drop 16).take 8)), serial := BitVec.ofNat 64 (ofLe ((b.drop 24).take 8)),
           body := (b.drop 64).take n, tag := if sld then [] else b.drop (64 + n) }
  else none

/-- The checks of IDFWR at launch. -/
def idfwrOk (_ : State) (o : Op) : Bool := idAddr o % 64 = 0

/-- IDFWR (R379): a record that passes is handed to the engine, and the operation ends with its append. -/
def execIdfwr (p : Posted) (s : State) : Res :=
  posted 2 false namedIdfwr 0xB 7 p (checked idfwrOk fun o s =>
    if o.await ≠ 0 then s
    else if poisoned s (idAddr o) (idLen o) then opEnd s o.ticket St.poison 0
    else match parseRec (idSeal o) (memRead s (idAddr o) (idLen o)) with
      | some r =>
        if mayAppend s (sealRec s r) && (idSeal o || r.auth ≠ 2) then
          opUpd { s with sec := { s.sec with toAppend := s.sec.toAppend ++ [(r, some o.ticket)] } } o.ticket fun x => { x with await := 1 }
        else opEnd s o.ticket St.protect 0
      | none => opEnd s o.ticket St.protect 0) s

/-! ## The image (R372 to R374) -/

def imgNum (s : State) (off n : Nat) : Nat := ofLe ((s.sec.image.drop off).take n)
def imgPlen (s : State) : Nat := imgNum s 8 4
def imgPayload (s : State) : List Byte := (s.sec.image.drop 512).take (imgPlen s)

/-- The largest image. -/
abbrev imageMax : Nat := 512 + 393216 + 2048 + 96

/-- Item 1 of R373. -/
def imgHeadOk (s : State) : Bool :=
  let p := imgPlen s
  s.sec.image.take 4 = ascii "UD73" && imgNum s 4 4 = 1 && imgNum s 20 2 = 0x7340 && imgNum s 22 1 = 0xA1 && imgNum s 23 1 < 2 &&
  p % 16 = 0 && decide (16 ≤ p) && decide (p ≤ 393216) && imgNum s 16 4 % 8 = 0 && decide (imgNum s 16 4 < p) &&
  decide (imgNum s 72 4 ≤ 2048) && imgNum s 76 436 = 0 && s.sec.image.length = 512 + p + imgNum s 72 4 + 96

/-- The boot ROM accepts the image (R373): the signing certificate's chain and the key in it are operands, the rest is checked on the image's
bytes. -/
def imgOk (s : State) (x : CertVerdict) : Bool :=
  imgHeadOk s && x.chainOk && ecdsaOk x.key (s.sec.image.take (512 + imgPlen s)) (s.sec.image.drop (s.sec.image.length - 96)) && (s.sec.image.drop 24).take 48 = sha384 (imgPayload s) &&
  decide (s.sec.svnMin.toNat ≤ imgNum s 12 4)

/-- An activation that ends: its mailbox's background command has its result (R373, R392). -/
def activationEnds (s : State) (code : MbxCode) : State :=
  let mark (m : Mbx) : Mbx := if m.bg = some BgCmd.activateFw then { m with bgDone := some code } else m
  { s with cxd := { s.cxd with mbx := s.cxd.mbx.map fun x => (x.1, mark x.2) } }

/-- Context 0 of the lowest-numbered core starts at steward level at payload + entry (R373). -/
def startSteward (s : State) (entry : Nat) : State :=
  match (below 18 fun p => unitIn s (uid 3 p)).head? with
  | none => s
  | some p =>
    let k := (fptGet s (uid 3 p)).slot.toNat
    let c := withState (withPriv { ctxGet s (k * 8) with pc := Config.bootPayload + BitVec.ofNat 64 entry } 2) 1
    ctxSet s (k * 8) c

/-- What the boot ROM reads and derives in step 2 of start-up (R367). -/
def bootSecrets : BootSecrets := { reading := pufReading, seed := deviceSeed, dik := dikScalar deviceSeed }

/-- A free number of 384 bits. -/
def freeNumber (s : State) : Nat × State :=
  ((List.range 6).foldl (fun x i => x * 2 ^ 64 + (Config.freeWord (s.free + i)).toNat) 0, { s with free := s.free + 6 })

/-- An ECDSA signature over a digest by a private scalar, its nonce a free number. -/
def signedWith (s : State) (d z : Nat) : BitVec 768 × State :=
  let (k, s) := freeNumber s
  let (r, t) := ecdsaSign d (k % (bpN - 1) + 1) z
  (BitVec.ofNat 768 (r * 2 ^ 384 + t), s)

/-- The alias key derived and its certificate formed, signed by the DIK (R367, R369, R373 step 3); without an identity there is none. -/
def formAlias (s : State) : State :=
  match s.sec.boot with
  | none => s
  | some b =>
    let m := tget 0 s.sec.meas 3
    let k := aliasScalar b.seed m
    let body := Config.aliasBody (publicKey k) m s.sec.svn
    let (g, s) := signedWith s b.dik (ofBe (sha384 body))
    { s with sec := { s.sec with aliasKey := k, aliasCert := Config.aliasCert body g } }

/-- An accepted image (R373): the svn record is appended before steward code starts. -/
def acceptImage (s : State) : State :=
  let svn : W32 := BitVec.ofNat 32 (imgNum s 12 4)
  let m := digestOf (s.sec.image.take (512 + imgPlen s))
  let append : Bool := (s.sec.image.getD 23 0).toNat.testBit 0 && decide (s.sec.svnMin.toNat < svn.toNat)
  let rec5 : IdRec := { kind := 5, auth := 2, seq := 0, serial := 0, body := leBytes 16 svn.toNat, tag := [] }
  let sec := { s.sec with verified := true, fwsrc := s.sec.imageSrc, imageSrc := 0, svn := svn, meas := tset 0 s.sec.meas 3 m,
                          offers := [], arrived := [], hostFw := [], hostFwDone := false }
  let s' := formAlias (drawSealKey { s with phase := .running, sec := sec })
  let r := sealRec s' rec5
  let s' := match (if append && mayAppend s' r then appendRec s' r else none) with
    | some t => appended t r none true
    | none => s'
  let s' := { s' with sec := { s'.sec with boot := none } }
  let s' := activationEnds (dropOwned s' fun w => match w with | .boot _ _ => true | _ => false) .success
  startSteward s' (imgNum s 16 4)

/-- A rejected image discarded, with what the host transferred of it (R373). -/
def imageGone (s : State) : State :=
  let host : Bool := s.sec.imageSrc = 1
  { s with sec := { s.sec with
    image := [], imageSrc := 0, bootfail := true,
    hostFw := if host then [] else s.sec.hostFw, hostFwDone := !host && s.sec.hostFwDone } }

/-- The image that arrived next is verified next (R374). -/
def nextImage (s : State) : State :=
  match s.sec.arrived with
  | [] => s
  | b :: l => { s with sec := { s.sec with image := b, imageSrc := 2, arrived := l } }

/-- FIRMWARE_VERIFY (R373): the image that arrived first is checked. -/
def execFirmwareVerify (x : CertVerdict) (s : State) : Res :=
  let bad := nextImage (activationEnds (imageGone s) .invalidSecurityState)
  whenOk (s.phase = .waitImage && s.sec.imageSrc ≠ 0) (if imgOk s x then acceptImage s else bad) s

/-- MEMBER_OFFER (R374): from a node of the reach table, while an image is awaited and none is verified; the image is read in blocks of
4,096 bytes. DESIGN CHOICE (log entry 155): an OFFER repeated while it is read is not taken. -/
def execMemberOffer (k : Packet) (s : State) : Res :=
  if k.arg.toNat ≠ 6 then .next s
  else .next (inbound 0x0B k (fun s =>
    if k.data.length ≠ 16 || bf (ofLe k.data) 0 59 ≠ 0 then dropPacket s
    else
      let len := mbView k
      let off := (mbMembers k).toNat
      let id := k.src.toNat * 2 ^ 64 + off
      let ok : Bool := s.phase = .waitImage && !(slotsOf s k.src).isEmpty && s.sec.imageSrc = 0 &&
        !(s.sec.offers.any fun x => x.id = id)
      if !ok then s
      else if len = 0 then imageCame s []
      else
        let s := { s with sec := { s.sec with offers := s.sec.offers ++ [{ id := id, len := len, buf := [] }] } }
        (List.range (ceilDiv len 4096)).foldl (fun s i =>
          let n := min 4096 (ceilDiv (len - 4096 * i) 64 * 64)
          sendRequest s (.boot id (4096 * i)) false
            { op := 0x01, dst := k.src, off := BitVec.ofNat 50 (sramBase + off + 4096 * i), edition := s.isf.map.edition,
              arg := BitVec.ofNat 64 n }) s) s)

/-! ## Measurements (R371) -/

/-- A floor-plan entry as its 128 bits (R339, R412). -/
def fptNum (s : State) (u : UnitId) : Nat :=
  let e := fptGet s u
  u.toNat * 2 ^ 96 + e.slot.toNat * 2 ^ 80 + fptPart s u * 2 ^ 78 + e.state.toNat * 2 ^ 76 + e.origin.toNat * 2 ^ 74 +
  e.cause.toNat * 2 ^ 64 + e.corr.toNat * 2 ^ 48 + e.changed.toNat

/-- Every unit in ascending order of identifier. -/
def allUnits : List UnitId := (List.range 17).flatMap fun k => (List.range (kindCount (k + 1))).map (uid (k + 1))

/-- A measurement; none for a reserved index. -/
def measurement (s : State) (i : Nat) : Option (BitVec 384) :=
  if i = 1 then some Config.bootRomDigest
  else if 2 ≤ i && i ≤ 8 then some (tget 0 s.sec.meas i)
  else if i = 253 then some (digestOf (allUnits.flatMap fun u => leBytes 16 (fptNum s u)))
  else none

/-- A write of SEC_MEXT: the digest at its address extends a measurement; one that cannot be read extends none. -/
def writeMext (s : State) (v : Nat) : State :=
  let a := v / 64 * 64
  let i := 6 + v % 4
  if i = 9 || !reachable s a 48 || placeOf s a 48 = .localStore || poisoned s a 48 then s
  else
    let m := digestOf (beBytes 48 (tget (0 : BitVec 384) s.sec.meas i).toNat ++ memRead s a 48)
    { s with sec := { s.sec with meas := tset 0 s.sec.meas i m } }

/-- MEASUREMENT_EXTEND (R371). -/
def execMeasurementExtend (a : Agent) (v : Word) (s : State) : Res := 
  asAgent a 0x78_0020 (fun s => byWriter s a (writeMext s v.toNat)) s

/-! ## Random bits (R385) -/

def rngValue (s : State) : Word × State :=
  if s.sec.rngfail then (0, s) else (Config.freeWord s.free, { s with free := s.free + 1 })

/-- SEC_RNG_READ (R385): hosts do not reach the SEC block. -/
def execSecRngRead (a : Agent) (s : State) : Res :=
  asAgent a 0x78_0008 (fun s =>
    let t := match a with
      | .host _ => busValue s 0
      | .core _ => let (v, t) := rngValue s; busValue t v.toNat
    whenOk (s.phase ≠ .inReset && readAgent s a) t s) s

/-- RNG_HEALTH_TEST (R385). -/
def execRngHealthTest (failing : Bool) (s : State) : Res :=
  whenOk (s.phase ≠ .inReset) { s with sec := { s.sec with rngfail := failing } } s

/-! ## Protection tables (R380) -/

/-- An image of a protection entry has no fault. -/
def protOk (v : Nat) : Bool :=
  let base := bf v 76 52
  let lsize := bf v 70 6
  bf v 0 44 = 0 && bf v 44 2 ≠ 3 && bf v 48 2 ≠ 2 && bf v 50 2 ≠ 2 && bf v 52 2 ≠ 3 &&
  (match bf v 44 2 with
   | 1 => decide (lsize ≤ 38) && bf v 46 2 = 0 && base % 2 ^ lsize = 0
   | 2 => lsize = 0 && bf v 54 16 = 0 && bf v 76 24 = 0 && decide (bf v 114 14 ≤ bf v 100 14)
   | _ => true)

/-- The work of PTWR, with its read of memory. -/
def ptwrWork (c : CtxId) (w : Ins64) (s : State) : After :=
  ctxTry c (.redo (.ptwr c w)) [((getS (ctxGet s c) w.sb.toNat).toNat, 16)] (fun s =>
    let x := ctxGet s c
    let i := (opA x w.sa).toNat
    match ctxRead s c (getS x w.sb.toNat) 16 8 with
    | .error (cause, fa) => .exc s cause fa
    | .ok v =>
      if decide (i < 4096) && protOk v then
        let s := { s with sec := { s.sec with prot := tset protReset s.sec.prot i (BitVec.ofNat 128 v) } }
        .adv (statusTo s c w.sd.toNat St.complete)
      else .adv (statusTo s c w.sd.toNat St.protect)) s

/-- PTWR (R380, R382). -/
def execPtwr (c : CtxId) (w : Ins64) (s : State) : Res := issue64 2 true c w (ptwrWork c w) s

/-- The work of PTRD, with its write of memory. -/
def ptrdWork (c : CtxId) (w : Ins64) : State → After :=
  ctxTry c (.redo (.ptrd c w)) [] (fun s =>
    let x := ctxGet s c
    let i := (opA x w.sa).toNat
    if 4096 ≤ i then .adv (statusTo s c w.sd.toNat St.protect)
    else match ctxAccess s c true (getS x w.sb.toNat) 16 8 with
      | .error (cause, fa) => .exc s cause fa
      | .ok k => .adv (statusTo (memWriteNum s k 16 (tget protReset s.sec.prot i).toNat) c w.sd.toNat St.complete))

/-- PTRD (R380). -/
def execPtrd (c : CtxId) (w : Ins64) (s : State) : Res := issue64 2 true c w (ptrdWork c w) s

/-! ## Key slots (R383) -/

/-- The weight descriptors that an operation names. -/
def opDescs (s : State) (o : Op) : List SliceDesc :=
  if o.cls = 6 && o.op = 0 then [readDesc s (bodyF o 320 64)]
  else if o.cls = 7 && o.op = 0 && tjKind o ≠ 1 && tjKind o ≠ 2 then (descViews s o (bodyF o 320 64)).flatten
  else if o.cls = 7 && o.op = 1 then tgTables s o
  else []

/-- An operation in flight names a key slot. -/
def keyInUse (s : State) (k : Nat) : Bool :=
  s.ops.any fun o => o.phase ≠ .recorded && (opDescs s o).any fun d => d.enc && d.kslot = k

/-- A write of SEC_KEYCTL: nothing while a load or clear is under way; a reserved op starts none. -/
def writeKeyCtl (s : State) (v : Nat) : State :=
  if s.sec.keyBusy.isSome then s
  else
    let k := bf v 8 8
    let s := { s with sec := { s.sec with keySlot := BitVec.ofNat 8 k } }
    if v % 4 = 1 || v % 4 = 2 then { s with sec := { s.sec with keyBusy := some (k, v % 4 = 1) } } else s

/-- KEY_LOAD (R383). -/
def execKeyLoad (a : Agent) (slot : Byte) (s : State) : Res := 
  asAgent a 0x78_0018 (fun s => byWriter s a (writeKeyCtl s (slot.toNat * 256 + 1))) s

/-- KEY_CLEAR (R383). -/
def execKeyClear (a : Agent) (slot : Byte) (s : State) : Res := 
  asAgent a 0x78_0018 (fun s => byWriter s a (writeKeyCtl s (slot.toNat * 256 + 2))) s

/-- The key slot that the record at SEC_KEYSRC gives, if it may. -/
def keyRecord (s : State) : Option KeySlot :=
  let a := s.sec.keysrc.toNat * 64
  let v := memNum s a 80
  if !reachable s a 80 || placeOf s a 80 = .localStore || poisoned s a 80 || 1 < bf v 512 8 || 2 < bf v 520 8 || bf v 528 112 ≠ 0 then none
  else some { usage := BitVec.ofNat 8 (bf v 512 8), part := BitVec.ofNat 8 (bf v 520 8), mat := BitVec.ofNat 512 v }

/-- KEY_OP_DONE (R383): once no operation in flight names the slot. -/
def execKeyOpDone (s : State) : Res :=
  match s.sec.keyBusy with
  | none => .next s
  | some (k, load) =>
    let done (x : Option KeySlot) : State :=
      let slots := match x with | some y => tset {} s.sec.slots k y | none => s.sec.slots
      { s with sec := { s.sec with keyBusy := none, slots := slots, keyResult := if x.isSome then St.complete else St.protect } }
    whenOk (s.phase = .running && !keyInUse s k) (done (if load then keyRecord s else some {})) s

/-! ## SPDM on DOE instance 0 (R368 to R371) -/

/-- A DOE exchange comes in over the link; its answer goes out. -/
def doeUp (s : State) : Bool := linkOn s && hostUp s

def doeSay (s : State) (x : DoeOut) : State := { s with cxd := { s.cxd with doeOut := s.cxd.doeOut ++ [x] } }

/-- An exchange that needs the algorithms agreed. -/
def spdmReady (s : State) (f : State → State) : Res :=
  whenOk (doeUp s) (if s.cxd.spdmVersion && s.cxd.spdmAlgs then f s else doeSay s .errUnexpected) s

/-- An exchange that needs a certificate or a signature (R368): none without an identity, nor before the image that the alias
key is derived from. -/
def spdmSigned (s : State) (f : State → State) : Res :=
  spdmReady s fun s => if s.sec.nopuf || !s.sec.verified then doeSay s .errUnspecified else f s

/-- SPDM_GET_VERSION (R370). -/
def execSpdmGetVersion (s : State) : Res :=
  whenOk (doeUp s) (doeSay { s with cxd := { s.cxd with spdmVersion := true, spdmAlgs := false } } (.versions [0x12, 0x13])) s

/-- The capability flags of R370, at the places the SPDM specification gives them: CERT, CHAL, MEAS with signature,
MEAS_FRESH, ENCRYPT, MAC, KEY_EX, HBEAT, KEY_UPD. -/
def spdmFlags : Nat := 2 ^ 1 + 2 ^ 2 + 2 ^ 4 + 2 ^ 5 + 2 ^ 6 + 2 ^ 7 + 2 ^ 9 + 2 ^ 13 + 2 ^ 14

/-- SPDM_GET_CAPABILITIES (R370). -/
def execSpdmGetCapabilities (v : Byte) (s : State) : Res :=
  whenOk (doeUp s)
    (doeSay s (if !s.cxd.spdmVersion then .errUnexpected else if v = 0x12 || v = 0x13 then .capabilities spdmFlags else .errInvalid)) s

/-- SPDM_NEGOTIATE_ALGORITHMS (R370). -/
def execSpdmNegotiateAlgorithms (offer : SpdmOffer) (s : State) : Res :=
  let ok := offer.sha384 && offer.brainpool && offer.secp384 && offer.gcm
  let t := { s with cxd := { s.cxd with spdmAlgs := ok } }
  whenOk (doeUp s) (if s.cxd.spdmVersion then doeSay t (.algorithms ok) else doeSay s .errUnexpected) s

/-- The certificate chain of slot 0 with the alias certificate (R369). -/
def chain (s : State) : List Byte :=
  (storedChain ++ s.sec.aliasCert).take 8192

/-- SPDM_GET_DIGESTS (R369). -/
def execSpdmGetDigests (s : State) : Res := spdmSigned s fun s => doeSay s (.digest (digestOf (chain s)))

/-- SPDM_GET_CERTIFICATE (R369). -/
def execSpdmGetCertificate (slot : Byte) (off len : BitVec 16) (s : State) : Res :=
  spdmSigned s fun s =>
    let c := chain s
    if slot ≠ 0 || c.length ≤ off.toNat then doeSay s .errInvalid
    else
      let b := (c.drop off.toNat).take len.toNat
      doeSay s (.certificate b.length (c.length - off.toNat - b.length) b)

/-- A signature by the alias key over a transcript, which the model does not keep: its digest and the nonce are free (log entry 75). -/
def aliasSigned (s : State) : BitVec 768 × State :=
  let (z, s) := freeNumber s
  signedWith s s.sec.aliasKey z

/-- SPDM_CHALLENGE (R370). -/
def execSpdmChallenge (slot : Byte) (_ : BitVec 256) (s : State) : Res :=
  spdmSigned s fun s =>
    if slot ≠ 0 then doeSay s .errInvalid else let (g, s) := aliasSigned s; doeSay s (.challenge g)

/-- The measurement blocks of an index: all of them for 0xFF (R371). -/
def measBlocks (s : State) (i : Nat) : List (Nat × BitVec 384) :=
  (if i = 255 then [1, 2, 3, 4, 5, 6, 7, 8, 253] else [i]).flatMap fun j =>
    match measurement s j with | some d => [(j, d)] | none => []

/-- SPDM_GET_MEASUREMENTS (R371). -/
def execSpdmGetMeasurements (index : Byte) (signed : Bool) (_ : BitVec 256) (s : State) : Res :=
  if signed then spdmSigned s fun s =>
    let (g, t) := aliasSigned s
    doeSay t (.measurements (measBlocks s index.toNat) (some g))
  else spdmReady s fun s => doeSay s (.measurements (measBlocks s index.toNat) none)

/-- SPDM_KEY_EXCHANGE (R370): at most 4 sessions. -/
def execSpdmKeyExchange (reqId : BitVec 16) (_ : BitVec 768) (s : State) : Res :=
  spdmSigned s fun s =>
    if 4 ≤ s.cxd.sessions.length then doeSay s .errSessionLimit
    else
      let sid : W32 := BitVec.ofNat 32 (s.cxd.nextSid.toNat % 2 ^ 16 * 2 ^ 16 + reqId.toNat)
      let t := { s with cxd := { s.cxd with sessions := s.cxd.sessions ++ [{ sid := sid, open_ := false }], nextSid := s.cxd.nextSid + 1 } }
      doeSay t (.keyExchange sid)

def sessionOf (s : State) (sid : W32) : Option Session := s.cxd.sessions.find? fun x => x.sid = sid

def dropSession (s : State) (sid : W32) : State :=
  { s with cxd := { s.cxd with sessions := s.cxd.sessions.filter fun x => x.sid ≠ sid } }

/-- SPDM_FINISH (R370). -/
def execSpdmFinish (sid : W32) (macOk : Bool) (s : State) : Res :=
  spdmReady s fun s =>
    match sessionOf s sid with
    | none => doeSay s .errUnexpected
    | some x =>
      if x.open_ then doeSay s .errUnexpected
      else if !macOk then doeSay (dropSession s sid) .errInvalid
      else
        let l := updFirst (fun y : Session => y.sid = sid) (fun y => { y with open_ := true }) s.cxd.sessions
        doeSay { s with cxd := { s.cxd with sessions := l } } (.finished sid)

/-- An exchange in an open session. -/
def inSession (s : State) (sid : W32) (f : State → State) : Res :=
  spdmReady s fun s => if (sessionOf s sid).any fun x => x.open_ then f s else doeSay s .errUnexpected

/-- SPDM_HEARTBEAT (R370). -/
def execSpdmHeartbeat (sid : W32) (s : State) : Res := inSession s sid fun s => doeSay s (.heartbeat sid)

/-- SPDM_KEY_UPDATE (R370): operations 1 to 3. -/
def execSpdmKeyUpdate (sid : W32) (op : Byte) (s : State) : Res :=
  inSession s sid fun s => doeSay s (if op = 1 || op = 2 || op = 3 then .keyUpdated sid else .errInvalid)

/-- SPDM_END_SESSION (R370). -/
def execSpdmEndSession (sid : W32) (s : State) : Res := inSession s sid fun s => doeSay (dropSession s sid) (.ended sid)

/-- How many streams of a kind the port has (R286). -/
def ideRoom : IdeStream → Nat
  | .ioSelective => ideSelectiveStreams
  | _ => ideLinkStreams

/-- Two kinds of stream are the same, whatever the mode. -/
def sameKind : IdeStream → IdeStream → Bool
  | .ioLink, .ioLink | .ioSelective, .ioSelective | .mem _, .mem _ => true
  | _, _ => false

/-- IDE_KM (R286, R302, R384): in a secured session; a stream beyond the port's gets no keys. -/
def execIdeKm (k : IdeKeys) (s : State) : Res :=
  let others := s.cxd.ideStreams.filter fun x => x.1 ≠ k.stream.toNat
  let skid := match k.kind with | .mem b => b | _ => s.cxd.ideSkid
  whenOk (doeUp s && (s.cxd.sessions.any fun x => x.open_) && decide (others.countP (fun x => sameKind x.2 k.kind) < ideRoom k.kind))
    { s with cxd := { s.cxd with ideKeys := tset 0 s.cxd.ideKeys k.stream.toNat k.key,
                                 ideStreams := others ++ [(k.stream.toNat, k.kind)], ideSkid := skid } } s

/-! ## Discovery and CDAT (R303) -/

/-- The protocols of a DOE instance: vendor and type. -/
def doeProtocols (i : Fin 2) : List (Half × Byte) :=
  if i = 0 then [(0x0001, 0), (0x0001, 1), (0x0001, 2)] else [(0x0001, 0), (0x1E98, 2)]

/-- DOE_DISCOVERY (R303). -/
def execDoeDiscovery (inst : Fin 2) (index : Byte) (s : State) : Res :=
  let l := doeProtocols inst
  let i := index.toNat
  let out : DoeOut := match l[i]? with
    | some (v, k) => .protocols inst.val v k (if i + 1 < l.length then BitVec.ofNat 8 (i + 1) else 0)
    | none => .protocols inst.val 0xFFFF 0 0
  whenOk (doeUp s) (doeSay s out) s

/-- A region lies in the device's own slot alone. -/
def regionOwn (s : State) (r : DcRegion) : Bool :=
  let c := 32 * stackCap s
  c ≠ 0 && r.len ≠ 0 && r.base / c = (r.base + r.len - 1) / c && ownSlot s (r.base / c)

/-- The CDAT entries: one DSMAS and four DSLBIS for each region; read latency, write latency in ns, read and write bandwidth
in GB/s (R303). A structure is a list of its type, its handle and its values. -/
def cdatEntries (s : State) : List (List Nat) :=
  ((indexed s.cxd.regions).filter fun x => x.2.len ≠ 0).flatMap fun (i, r) =>
    let own := regionOwn s r
    [[0, i, 1, r.base, r.len], [1, i, 1, if own then 230 else 1260], [1, i, 2, if own then 190 else 1060], [1, i, 4, 110], [1, i, 5, 110]]

/-- CDAT_TABLE_ACCESS (R303). -/
def execCdatTableAccess (handle : BitVec 16) (s : State) : Res :=
  let l := cdatEntries s
  let i := handle.toNat
  let out : DoeOut := match l[i]? with
    | some e => .cdat e (if i + 1 < l.length then BitVec.ofNat 16 (i + 1) else 0xFFFF)
    | none => .errInvalid
  whenOk (doeUp s) (doeSay s out) s

end Sys2Proof.Machine
end

