-- ==== Sys2Proof/Machine/Power.lean ====
section
/-! DEFINITION. Power and heat (R38, R362 to R366, R408), partial resets (R356 to R360) and whole-device reset, start-up and
the power events (R327, R349 to R355, R361, R401, R404, R407). -/
namespace Sys2Proof.Machine

/-! ## Envelope, grants and budgets (R362, R363) -/

def grantOfPart (s : State) (p : Nat) : Nat := (tget 0 s.pwr.grant p).toNat

/-- The budget in force: within the grant; a partition that set none has its grant (log entry 47). -/
def budgetOf (s : State) (p : Nat) : Nat := min (tget 0x7FF s.pwr.budget p).toNat (grantOfPart s p)

def setGrant (s : State) (p w : Nat) : State := { s with pwr := { s.pwr with grant := tset 0 s.pwr.grant p (BitVec.ofNat 11 w) } }

/-- PWENV's change: partition 1's grant is lowered first, then partition 0's (R363). -/
def setEnvelope (s : State) (w : Nat) : State :=
  let excess := grantOfPart s 0 + grantOfPart s 1 - w
  let c1 := min excess (grantOfPart s 1)
  let s := setGrant (setGrant s 1 (grantOfPart s 1 - c1)) 0 (grantOfPart s 0 - (excess - c1))
  { s with pwr := { s.pwr with env := BitVec.ofNat 11 w } }

/-- PWENV (R363). -/
def execPwenv (c : CtxId) (w : Ins64) (s : State) : Res :=
  issue64 2 true c w (fun s =>
    let v := (opA (ctxGet s c) w.sa).toNat
    if 900 ≤ v && v ≤ 1850 then .adv (statusTo (setEnvelope s v) c w.sd.toNat St.complete)
    else .adv (statusTo s c w.sd.toNat St.protect)) s

/-- PWBUDGET (R363): clamped to the grant. -/
def execPwbudget (c : CtxId) (w : Ins64) (s : State) : Res :=
  issue64 1 true c w (fun s =>
    let x := ctxGet s c
    let p := (partOf x).val
    let v := min (opA x w.sa).toNat (grantOfPart s p)
    .adv { s with pwr := { s.pwr with budget := tset 0x7FF s.pwr.budget p (BitVec.ofNat 11 v) } }) s

/-- Bits 1 to 10 of a mask of engine kinds. -/
def kindMask (v : Word) : Word := v &&& 0x7FE

/-- PWHOLD: launches of engine kinds of the issuer's partition held or released. -/
def execPwhold (c : CtxId) (w : Ins64) (s : State) : Res :=
  issue64 1 true c w (fun s =>
    let x := ctxGet s c
    let p := (partOf x).val
    let m := kindMask (opA x w.sa)
    let old := tget 0 s.pwr.pwhold p
    let new := if opB x w = 1 then old ||| m else if opB x w = 0 then old &&& ~~~m else old
    .adv { s with pwr := { s.pwr with pwhold := tset 0 s.pwr.pwhold p new } }) s

/-- PWGATE: clusters of the issuer's partition gated or ungated. A b other than 0 or 1 gates nothing, and its status is a free
one of the codes of R8 (log entry 48). -/
def execPwgate (c : CtxId) (w : Ins64) (s : State) : Res :=
  issue64 1 true c w (fun s =>
    let x := ctxGet s c
    let m := (opA x w.sa).toNat
    let b := opB x w
    let ok := decide (m < 2 ^ 16) && (List.range 16).all fun i => !m.testBit i || (holdsCluster s (partOf x) i && unitIn s (uid 2 i))
    if !ok then .adv (statusTo s c w.sd.toNat St.protect)
    else if b = 0 || b = 1 then
      let g : Half := if b = 0 then s.units.gated ||| BitVec.ofNat 16 m else s.units.gated &&& ~~~BitVec.ofNat 16 m
      .adv (statusTo { s with units := { s.units with gated := g } } c w.sd.toNat St.complete)
    else .adv (regSet { s with free := s.free + 1 } c w.sd.toNat (BitVec.ofNat 64 ((Config.freeWord s.free).toNat % 12)))) s

/-! ## Voltages (R38, R365, R366) -/

/-- The die that a region lies on, by CLK_PACE index (R39). -/
def regionDie (i : Nat) : Die :=
  if 16 ≤ i && i < 24 then .hub (Fin.ofNat 8 (i - 16)) else if 24 ≤ i && i < 56 then .stack (Fin.ofNat 32 (i - 24))
  else if 75 ≤ i then .hub (Fin.ofNat 8 (i - 75)) else .controller

/-- The place of a die in a reading's list. -/
def dieIndex : Die → Nat
  | .controller => 0
  | .hub h => 1 + h.val
  | .stack st => 9 + st.val

/-- The voltage in force: at least the floor-pace voltage, at most the nominal one; a throttled die is at its floor. -/
def regionMv (s : State) (i : Nat) : Half :=
  let floor := (tget 0 s.pwr.floor i).toNat
  let want := if s.pwr.throttled.contains (regionDie i) then floor else max (tget 0xFFFF s.pwr.target i).toNat floor
  BitVec.ofNat 16 (min (s.plan.nominalMv.getD i 0) want)

/-- Every region's voltage in force found anew. -/
def applyVolts (s : State) : State :=
  { s with pwr := { s.pwr with volt := (List.range 83).foldl (fun t i => tset 0 t i (regionMv s i)) s.pwr.volt } }

/-- The floor-pace voltages at the dies' present temperatures. -/
def readFloors (s : State) (x : PowerReading) : State :=
  let f (i : Nat) : Half := Config.floorMv i (x.dieSixteenths.getD (dieIndex (regionDie i)) 0)
  applyVolts { s with pwr := { s.pwr with floor := (List.range 83).foldl (fun t i => tset 0 t i (f i)) s.pwr.floor } }

/-- PWVSET (R25, R365): a region number beyond the table, or of a unit out of service, sets none. -/
def execPwvset (c : CtxId) (w : Ins64) (s : State) : Res :=
  issue64 2 true c w (fun s =>
    let x := ctxGet s c
    let i := (opA x w.sa).toNat
    let v := min (getS x w.sb.toNat).toNat 0xFFFE
    if i < 83 && regionIn s i then
      .adv (applyVolts { s with pwr := { s.pwr with target := tset 0xFFFF s.pwr.target i (BitVec.ofNat 16 v) } })
    else .adv s) s

/-! ## Telemetry (R364) -/

/-- A telemetry item; a reserved one is 0. -/
def telemetry (s : State) (i : Nat) : Word :=
  let x := s.pwr.last
  let rail (l : List Nat) (k : Nat) : Word := if k = 15 then 0 else BitVec.ofNat 64 (l.getD k 0)
  if i = 0 then BitVec.ofNat 64 x.packageMw
  else if i = 1 then BitVec.ofNat 64 x.packageMw1ms
  else if i = 2 then BitVec.ofNat 64 (s.pwr.energy / 100000)
  else if i = 3 then BitVec.ofNat 64 x.partMw0
  else if i = 4 then BitVec.ofNat 64 x.partMw1
  else if i = 5 then s.pwr.env.setWidth 64
  else if 0x08 ≤ i && i ≤ 0x17 then rail x.railMa (i - 0x08)
  else if 0x18 ≤ i && i ≤ 0x27 then rail x.railMv (i - 0x18)
  else if 0x28 ≤ i && i ≤ 0x50 then BitVec.ofInt 64 (x.dieSixteenths.getD (i - 0x28) 0)
  else if 0x80 ≤ i && i ≤ 0xD2 then (paceOf s (i - 0x80)).setWidth 64
  else 0

/-- PWREAD (R364). -/
def execPwread (c : CtxId) (w : Ins64) (s : State) : Res :=
  issue64 1 true c w (fun s => .adv (regSet s c w.sd.toNat (telemetry s (getF w.imm 0 8)))) s

/-! ## The limiter (R362, R363) -/

/-- One 10 µs average against a bound in W: the level of holding and the samples below 97% of it. -/
def limitStep (mw bound level below : Nat) : Nat × Nat :=
  if bound * 1000 < mw then (min 4 (level + 1), 0)
  else if mw * 100 < bound * 1000 * 97 then (level, below + 1)
  else (level, 0)

/-- POWER_SAMPLE (R362 to R365): telemetry, voltages, the envelope limiter and the partitions' budgets. Energy is counted in
units of 10 nJ, 10 µs of 1 mW. -/
def powerSample (s : State) (x : PowerReading) : State :=
  let before := s
  let s := readFloors { s with pwr := { s.pwr with last := x, energy := s.pwr.energy + x.packageMw } } x
  let env := s.pwr.env.toNat
  let (n, b) := limitStep x.packageMw env s.pwr.limiter s.pwr.below
  let s := { s with pwr := { s.pwr with limiter := n, below := b, limit := s.pwr.limit || decide (env * 1000 < x.packageMw) } }
  noteUnderWay before <| [(0, x.partMw0), (1, x.partMw1)].foldl (fun s y =>
    let (p, mw) := y
    let w := budgetOf s p
    let (n, b) := limitStep mw w (tget 0 s.pwr.partHeld p) (tget 0 s.pwr.partBelow p)
    { s with pwr := { s.pwr with partHeld := tset 0 s.pwr.partHeld p n, partBelow := tset 0 s.pwr.partBelow p b,
                                 pthrot := s.pwr.pthrot || decide (w * 1000 < mw) } }) s

/-- The sensors of the device work: it is powered and not held in reset. -/
def awake (s : State) : Bool := s.phase = .running || s.phase = .waitImage

/-- POWER_SAMPLE (R362). -/
def execPowerSample (x : PowerReading) (s : State) : Res := whenOk (awake s) (powerSample s x) s

/-- POWER_LIMIT_RELEASE (R362): 100 µs of averages below 97%. -/
def execPowerLimitRelease (s : State) : Res :=
  let t := if 10 ≤ s.pwr.below then { s with pwr := { s.pwr with limiter := 0 } } else s
  let held := t.pwr.partHeld.filter fun x => decide (tget 0 t.pwr.partBelow x.1 < 10)
  whenOk (awake s) { t with pwr := { t.pwr with partHeld := held } } s

/-! ## Heat (R366, R408) -/

/-- The throttle, throttle-end, trip and clear points of a die in °C. -/
def heatPoints (s : State) : Die → Int × Int × Int × Int
  | .stack _ => (100, 97, 105, 95)
  | _ => (s.pwr.tthr.toNat, s.pwr.tthr.toNat - 3, 110, 100)

/-- THERMAL_THROTTLE (R366). -/
def execThermalThrottle (d : Die) (celsius : Int) (s : State) : Res :=
  let t := { s with pwr := { s.pwr with throttled := s.pwr.throttled ++ [d], tthrot := true } }
  whenOk (awake s && decide ((heatPoints s d).1 ≤ celsius) && !s.pwr.throttled.contains d) (applyVolts t) s

/-- THROTTLE_END (R366). -/
def execThrottleEnd (d : Die) (celsius : Int) (s : State) : Res :=
  let t := { s with pwr := { s.pwr with throttled := s.pwr.throttled.filter fun e => e ≠ d } }
  whenOk (awake s && decide (celsius ≤ (heatPoints s d).2.1) && s.pwr.throttled.contains d) (applyVolts t) s

/-- THERMAL_TRIP (R366): THERM_TRIP_N is asserted while a die is listed. -/
def execThermalTrip (d : Die) (celsius : Int) (s : State) : Res :=
  let t := { s with pwr := { s.pwr with tripped := s.pwr.tripped ++ [d], trip := true } }
  let t := if d = .controller then { t with units := { t.units with gated := 0xFFFF } } else t
  whenOk (awake s && decide ((heatPoints s d).2.2.1 ≤ celsius) && !s.pwr.tripped.contains d) (raiseMsi (noteUnderWay s t) 0 2) s

/-- THERMAL_CLEAR (R366): the holds of the die are released. -/
def execThermalClear (d : Die) (celsius : Int) (s : State) : Res :=
  whenOk (decide (celsius ≤ (heatPoints s d).2.2.2) && s.pwr.tripped.contains d)
    { s with pwr := { s.pwr with tripped := s.pwr.tripped.filter fun e => e ≠ d } } s

/-- THERM_COMPARATOR (R408): independent of all logic. -/
def execThermComparator (_ : Die) (celsius : Int) (s : State) : Res :=
  whenOk (decide (125 ≤ celsius)) { s with pwr := { s.pwr with comparator := true } } s

/-- The THERM_TRIP_N land is asserted (R408). -/
def thermTripPin (s : State) : Bool := s.pwr.comparator || !s.pwr.tripped.isEmpty

/-! ## Partial resets (R356 to R360) -/

/-- The scope that PRESET's operand names for an issuer's partition, if it may (R356, R359). -/
def presetScope (s : State) (p : Part) (v : Nat) : Option ResetScope :=
  let u : UnitId := BitVec.ofNat 32 v
  let own (kind : Nat) : Bool := validUnit u && unitKind u = kind && fptPart s u = p.val && !resetting s p
  if 2 ^ 34 ≤ v then none
  else match v / 2 ^ 32 with
    | 0 => if own 1 then some (.tile u) else none
    | 1 => if own 2 then some (.cluster u) else none
    | 2 =>
      let q : Part := Fin.ofNat 2 v
      if v % 2 ^ 32 < 2 && partExists s q && !resetting s q then some (.partition q) else none
    | _ => none

/-- The tile slots of a reset, as cluster × 8 + slot. -/
def scopeSlots (s : State) : ResetScope → List Nat
  | .tile u => [unitIndex u / 9 * 8 + (fptGet s u).slot.toNat]
  | .cluster u => (List.range 8).map fun k => unitIndex u * 8 + k
  | .partition p => (List.range 128).filter fun i => holdsCluster s p (i / 8)

/-- Tile state emptied (R238). -/
def emptySlots (s : State) (l : List Nat) : State :=
  { s with units := { s.units with tiles := s.units.tiles.filter fun x => !l.contains x.1 } }

/-- A batch step whose list is built and that has not committed posts its swap where its posting has not begun; else the class
it commits to is void as well (R129). -/
def voidBatch (b : Batch) : Batch :=
  if b.committed.isSome then b else { b with swap := true, voided := b.voided || decide (0 < b.next) }

/-- A partition's loaded class is void, so the next step posts its swap (R129). -/
def voidLoaded (s : State) (p : Nat) : State :=
  { s with ldg := { s.ldg with loaded := tset none s.ldg.loaded p none,
                               batch := tset none s.ldg.batch p ((tget none s.ldg.batch p).map voidBatch) } }

/-- The contexts of a partition's core slots go to IDLE. -/
def idleContexts (s : State) (p : Part) : State :=
  (below 128 fun c => holdsCore s p (c / 8)).foldl (fun s c => endContext s c 0) s

/-- An operation that a partial reset meets before its commit completes with ABORTED, a held step's at the reset boundary
(R240, R348, R357). -/
def resetAbort (s : State) (t : Ticket) : State := (abortTicket (opUpd s t fun x => { x with held := none }) t).2

/-- A tile job that names slots of a reset ends at the boundary, whatever its earlier steps wrote (R240, R357). -/
def resetJob (s : State) (t : Ticket) : State :=
  match opGet s t with
  | none => s
  | some o =>
    if o.due.isSome then opUpd (opEnd s t St.aborted o.ran) t fun x => { x with held := none, due := none } else resetAbort s t

/-- A partial reset begins: what is in flight is aborted at its pre-emption point (R357). -/
def beginReset (s : State) (p : Part) (r : ResetScope) : State :=
  let s := { s with pwr := { s.pwr with resets := s.pwr.resets ++ [r] } }
  match r with
  | .partition q => (ticketsOf s fun o => o.part = q).foldl
      (fun s t => if (opGet s t).any fun o => o.cls = 7 && o.op = 0 then resetJob s t else resetAbort s t) (idleContexts s q)
  | _ =>
    let l := scopeSlots s r
    let s := (ticketsOf s fun o => o.cls = 7 && o.op = 0 && o.phase = .launched && (tjNamed o).any l.contains).foldl resetJob s
    voidLoaded (emptySlots s l) p.val

/-- PRESET (R103, R356): it completes when the reset has begun. -/
def execPreset (c : CtxId) (w : Ins64) (s : State) : Res :=
  issue64 2 true c w (fun s =>
    let x := ctxGet s c
    match presetScope s (partOf x) (opA x w.sa).toNat with
    | some r => .adv (beginReset (statusTo s c w.sd.toNat St.complete) (partOf x) r)
    | none => .adv (statusTo s c w.sd.toNat St.protect)) s

/-- The partition that a tile's or cluster's reset lies in. -/
def resetIn (s : State) (p : Part) : ResetScope → Bool
  | .tile u => holdsCluster s p (unitIndex u / 9)
  | .cluster u => holdsCluster s p (unitIndex u)
  | .partition _ => false

/-- The end of a partition's reset: its state discarded (R357, R358). DESIGN CHOICE (log entry 108): its role, the roles that changes have
ended and a change under way stay as they are. -/
def discardPartition (s : State) (p : Part) : State :=
  let rs := ((s.ldg.entries ++ s.ldg.spilled).filter fun x => x.2.part = p).map fun x => x.1
  let s := rs.foldl freeEntry s
  let keep (k : Nat) : Bool := k / 256 ≠ p.val
  let s := voidLoaded { s with ldg := { s.ldg with
    batch := tset none s.ldg.batch p.val none, round := tset 0 s.ldg.round p.val 0,
    accum := s.ldg.accum.filter fun x => keep x.1, active := s.ldg.active.filter keep } } p.val
  let d := partDesc s p
  let s := zeroTallies s d.tbase d.tcount
  let s := (below 1024 fun q => (queueGet s q).part = p).foldl emptyQueue s
  let s := qpResetPart (idleContexts s p) p
  let s := emptySlots s (scopeSlots s (.partition p))
  { s with units := { s.units with hubConst := s.units.hubConst.filter fun x => !holdsHub s p x.1 } }

/-- A record of a host ring of the partition is being taken: it completes before the partition's reset ends (R395). -/
def ringOf (p : Part) : Work → Bool
  | .ring _ _ r => r.part = p
  | _ => false

/-- PARTIAL_RESET_END (R359, R360): a partition's waits for the resets inside it and for its manifests. -/
def execPartialResetEnd (r : ResetScope) (s : State) : Res :=
  let t := { s with pwr := { s.pwr with resets := s.pwr.resets.filter fun x => x ≠ r } }
  match r with
  | .partition p =>
    let busy : Bool := s.ops.any (fun o => o.part = p && o.phase ≠ .recorded) || s.mem.works.any (ringOf p) || s.pwr.resets.any (resetIn s p)
    whenOk (s.phase = .running && s.pwr.resets.contains r && !busy) (discardPartition t p) s
  | _ => whenOk (s.phase = .running && s.pwr.resets.contains r) t s

/-! ## Whole-device reset and the power events (R327, R361, R401, R404, R407) -/

/-- Whole-device reset: everything but the identity flash, the cave and the lands starts anew (R361). -/
def wholeReset (s : State) : State :=
  { State.reset with
    pending := s.pending, free := s.free,
    sec := { factory := s.sec.factory, halfA := s.sec.halfA, halfB := s.sec.halfB, activeB := s.sec.activeB },
    fls := { blocks := s.fls.blocks, grans := s.fls.grans, jwritten := s.fls.jwritten, snap := s.fls.snap, jseq := s.fls.jseq,
             wseq := s.fls.wseq, noWrite := s.fls.noWrite, brought := s.fls.brought, started := s.fls.started },
    pwr := { pwrfail := s.pwr.pwrfail, comparator := s.pwr.comparator } }

/-- The flush of the cave, where there is a staging region (R327, R361). -/
def flushIfStaged (s : State) (us : Nat) : State := if s.phase = .running && stageSet s then flushCave s us else s

/-- The device stopped as on loss of power. -/
def stopAll (s : State) : State := { s with phase := .stopped }

/-- PWRFAIL (R327, R407): 200 ns and longer is recognised, 50 ns and shorter never, between is free. -/
def execPwrfail (ns flushUs : Nat) (s : State) : Res :=
  let seen : Bool := decide (200 ≤ ns) || (decide (50 < ns) && (Config.freeWord s.free).toNat.testBit 0)
  let s' := { s with free := if 50 < ns && ns < 200 then s.free + 1 else s.free }
  let t := { s' with fls := { s'.fls with delayLine := true } }
  let t := if s.phase = .running then flushCave t flushUs else t
  let t := if s.phase = .inReset then s' else stopAll t
  .next (if seen && !s.pwr.pwrfail then { t with pwr := { t.pwr with pwrfail := true } } else s')

/-- PWRFAIL_DEASSERT (R404): the device stays stopped. -/
def execPwrfailDeassert (s : State) : Res := .next { s with pwr := { s.pwr with pwrfail := false } }

/-- PERST_ASSERT (R361, R404): the clocked flush, then whole-device reset. -/
def execPerstAssert (flushUs : Nat) (s : State) : Res :=
  whenOk (s.phase ≠ .inReset) (wholeReset (if s.pwr.pwrfail || !s.clk.refPresent then s else flushIfStaged s flushUs)) s

/-- POWER_RETURN (R361, R408). -/
def execPowerReturn (s : State) : Res :=
  let t := wholeReset s
  whenOk (s.phase = .stopped || s.phase = .inReset) { t with pwr := {} } s

/-- The rails with hold-up (R400). -/
def holdUpRail (r : Nat) : Bool := [3, 7, 8, 9, 11, 13, 14].contains r

/-- The clean record of an earlier flush no longer answers for the next start (R404). -/
def noClean (s : State) : State := { s with fls := { s.fls with grans := s.fls.grans.filter fun g => g.2.kind ≠ 4 } }

/-- RAIL_FAULT (R401): a whole-device stop, but for a rail without hold-up after PWRFAIL_N. -/
def execRailFault (rail : Fin 16) (ns : Nat) (s : State) : Res :=
  whenOk (s.phase ≠ .inReset && decide (1000 < ns) && rail ≠ 15 && !(s.pwr.pwrfail && !holdUpRail rail.val))
    (stopAll (if s.pwr.pwrfail then s else noClean s)) s

/-! ## Start-up (R349 to R355) -/

/-- One repair entry applied at start (R351, R377). -/
def applyRepair (origin : Nat) (s : State) (e : Nat) : State :=
  let u : UnitId := BitVec.ofNat 32 (bf e 88 32)
  let slot := bf e 72 16
  let cause : Byte := BitVec.ofNat 8 (bf e 64 8)
  let wh := bf e 0 64
  let sub := bf wh 9 20
  let row := bf wh 0 9
  let rep (v : Nat) (s : State) : State :=
    if s.plan.repairs.length < 4096 then { s with plan := { s.plan with repairs := s.plan.repairs ++ [BitVec.ofNat 64 v] } } else s
  let spent (k : Nat) (s : State) : State :=
    { s with plan := { s.plan with spareRows := tset 0 s.plan.spareRows k (tget 0 s.plan.spareRows k + 1) } }
  let block := unitIndex u * 2 ^ 20 + bf wh 32 2 * 2 ^ 18 + bf wh 30 2 * 2 ^ 16 + bf wh 0 16
  let f := fptGet s u
  if !validUnit u && !(bf e 120 8 = 5 && u = 0) then s
  else match bf e 120 8 with
    | 1 => fptSet s u { f with slot := 0xFFFF, state := 2, origin := BitVec.ofNat 2 origin, cause := cause }
    | 2 => fptSet s u { f with slot := BitVec.ofNat 16 slot, state := 0, origin := BitVec.ofNat 2 origin }
    | 3 => rep (2 ^ 60 + unitIndex u * 2 ^ 55 + sub * 2 ^ 35 + row * 2 ^ 19) (spent (unitIndex u * 2 ^ 20 + sub) s)
    | 4 => rep (2 * 2 ^ 60 + unitIndex u * 2 ^ 55 + sub * 2 ^ 35)
        { s with plan := { s.plan with deadSubs := insNat (unitIndex u * 2 ^ 20 + sub) s.plan.deadSubs } }
    | 5 => rep (3 * 2 ^ 60 + u.toNat * 2 ^ 28 + bf wh 0 16 * 2 ^ 12) (spent (2 ^ 40 + u.toNat) s)
    | 6 => blkSet s block { blkGet s block with state := 3 }
    | 7 => if (blkGet s block).state = 0 && !s.fls.brought.contains block then blkSet s block { blkGet s block with state := 5 } else s
    | _ => s

/-- A repair record is applied (R351): each of its entries names a unit that exists; of an SRAM row, also the shared SRAM. -/
def repairNames (r : IdRec) : Bool :=
  (cutEvery 16 (r.body.length / 16) r.body).all fun b =>
    let e := ofLe b
    let u : UnitId := BitVec.ofNat 32 (bf e 88 32)
    validUnit u || (bf e 120 8 = 5 && u = 0)

/-- A repair record applied as one floor-plan change (R351). -/
def applyRepairs (s : State) (r : IdRec) : State :=
  let es := cutEvery 16 (r.body.length / 16) r.body
  bumpChange (es.foldl (fun s b => applyRepair (if r.auth = 0 then 0 else 1) s (ofLe b)) (bumpChange s))

/-- The composition record: node, reach slot, reach table, regions (R349, R377, R390). -/
def applyComposition (s : State) (r : IdRec) : State :=
  let n (off len : Nat) : Nat := ofLe ((r.body.drop off).take len)
  let reach := (List.range 32).foldl (fun t k => tset 0 t k (BitVec.ofNat 16 (n (16 + 2 * k) 2))) s.isf.map.reach
  let region (k : Nat) : DcRegion :=
    let a := 80 + 16 * k
    if n (a + 15) 1 % 2 = 1 then { base := n a 8, len := n (a + 8) 6, block := 2 ^ (n (a + 14) 1 % 64) } else { base := 0, len := 0, block := 0 }
  let isf := { s.isf with nodeValid := true, node := BitVec.ofNat 14 (n 0 2), nodeSlot := BitVec.ofNat 5 (n 2 1),
                          map := { s.isf.map with reach := reach } }
  (List.range 8).foldl (fun s k => regionSet s k (region k)) { s with isf := isf }

/-- The records read, verified and applied (R350, R352 steps 3 and 4); a stack out of service from the start loses no page. -/
def applyRecords (s : State) : State :=
  let v := validRecs s
  let top (l : List IdRec) : Nat := ((l.filter v.contains).map fun r => r.seq.toNat).foldl max 0
  let s := { s with sec := { s.sec with activeB := decide (top s.sec.halfA < top s.sec.halfB) } }
  let board := newestRec s 3
  let comp := newestRec s 4
  let reps := (validRecs s).filter fun r => r.kind = 2 && repairNames r
  let bytes (x : Option IdRec) : List Byte := match x with | some r => recBytes r | none => []
  let meas := tset (0 : BitVec 384) (tset 0 (tset 0 s.sec.meas 2 (digestOf (bytes (newestRec s 1)))) 4 (digestOf (bytes board ++ bytes comp)))
    5 (digestOf (reps.flatMap recBytes))
  let env := match board with | some r => ofLe (r.body.take 2) | none => 900
  let s := { s with sec := { s.sec with svnMin := svnMinimum s, meas := meas },
                    pwr := { s.pwr with env := BitVec.ofNat 11 env, grant := tset 0 s.pwr.grant 0 (BitVec.ofNat 11 env) } }
  let s := reps.foldl applyRepairs s
  let s := match comp with | some r => applyComposition s r | none => s
  { s with mem := { s.mem with lost := (List.range 32).foldl (fun m k => if stackIn s k then m else setF m k 1 1) s.mem.lost } }

/-- The ordering code and the nominal voltages that the factory record gives (R349, R377). -/
def applyFactory (s : State) : State :=
  match newestRec s 1 with
  | none => s
  | some r =>
    { s with plan := { s.plan with
        code := r.body.getD 0 0, profile := r.body.getD 2 0, nominalMv := (List.range 83).map fun i => ofLe ((r.body.drop (16 + 2 * i)).take 2) } }

/-- What start-up did to the floor plan: the changes of state and slot it made bear no bell (R339). -/
def atStartup (s t : State) : State :=
  t.plan.fpt.foldl (fun t x =>
    let u : UnitId := BitVec.ofNat 32 x.1
    let e := fptGet s u
    if x.2.state ≠ e.state || x.2.slot ≠ e.slot then fptSet t u { x.2 with changed := 0 } else t) t

/-- Start-up to the wait for an image (R352 steps 1 to 6). A keel unit that failed ends it without service (R355). -/
def bootDevice (s : State) (x : BootInput) : State :=
  let s := { s with pwr := { s.pwr with perst := false }, clk := { s.clk with locked := true, refPresent := true } }
  if !x.keelOk || (List.range 18).all fun p => x.coresFailed.any fun q => q.val = p then { s with phase := .stopped }
  else
    let serial := if x.pufOk then deviceSerial else 0
    let s := { s with sec := { s.sec with nopuf := !x.pufOk, boot := if x.pufOk then some bootSecrets else none,
                                          recKey := if x.pufOk then recordKey deviceSeed else [] },
                      plan := { s.plan with code := x.code, profile := if x.code = 0 then 0 else 3, serial := serial, nominalMv := x.nominalMv } }
    let s := readFloors (applyRecords (applyFactory s)) s.pwr.last
    let t := (x.coresFailed.filter fun q => (fptGet s (uid 3 q.val)).state ≠ 2).foldl (fun s q => declareFailed s (uid 3 q.val) 0) s
    { atStartup s t with phase := .waitImage }

/-- PERST_DEASSERT (R352). -/
def execPerstDeassert (x : BootInput) (s : State) : Res :=
  whenOk (s.phase = .inReset && s.pwr.perst && !s.pwr.pwrfail) (bootDevice s x) s

/-- Units that fail their self-test, handled as failures in service (R353). -/
def failTests (s : State) (us : List UnitId) : State :=
  atStartup s (us.foldl (fun s u => if (fptGet s u).state = 2 then s else declareFailed s u 0) s)

/-- A wave fits the envelope (R353). -/
def waveFits (s : State) (drawW waveW : Nat) : Bool := decide (drawW + waveW ≤ s.pwr.env.toNat)

/-- The units of a hub's power group: the hub, its near-memory units, its stacks with their controllers, channels and links. -/
def inHubGroup (h : Nat) (u : UnitId) : Bool :=
  let i := unitIndex u
  validUnit u &&
  (match unitKind u with
   | 6 | 8 | 17 => i = h
   | 7 => i / 16 = h
   | 9 | 16 => i / 4 = h
   | 10 => i / 136 = h
   | 11 => i / 68 = h
   | _ => false)

/-- HUB_POWER_WAVE (R352 step 8, R353): the groups in order; rows are zero and protected after it. -/
def execHubPowerWave (h : HubId) (drawW waveW : Nat) (failed : List UnitId) (s : State) : Res :=
  let t := failTests { s with pwr := { s.pwr with waves := setF s.pwr.waves h.val 1 1 } } failed
  let ready := (List.range 4).foldl (fun (r : W32) i => if stackIn t (h.val * 4 + i) then setF r (h.val * 4 + i) 1 1 else r) t.mem.ready
  let turn : Bool := !s.pwr.waves.toNat.testBit h.val && (List.range h.val).all s.pwr.waves.toNat.testBit
  whenOk (s.phase = .running && turn && waveFits s drawW waveW && failed.all (inHubGroup h.val))
    { t with mem := { t.mem with ready := ready } } s

/-- TILE_WAVE (R352 step 10, R353): 8 tiles; a cluster whose last wave has passed is no longer gated. -/
def execTileWave (w : Fin 18) (drawW waveW : Nat) (failed : List UnitId) (s : State) : Res :=
  let t := failTests { s with units := { s.units with tileUp := setF s.units.tileUp w.val 1 1 } } failed
  let up := (List.range 16).filter fun i => (clusterWaves i).contains w.val && (clusterWaves i).all t.units.tileUp.toNat.testBit
  let gated := up.foldl (fun g i => setF g i 1 0) t.units.gated
  let turn : Bool := !s.units.tileUp.toNat.testBit w.val && (List.range w.val).all s.units.tileUp.toNat.testBit
  whenOk (s.phase = .running && turn && waveFits s drawW waveW &&
      failed.all fun u => validUnit u && unitKind u = 1 && unitIndex u / 8 = w.val)
    { t with units := { t.units with gated := gated } } s

end Sys2Proof.Machine
end

