-- ==== Sys2Proof/Machine/Mailbox.lean ====
section
/-! DEFINITION. The mailboxes, their commands, the fabric manager's commands and the SMBus fallback (R292 to R294, R298, R304,
R345, R372 to R374, R391 to R393). -/
namespace Sys2Proof.Machine

/-! ## Mailboxes -/

def mbxKey : MbxPort → Nat
  | .ld n => n.val
  | .fm => 16

def mbxGet (s : State) (m : MbxPort) : Mbx := tget {} s.cxd.mbx (mbxKey m)
def mbxSet (s : State) (m : MbxPort) (x : Mbx) : State := { s with cxd := { s.cxd with mbx := tset {} s.cxd.mbx (mbxKey m) x } }

/-- A mailbox can be reached: logical device 0's over the link or the SMBus, another through a switch (R299, R304, R393). -/
def mbxOk (s : State) : MbxPort → Bool
  | .ld n => linkOn s && (n = 0 || (hostUp s && s.cxd.viaSwitch))
  | .fm => linkOn s && hostUp s && s.cxd.viaSwitch

/-- A command completes: its return code and output, the doorbell cleared, and vector 0 of the function (R391, R392). -/
def mbxDone (s : State) (m : MbxPort) (code : MbxCode) (reply : MbxData) : State :=
  let x := mbxGet s m
  let s := mbxSet s m { x with code := code, reply := reply, bytes := tset 0 x.bytes 4 (tget 0 x.bytes 4 &&& 0xFFFF_FFFE) }
  match m with
  | .ld n => raiseMsi s n.val 0
  | .fm => s

/-- A command that only answers. -/
def mbxAnswer (m : MbxPort) (code : MbxCode) (reply : MbxData) (s : State) : Res := whenOk (mbxOk s m) (mbxDone s m code reply) s

/-- A background command begins, with the result it will end with where that is decided already; BUSY while another runs. -/
def mbxBackground (s : State) (m : MbxPort) (cmd : BgCmd) (result : Option MbxCode) : State :=
  mbxDone (mbxSet s m { mbxGet s m with bg := some cmd, bgDone := result }) m .backgroundStarted .none

/-- A command of the background kind. -/
def backgroundCmd (m : MbxPort) (f : State → State) (s : State) : Res :=
  whenOk (mbxOk s m) (if (mbxGet s m).bg.isSome then mbxDone s m .busy .none else f s) s

/-- BACKGROUND_COMMAND_COMPLETE (R391, R392). -/
def execBackgroundCommandComplete (m : MbxPort) (s : State) : Res :=
  let x := mbxGet s m
  match x.bg, x.bgDone with
  | some c, some code => whenOk (mbxOk s m) (mbxDone (mbxSet s m { x with bg := none, bgDone := none, bgLast := some (c, code) }) m code .none) s
  | _, _ => .next s

/-! ## Generic, events, timestamp, logs (R304) -/

/-- IDENTIFY: vendor, part, serial number, payload size code (R389, R392). -/
def execIdentify (m : MbxPort) (s : State) : Res := mbxAnswer m .success (.numbers [0x1F3C, 0x7340, s.plan.serial.toNat, 16]) s

/-- Opcodes of the CXL specification. -/
def bgOpcode : BgCmd → Nat
  | .transferFw => 0x0201
  | .activateFw => 0x0202
  | .clearPoison => 0x4302

/-- BACKGROUND_OPERATION_STATUS: the command and the percentage done. -/
def execBackgroundOperationStatus (m : MbxPort) (s : State) : Res :=
  let x := mbxGet s m
  mbxAnswer m .success (.numbers (match x.bg with
    | some c => [bgOpcode c, if x.bgDone.isSome then 100 else 0]
    | none => [0, 100])) s

/-- GET_EVENT_RECORDS. -/
def execGetEventRecords (m : MbxPort) (s : State) : Res :=
  mbxAnswer m .success (.events (s.cxd.events.filter fun e => e.log = mbxKey m)) s

/-- CLEAR_EVENT_RECORDS: a handle that no record has is refused. -/
def execClearEventRecords (m : MbxPort) (x : ClearEvents) (s : State) : Res :=
  let mine (e : EventRec) : Bool := e.log = mbxKey m
  let named (e : EventRec) : Bool := match x with | .all => true | .handles hs => hs.contains e.handle
  let ok : Bool := match x with | .all => true | .handles hs => hs.all fun h => s.cxd.events.any fun e => mine e && e.handle = h
  let t := { s with cxd := { s.cxd with events := s.cxd.events.filter fun e => !(mine e && named e) } }
  whenOk (mbxOk s m) (if ok then mbxDone t m .success .none else mbxDone s m .invalidInput .none) s

/-- GET_INTERRUPT_POLICY. -/
def execGetInterruptPolicy (m : MbxPort) (s : State) : Res := mbxAnswer m .success (.numbers [(mbxGet s m).policy.toNat]) s

/-- SET_INTERRUPT_POLICY. -/
def execSetInterruptPolicy (m : MbxPort) (v : W32) (s : State) : Res :=
  whenOk (mbxOk s m) (mbxDone (mbxSet s m { mbxGet s m with policy := v }) m .success .none) s

/-- The time: the value set and the bell counts since then times the bell period, in ns. -/
def stampNow (s : State) : Nat := s.cxd.stamp.toNat + (s.clk.bell - s.cxd.stampBell).toNat * s.clk.div.toNat * 5 / 2

/-- GET_TIMESTAMP. -/
def execGetTimestamp (m : MbxPort) (s : State) : Res := mbxAnswer m .success (.numbers [stampNow s]) s

/-- SET_TIMESTAMP. -/
def execSetTimestamp (m : MbxPort) (v : Word) (s : State) : Res :=
  whenOk (mbxOk s m) (mbxDone { s with cxd := { s.cxd with stamp := v, stampBell := s.clk.bell } } m .success .none) s

/-- The command effects log's identifier in the CXL specification. -/
def celUuid : W128 := 0x0da9c0b5bf414b788f7996b1623b3f17

/-- The opcodes of the command sets of R304, at the CXL specification's numbers, and the vendor commands. -/
def mbxOpcodes : List Nat :=
  [0x0001, 0x0002, 0x0100, 0x0101, 0x0102, 0x0103, 0x0200, 0x0201, 0x0202, 0x0300, 0x0301, 0x0400, 0x0401, 0x4000, 0x4200,
   0x4300, 0x4301, 0x4302, 0x4800, 0x4801, 0x4802, 0x4803, 0xC000, 0xC001, 0xC002, 0xC003]

/-- Opcodes of the MLD component and dynamic-capacity management sets of the FM API (R304), at the CXL specification's numbers (log
entry 150). -/
def fmOpcode (n : Nat) : Bool := (decide (0x5400 ≤ n) && decide (n ≤ 0x5409)) || (decide (0x5600 ≤ n) && decide (n ≤ 0x5608))

/-- The dynamic-capacity regions as numbers. -/
def regionNums (s : State) : MbxData := .numbers (s.cxd.regions.flatMap fun r => [r.base, r.len, r.block])

/-- Bytes of capacity allocated to each logical device. -/
def ldBytes (s : State) : List Nat :=
  (List.range 16).map fun k =>
    ((s.cxd.extents.filter fun e => e.ld.val = k && e.state = .allocated).map fun e => e.len).foldl (· + ·) 0

/-- An extent as a range of addresses. -/
def rangeOfExtent (e : Extent) : DpaRange := { base := BitVec.ofNat 64 e.base, len := BitVec.ofNat 64 e.len }

/-- What the fabric manager's queries answer: the logical devices and their allocations, the device's capacity, its regions, the extents
of every logical device (R292, R293, R304; log entry 150). -/
def fmReply (s : State) (n : Nat) : MbxData :=
  if n = 0x5400 then .numbers [16]
  else if n = 0x5401 then .numbers (ldBytes s)
  else if n = 0x5600 then .numbers [16, s.cxd.regions.length]
  else if n = 0x5601 then regionNums s
  else if n = 0x5603 then .ranges ((s.cxd.extents.filter fun e => e.state = .allocated).map rangeOfExtent)
  else .none

/-- GET_SUPPORTED_LOGS: the command effects log and its size in bytes. -/
def execGetSupportedLogs (m : MbxPort) (s : State) : Res :=
  mbxAnswer m .success (.numbers [celUuid.toNat, 4 * mbxOpcodes.length]) s

/-- GET_LOG: entries of 4 bytes. -/
def execGetLog (m : MbxPort) (uuid : W128) (off len : W32) (s : State) : Res :=
  if uuid = celUuid && decide (off.toNat + len.toNat ≤ 4 * mbxOpcodes.length) then
    mbxAnswer m .success (.numbers ((mbxOpcodes.drop (off.toNat / 4)).take (len.toNat / 4))) s
  else mbxAnswer m .invalidInput .none s

/-- IDENTIFY_MEMORY_DEVICE: total, volatile and persistent static capacity are 0. -/
def execIdentifyMemoryDevice (m : MbxPort) (s : State) : Res := mbxAnswer m .success (.numbers [0, 0, 0]) s

/-- GET_HEALTH_INFO: the media status, 0 normal and 1 not ready (R355; log entry 132). -/
def execGetHealthInfo (m : MbxPort) (s : State) : Res := mbxAnswer m .success (.numbers [if mediaReady s then 0 else 1]) s

/-- MAILBOX_UNSUPPORTED_OPCODE: any opcode outside the sets; the fabric manager's are its own. -/
def execMailboxUnsupportedOpcode (m : MbxPort) (opcode : Half) (s : State) : Res :=
  let known := mbxOpcodes.contains opcode.toNat || (m = .fm && fmOpcode opcode.toNat)
  whenOk (mbxOk s m && !known) (mbxDone s m .unsupported .none) s

/-! ## Firmware (R372 to R374) -/

/-- GET_FW_INFO: one slot, whether its image runs, whether one is transferred. -/
def execGetFwInfo (m : MbxPort) (s : State) : Res :=
  mbxAnswer m .success (.numbers [1, boolNat s.sec.verified, boolNat s.sec.hostFwDone]) s

/-- The transferred bytes after a part of Transfer FW, and whether the transfer is complete; none where its offset is wrong. -/
def fwPart (s : State) : FwTransfer → Option (List Byte × Bool)
  | .full b => some (b, true)
  | .initiate b => some (b, false)
  | .continue_ off b => if off = s.sec.hostFw.length && !s.sec.hostFwDone then some (s.sec.hostFw ++ b, false) else none
  | .last off b => if off = s.sec.hostFw.length && !s.sec.hostFwDone then some (s.sec.hostFw ++ b, true) else none
  | .abort => some ([], false)

/-- TRANSFER_FW (R372, R374): BUSY while an image is verified. -/
def execTransferFw (m : MbxPort) (x : FwTransfer) (s : State) : Res :=
  backgroundCmd m (fun s =>
    if s.phase = .waitImage && s.sec.imageSrc ≠ 0 then mbxDone s m .busy .none
    else match fwPart s x with
      | none => mbxDone s m .invalidInput .none
      | some (b, d) =>
        mbxBackground { s with sec := { s.sec with hostFw := b, hostFwDone := d } } m .transferFw (some .success)) s

/-- ACTIVATE_FW (R373): the image goes to the boot ROM, which takes one only while it waits (log entry 49). -/
def execActivateFw (m : MbxPort) (slot : Byte) (s : State) : Res :=
  backgroundCmd m (fun s =>
    if slot ≠ 1 || !s.sec.hostFwDone || s.phase ≠ .waitImage then mbxDone s m .invalidInput .none
    else if s.sec.imageSrc ≠ 0 then mbxDone s m .busy .none
    else mbxBackground { s with sec := { s.sec with image := s.sec.hostFw, imageSrc := 1 } } m .activateFw none) s

/-! ## Poison (R298) -/

/-- A line of a logical device's allocated extents. -/
def ownLine (s : State) (m : MbxPort) (dpa : Nat) : Bool :=
  match m with
  | .ld n => s.cxd.extents.any fun e => e.ld = n && e.state = .allocated && extHolds e (dpa / 64 * 64) 64
  | .fm => false

/-- GET_POISON_LIST: the poisoned lines of the device's own memory in a range. -/
def execGetPoisonList (m : MbxPort) (dpa len : Word) (s : State) : Res :=
  let bad (i : Nat) : Bool :=
    let a := (dpa.toNat / 64 + i) * 64
    ownLine s m a && (match dpaLocal s a with
      | some x => linePoison s (x / 64)
      | none => s.isf.lstores.any fun w => w.poison && m = .ld w.ld && w.dpa.toNat / 64 = a / 64)
  let ls := ((List.range ((dpa.toNat + len.toNat + 63) / 64 - dpa.toNat / 64)).filter bad).map fun i =>
    ({ base := BitVec.ofNat 64 ((dpa.toNat / 64 + i) * 64), len := 64 } : DpaRange)
  mbxAnswer m .success (.ranges ls) s

/-- The logical device of a mailbox. -/
def mbxLd : MbxPort → LdId
  | .ld n => n
  | .fm => 0

/-- INJECT_POISON. -/
def execInjectPoison (m : MbxPort) (dpa : Word) (s : State) : Res :=
  let a := dpa.toNat / 64 * 64
  let t := match dpaLocal s a with
    | some x => injectLine s (x / 64)
    | none => let (b, u) := undefinedBytes s 64; landStore u (mbxLd m) a (b.map some) true
  whenOk (mbxOk s m) (if ownLine s m a then mbxDone t m .success .none else mbxDone s m .invalidPhysicalAddress .none) s

/-- One line written whole, its poison cleared. -/
def clearLine (m : MbxPort) (s : State) (a : Nat) (v : BitVec 512) : State :=
  match dpaLocal s a with
  | some x => memWrite s x (leBytes 64 v.toNat)
  | none => landStore s (mbxLd m) a ((leBytes 64 v.toNat).map some) false

/-- CLEAR_POISON: more than 1,024 lines in the background (R392). Lines that a host holds are recalled first (R296). -/
def execClearPoison (m : MbxPort) (dpa : Word) (data : List (BitVec 512)) (s : State) : Res :=
  let a := dpa.toNat / 64 * 64
  let big : Bool := decide (1024 < data.length)
  let ok := !data.isEmpty && (List.range data.length).all fun i => ownLine s m (a + 64 * i)
  let put (s : State) : State := (indexed data).foldl (fun s x => clearLine m s (a + 64 * x.1) x.2) s
  let run (s : State) : State := if big then mbxBackground (put s) m .clearPoison (some .success) else mbxDone (put s) m .success .none
  whenOk (mbxOk s m)
    (if big && (mbxGet s m).bg.isSome then mbxDone s m .busy .none
     else if ok then tryWork true (.clear m dpa data) [] run s else mbxDone s m .invalidPhysicalAddress .none) s

/-! ## Dynamic capacity (R292 to R294) -/

/-- GET_DYNAMIC_CAPACITY_CONFIGURATION: base, length and block size of each region. -/
def execGetDynamicCapacityConfiguration (m : MbxPort) (s : State) : Res :=
  mbxAnswer m .success (regionNums s) s

/-- GET_DYNAMIC_CAPACITY_EXTENT_LIST: the requester's allocated extents. -/
def execGetDynamicCapacityExtentList (m : MbxPort) (start count : W32) (s : State) : Res :=
  let l := s.cxd.extents.filter fun e => m = .ld e.ld && e.state = .allocated
  mbxAnswer m .success (.ranges (((l.drop start.toNat).take count.toNat).map rangeOfExtent)) s

/-- The extent of a logical device in a state that a range names exactly. -/
def extentNamed (s : State) (m : MbxPort) (st : ExtState) (x : DpaRange) : Option Extent :=
  s.cxd.extents.find? fun e => m = .ld e.ld && e.state = st && rangeOfExtent e = x

/-- ADD_DYNAMIC_CAPACITY_RESPONSE (R293): the offers named are accepted, the others withdrawn. -/
def execAddDynamicCapacityResponse (m : MbxPort) (xs : List DpaRange) (s : State) : Res :=
  let ok := xs.all fun x => (extentNamed s m .offered x).isSome
  let step (e : Extent) : Extent :=
    if m = .ld e.ld && e.state = .offered then { e with state := if xs.contains (rangeOfExtent e) then .allocated else .released }
    else e
  let t := { s with cxd := { s.cxd with extents := s.cxd.extents.map step } }
  whenOk (mbxOk s m) (if ok then mbxDone t m .success .none else mbxDone s m .invalidInput .none) s

/-- RELEASE_DYNAMIC_CAPACITY (R293, R294). -/
def execReleaseDynamicCapacity (m : MbxPort) (xs : List DpaRange) (s : State) : Res :=
  let ok := xs.all fun x => (extentNamed s m .allocated x).isSome
  let t := xs.foldl (fun s x => match extentNamed s m .allocated x with | some e => revokeExtent s e | none => s) s
  whenOk (mbxOk s m) (if ok then mbxDone t m .success .none else mbxDone s m .invalidInput .none) s

/-- A range that the fabric manager may add (R292): whole blocks of its region, free of other extents. -/
def addOk (s : State) (ld : LdId) (region : Fin 8) (b n : Nat) : Bool :=
  match s.cxd.regions[region.val]? with
  | none => false
  | some r =>
    r.block ≠ 0 && n ≠ 0 && decide (r.base ≤ b) && decide (b + n ≤ r.base + r.len) && (b - r.base) % r.block = 0 && n % r.block = 0 &&
    !s.cxd.extents.any (fun e => e.state ≠ .released && extMeets e b n) &&
    decide ((s.cxd.extents.countP fun e => e.ld = ld && e.state ≠ .released) < 512)

/-- FM_ADD_CAPACITY (R293): OFFERED, with an event for the host. -/
def execFmAddCapacity (ld : LdId) (region : Fin 8) (x : DpaRange) (s : State) : Res :=
  let b := x.base.toNat
  let n := x.len.toNat
  let e : Extent := { base := b, len := n, ld := ld, state := .offered }
  let t := { s with cxd := { s.cxd with extents := (s.cxd.extents.filter fun y => !extMeets y b n) ++ [e] } }
  whenOk (mbxOk s .fm)
    (if addOk s ld region b n then mbxDone (logEvent t ld.val Ev.offered St.complete b) .fm .success .none
     else mbxDone s .fm .invalidInput .none) s

/-- FM_RELEASE_CAPACITY (R293): an offer is withdrawn, an allocated extent revoked, or the host is asked. -/
def execFmReleaseCapacity (ld : LdId) (x : DpaRange) (forced : Bool) (s : State) : Res :=
  let t := match extentNamed s (.ld ld) .offered x, extentNamed s (.ld ld) .allocated x with
    | some e, _ => mbxDone (extTo s e .released) .fm .success .none
    | none, some e =>
      mbxDone (if forced then revokeExtent s e else logEvent s ld.val Ev.releaseAsked St.complete e.base) .fm .success .none
    | none, none => mbxDone s .fm .invalidInput .none
  whenOk (mbxOk s .fm) t s

/-- A command of the fabric manager to the device (R292, R299, R304): bind enables, unbind disables; the information is the number of logical devices; a region is
set while no extent of the device is offered, allocated or revoking (log entry 134); of the other commands of the two sets the queries
answer with what the device holds, the rest complete without an effect on what the spec gives the device (log entry 150). -/
def fmMldCommand (x : MldCommand) (s : State) : Res :=
  let t := match x with
    | .bind ld => mbxDone (enableLd s ld) .fm .success .none
    | .unbind ld => mbxDone (beginDisable s ld) .fm .success .none
    | .info => mbxDone s .fm .success (.numbers [16])
    | .setRegion k base len block =>
      let r : DcRegion := { base := base.toNat, len := len.toNat, block := block.toNat }
      if regionOk r && s.cxd.extents.all fun e => e.state = .released then mbxDone (regionSet s k.val r) .fm .success .none
      else mbxDone s .fm .invalidInput .none
    | .other n => if fmOpcode n.toNat then mbxDone s .fm .success (fmReply s n.toNat) else mbxDone s .fm .unsupported .none
  whenOk (mbxOk s .fm) t s

/-! ## Vendor commands (R304) -/

/-- READ_FLOOR_PLAN_TABLE: the change count, then the entries. -/
def execReadFloorPlanTable (m : MbxPort) (s : State) : Res :=
  mbxAnswer m .success (.wide (BitVec.ofNat 256 s.plan.change.toNat :: allUnits.map fun u => BitVec.ofNat 256 (fptNum s u))) s

/-- A fault record as its 256 bits (R345). -/
def faultNum (r : FaultRec) : Nat :=
  r.seq.toNat * 2 ^ 192 + r.bell.toNat * 2 ^ 144 + r.kind.toNat * 2 ^ 136 + r.sev.toNat * 2 ^ 133 + r.part.toNat * 2 ^ 128 +
  r.unit.toNat * 2 ^ 96 + r.a.toNat * 2 ^ 64 + r.b.toNat

/-- READ_FAULT_RECORDS (R345). -/
def execReadFaultRecords (m : MbxPort) (since : Word) (s : State) : Res :=
  let l := (s.ras.history.filter fun r => decide (since.toNat ≤ r.seq.toNat)).reverse
  mbxAnswer m .success (.wide (l.map fun r => BitVec.ofNat 256 (faultNum r))) s

/-- READ_TELEMETRY (R304, R364). -/
def execReadTelemetry (m : MbxPort) (items : List Byte) (s : State) : Res :=
  mbxAnswer m .success (.numbers (items.map fun i => (telemetry s i.toNat).toNat)) s

/-- SET_RECALL_BOUND (R297, R304): the fabric manager, or logical device 0 without a switch. -/
def execSetRecallBound (m : MbxPort) (v : W32) (s : State) : Res :=
  let may := m = .fm || (m = .ld 0 && !s.cxd.viaSwitch)
  let ok : Bool := decide (100 ≤ v.toNat) && decide (v.toNat ≤ 100000)
  let t := { s with cxd := { s.cxd with biUs := v.setWidth 20 } }
  whenOk (mbxOk s m)
    (if !may then mbxDone s m .unsupported .none else if ok then mbxDone t m .success .none else mbxDone s m .invalidInput .none) s

/-! ## SMBus (R393) -/

/-- The SMBus answers: only while the link is down; a wrong PEC is acknowledged and ignored. -/
def smbusOk (s : State) (pecOk : Bool) : Bool := linkOn s && !s.cxd.up && pecOk

/-- An offset of the MBX block that a 4-byte access may have. -/
def mbxOffset (off : W32) : Bool := decide (off.toNat < 0x2_0000) && off.toNat % 4 = 0

/-- The number of a return code in the CXL specification. -/
def mbxCodeNum : MbxCode → Nat
  | .success => 0
  | .backgroundStarted => 1
  | .invalidInput => 2
  | .unsupported => 3
  | .busy => 6
  | .invalidPhysicalAddress => 0xF
  | .aborted => 0x12
  | .invalidSecurityState => 0x13

/-- A 4-byte word of a function's mailbox block (R392): its capabilities, payload size code 16 with both interrupts on vector 0; the
mailbox status and the background command status; elsewhere what was written. PRESUMED (log entry 132): the places of their fields. -/
def mbxWord (s : State) (ld : LdId) (off : Nat) : W32 :=
  let x := mbxGet s (.ld ld)
  if off = 0 then 0x70
  else if off = 0x10 then BitVec.ofNat 32 (boolNat x.bg.isSome)
  else if off = 0x14 then BitVec.ofNat 32 (mbxCodeNum x.code)
  else if off = 0x18 then
    (match x.bg, x.bgLast with
     | some c, _ => BitVec.ofNat 32 (bgOpcode c + if x.bgDone.isSome then 100 * 2 ^ 16 else 0)
     | none, some (c, _) => BitVec.ofNat 32 (bgOpcode c + 100 * 2 ^ 16)
     | none, none => 0)
  else if off = 0x1C then (match x.bg, x.bgLast with | none, some (_, k) => BitVec.ofNat 32 (mbxCodeNum k) | _, _ => 0)
  else if 0x1_0020 ≤ off then 0
  else tget 0 x.bytes off

/-- SMBUS_WRITE. -/
def execSmbusWrite (off data : W32) (pecOk : Bool) (s : State) : Res :=
  let x := mbxGet s (.ld 0)
  whenOk (smbusOk s pecOk && mbxOffset off) 
    (if off.toNat < 0x1_0020 then mbxSet s (.ld 0) { x with bytes := tset 0 x.bytes off.toNat data } else s) s

/-- SMBUS_SET_OFFSET. -/
def execSmbusSetOffset (off : W32) (pecOk : Bool) (s : State) : Res :=
  whenOk (smbusOk s pecOk) { s with cxd := { s.cxd with smbOff := off } } s

/-- SMBUS_READ. -/
def execSmbusRead (pecOk : Bool) (s : State) : Res :=
  let off := s.cxd.smbOff
  let v := if mbxOffset off then mbxWord s 0 off.toNat else 0
  whenOk (smbusOk s pecOk) { s with cxd := { s.cxd with smbOut := v, smbOff := off + 4 } } s

end Sys2Proof.Machine
end

