-- ==== Sys2Proof/Machine/Regs.lean ====
section
/-! DEFINITION. The register window (R7, R25, R386, R387, R389, R390): every register of the block map as a 64-bit word of its
block, its reads, its writes, and which agent reaches it. A block is its offset divided by 256 KiB. -/
namespace Sys2Proof.Machine

/-! ## Reads -/

/-- GEN (R389). -/
def readGen (s : State) (x : Nat) : Nat :=
  if x = 0 then 0x1F3C_7340_A100_0000 + s.plan.code.toNat * 2 ^ 16 + s.plan.profile.toNat * 2 ^ 8
  else if x = 8 then s.plan.serial.toNat
  else if x = 0x10 then bitAt 31 s.isf.nodeValid + s.isf.nodeSlot.toNat * 2 ^ 16 + s.isf.node.toNat
  else 0

/-- CLK (R39, R42, R46, R48). -/
def readClk (s : State) (x : Nat) : Nat :=
  let k := s.clk
  let pace (i : Nat) : Nat := if i < 83 then (paceOf s i).toNat else 0
  if x = 0 then k.gapUs.toNat * 2 ^ 16 + bitAt 2 k.lost + bitAt 1 k.locked + bitAt 0 k.refPresent
  else if x = 0x100 then bitAt 31 k.run + k.div.toNat
  else if x = 0x108 then k.bell.toNat
  else if 0x200 ≤ x && x < 0x350 then pace ((x - 0x200) / 4) + pace ((x - 0x200) / 4 + 1) * 2 ^ 32
  else if x = 0x400 then
    bitAt 31 k.fmcRun + k.fmcMeas.toNat * 2 ^ 20 + k.fmcBase.toNat * 2 ^ 16 + k.fmcSel.toNat * 2 ^ 8 + k.fmcK.toNat
  else if x = 0x408 then bitAt 63 k.fmcDone + k.fmcStatus.toNat * 2 ^ 32 + k.fmcCount.toNat
  else 0

/-- PWR (R359, R362 to R366). -/
def readPwr (s : State) (x : Nat) : Nat :=
  let w := s.pwr
  let busy (f : ResetScope → Bool) : Bool := w.resets.any f
  if x = 0 then w.env.toNat
  else if x = 0x10 || x = 0x18 then grantOfPart s ((x - 0x10) / 8)
  else if x = 0x100 then
    bitAt 4 w.trip + bitAt 3 w.tthrot + bitAt 2 w.pthrot + bitAt 1 w.limit +
    bitAt 0 (w.limiter ≠ 0 || w.partHeld.any fun x => x.2 ≠ 0)
  else if x = 0x108 then w.tthr.toNat
  else if x = 0x200 then
    bitAt 2 (busy fun r => match r with | .partition _ => false | _ => true) +
    bitAt 1 (busy fun r => r = .partition 1) + bitAt 0 (busy fun r => r = .partition 0)
  else if 0x1000 ≤ x && x < 0x1000 + 8 * 83 then
    let i := (x - 0x1000) / 8
    (tget 0 w.floor i).toNat * 2 ^ 16 + (tget 0 w.volt i).toNat
  else 0

/-- FPT (R32, R339). -/
def readFpt (s : State) (x : Nat) : Nat :=
  if x = 0 then s.plan.change.toNat
  else if x = 8 then allUnits.length
  else if x = 0x10 then s.plan.repairs.length
  else if 0x1000 ≤ x && x < 0x1000 + 16 * 2305 then
    match allUnits[(x - 0x1000) / 16]? with
    | some u => bf (fptNum s u) ((x - 0x1000) % 16 * 8) 64
    | none => 0
  else if 0x1_0000 ≤ x && x < 0x1_0000 + 8 * 4096 then (s.plan.repairs.getD ((x - 0x1_0000) / 8) 0).toNat
  else 0

/-- LDG (R113, R130, R394). -/
def readLdg (s : State) (x : Nat) : Nat :=
  if x = 0 then boolNat s.ldg.mode
  else if x = 0x100 || x = 0x108 then (tget 0 s.ldg.classBase ((x - 0x100) / 8)).toNat * 2 ^ 11
  else if x = 0x200 then s.ldg.spill.toNat * 2 ^ 28
  else if 0x1000 ≤ x && x < 0x1400 then
    let r := ringGet s ((x - 0x1000) / 0x40)
    match x % 0x40 with
    | 0 => r.base.toNat * 2 ^ 12 + r.depth.toNat * 2 ^ 8 + bitAt 4 r.irq + bitAt 3 r.host + r.part.val * 2 + boolNat r.en
    | 8 => r.head.toNat * 2 ^ 16 + r.tail.toNat
    | 0x10 => bitAt 2 r.ovf + bitAt 1 r.rdfail + bitAt 0 (ringBusy s ((x - 0x1000) / 0x40))
    | _ => 0
  else 0

/-- WLK (R161, R167, R177, R179, R180). -/
def readWlk (s : State) (x : Nat) : Nat :=
  let p := (x - 0x400) / 0x40
  if 0x400 ≤ x && x < 0x480 then
    match x % 0x40 with
    | 0 => (tget 0 s.wlk.period p).toNat * 2 ^ 32 + (tget 0x10 s.wlk.ageMin p).toNat * 2 ^ 8 + (tget 0 s.wlk.kshare p).toNat
    | 8 => (tget 0 s.wlk.high p).toNat * 2 ^ 32 + (tget 0 s.wlk.low p).toNat
    | 0x10 => poolFree s (Fin.ofNat 2 p)
    | 0x18 => (tget 0 s.wlk.poolBase p).toNat * 2 ^ 22 + (tget 0 s.wlk.kcount p).toNat
    | 0x20 => (tget 0 s.wlk.shardBase p).toNat * 2 ^ 22 + (tget 0 s.wlk.shardS p).toNat
    | _ => 0
  else 0

/-- NMC (R190, R213, R214). -/
def readNmc (s : State) (x : Nat) : Nat :=
  if x < 0x200 then (tget 0 s.mem.rowmap (x / 8)).toNat
  else if x = 0x400 then s.mem.scrubHours.toNat
  else if x = 0x440 || x = 0x480 then
    let p := (x - 0x440) / 0x40
    (tget 0x3C s.mem.oscrubMin p).toNat * 2 ^ 8 + (tget 0 s.mem.oscrubShare p).toNat
  else 0

/-- A launched operation that has not ended. -/
def opOn (o : Op) : Bool := o.phase = .launched || o.phase = .committed

/-- TIL_STAT: bit n, slot n of the cluster runs a tile job. -/
def readTil (s : State) (x : Nat) : Nat :=
  if x < 0x80 then
    ((List.range 8).map fun n => bitAt n (s.ops.any fun o =>
      opOn o && o.cls = 7 && o.op = 0 && (tjNamed o).contains (x / 8 * 8 + n))).foldl (· + ·) 0
  else 0

/-- FRY_STAT. The spec does not say which ferry of its partition runs a manifest: the count is a free value, at most 128 and
at most the manifests in flight on the partition's ferries (log entry 50). -/
def readFry (s : State) (x : Nat) : Nat :=
  let k := x / 8
  if x < 0x100 then
    let n := s.ops.countP fun o => (opOn o || o.phase = .ended) && o.engine = 0x01 && holdsFerry s o.part k
    (Config.freeWord s.free).toNat % (min n 128 + 1)
  else 0

/-- TLY (R73, R396). -/
def readTly (s : State) (x : Nat) : Nat :=
  if x < 0x8000 then (tally s (x / 8)).toNat
  else if 0x1_8000 ≤ x && x < 0x1_C000 then
    let i := (x - 0x1_8000) / 16
    let a := tget {} s.arms i
    if 60 ≤ i % 64 then 0
    else if x % 16 = 8 then a.value.toNat
    else bitAt 63 a.armed + bitAt 62 a.fired + a.tally.toNat
  else 0

/-- ISF (R251, R253, R261, R263). -/
def readIsf (s : State) (x : Nat) : Nat :=
  let f := s.isf
  if x = 0x100 then f.mapBase.toNat * 2 ^ 6
  else if x = 0x108 then f.result.toNat * 2 ^ 56 + f.map.edition.toNat
  else if x = 0x110 then f.map.prev.toNat
  else if x = 0x200 then f.deadUs.toNat
  else if x = 0x208 then f.drop.toNat
  else if x = 0x300 then
    (if f.memb.mode then f.memb.members else f.memb.live).toNat * 2 ^ 32 + bitAt 29 f.memb.mode + f.memb.period.toNat
  else if x = 0x400 then f.lblocks.toNat
  else 0

/-- QPE (R269, R270, R278 to R280, R285). -/
def readQpe (s : State) (x : Nat) : Nat :=
  let q := s.qpe
  let i := x % 0x200 / 8
  if x = 0 then q.base.toNat * 2 ^ 6 + bitAt 5 q.host
  else if x = 0x100 then q.wroom.toNat
  else if x = 0x110 then q.rnrHint.toNat
  else if x = 0x118 then q.odpLimit.toNat
  else if x = 0x120 then q.regBase.toNat * 2 ^ 12
  else if x = 0x128 then q.authfail.toNat
  else if x = 0x200 || x = 0x240 then (tget 0 q.prqBase ((x - 0x200) / 0x40)).toNat * 2 ^ 6
  else if x = 0x208 || x = 0x248 then
    let p := (x - 0x208) / 0x40
    (tget 4 q.prqDepth p).toNat * 2 ^ 32 + (tget 0 q.prqTail p).toNat * 2 ^ 16 + (tget 0 q.prqHead p).toNat
  else if 0x1000 ≤ x && x < 0x1200 then
    (tget 0 q.shapeRate i).toNat * 2 ^ 40 + (tget 0x2000 q.shapeBurst i).toNat * 2 ^ 16 + (tget 0 q.shapeOvh i).toNat * 2 ^ 4
  else if 0x1200 ≤ x && x < 0x1400 then
    (tget 0 q.polRate i).toNat * 2 ^ 40 + (tget 0x2000 q.polBurst i).toNat * 2 ^ 16 + (tget 0 q.polOvh i).toNat * 2 ^ 4
  else if 0x1400 ≤ x && x < 0x1600 then (tget 0 q.pdrop i).toNat
  else 0

/-- CXD (R286, R295, R297, R299). -/
def readCxd (s : State) (x : Nat) : Nat :=
  let c := s.cxd
  if x = 0 then c.width.toNat * 2 ^ 8 + c.rate.toNat * 2 ^ 6 + bitAt 5 c.flit256 + bitAt 4 c.memok + bitAt 0 c.up
  else if x = 0x100 then c.biUs.toNat
  else if x = 0x108 then c.dirBase.toNat * 2 ^ 6 + c.dirN.toNat
  else if 0x200 ≤ x && x < 0x400 && x % 0x20 = 0 then
    let l := ldGet s ((x - 0x200) / 0x20)
    l.tbase.toNat * 2 ^ 52 + l.tcount.toNat * 2 ^ 39 + l.state.toNat * 2 ^ 2
  else 0

/-- FLS (R309, R311, R322, R326). -/
def readFls (s : State) (x : Nat) : Nat :=
  let f := s.fls
  if x < 0x100 && x % 0x10 = 0 then
    let c := chGet s (x / 0x10)
    bitAt 39 c.failed + c.taps.toNat * 2 ^ 32 + c.n.toNat * 2 ^ 20 + c.iface.toNat * 2 ^ 18 + c.tcode.toNat * 2 ^ 13 +
    c.lcode.toNat * 2 ^ 11 + c.pcode.toNat * 2 ^ 9 + bitAt 0 c.en
  else if x = 0x200 then f.mapBase.toNat * 2 ^ 12
  else if x = 0x208 then f.mapCount.toNat
  else if x = 0x210 then
    f.wi.toNat * 2 ^ 56 + f.wa.toNat * 2 ^ 48 + f.ww.toNat * 2 ^ 40 + f.gshare.toNat * 2 ^ 34 + f.ashift.toNat * 2 ^ 26 +
    f.gcHigh.toNat * 2 ^ 12 + f.gcLow.toNat
  else if x = 0x218 then f.mapSplit.toNat
  else if x = 0x220 then f.stage.toNat * 2 ^ 22 + f.wmax.toNat
  else if x = 0x228 then bitAt 32 f.pfClean + f.pfTflush.toNat * 2 ^ 16 + bitAt 0 f.pfReady
  else 0

/-- SEC (R368, R371, R372, R383): SEC_RNG apart. -/
def readSec (s : State) (x : Nat) : Nat :=
  let c := s.sec
  if x = 0 then
    c.fwsrc.toNat * 2 ^ 6 + bitAt 5 c.nopuf + bitAt 4 c.rngfail + bitAt 3 c.bootfail + bitAt 0 c.verified
  else if x = 0x10 then c.keysrc.toNat * 2 ^ 6
  else if x = 0x18 then bitAt 31 c.keyBusy.isSome + c.keyResult.toNat * 2 ^ 16 + c.keySlot.toNat * 2 ^ 8
  else if x = 0x28 then c.svnMin.toNat * 2 ^ 32 + c.svn.toNat
  else 0

/-- The record at a place of the fault history (R345). -/
def historyAt (s : State) (k : Nat) : Nat :=
  match s.ras.history.find? fun r => r.seq.toNat % 1024 = k with
  | some r => faultNum r
  | none => 0

/-- RAS (R335, R345, R346). -/
def readRas (s : State) (x : Nat) : Nat :=
  let r := s.ras
  if x = 0 then r.seq.toNat
  else if x = 0x20 then r.hold.toNat * 2 ^ 16 + bitAt 1 r.retry + bitAt 0 r.auto
  else if x = 0x28 then r.window.toNat * 2 ^ 16 + r.thresh.toNat
  else if x = 0x40 || x = 0x80 then
    let p := (x - 0x40) / 0x40
    bitAt 8 (tget true r.repairEn p) + (tget 0 r.repairShare p).toNat
  else if 0x8000 ≤ x && x < 0x1_0000 then bf (historyAt s ((x - 0x8000) / 32)) (x % 32 * 8) 64
  else 0

/-! ### The mailbox and the MSI-X structures of a function (R391, R392) -/

abbrev mbxLow : Nat := 0x11_0000
abbrev msixLow : Nat := 0x20_0000
abbrev pbaAt : Nat := 0x20_1000

/-- The masked and the pending vectors of a function. -/
def maskedOf (s : State) (ld : Nat) : Word := tget 0xFFFF_FFFF_FFFF_FFFF s.cxd.msixMasked ld
def pendingOf (s : State) (ld : Nat) : Word := tget 0 s.cxd.msixPending ld

/-- A word of the mailbox, of the MSI-X table (its entries: address, then data and vector control) or of the pending bits. -/
def readFn (s : State) (ld : LdId) (off : Nat) : Nat :=
  if off < 0x1_0000 then compReg s ld.val off + compReg s ld.val (off + 4) * 2 ^ 32
  else if 0x10_0000 ≤ off && off < 0x10_1000 then deviceReg s ld.val (off - 0x10_0000)
  else if mbxLow ≤ off && off < mbxLow + 0x2_0000 then
    (mbxWord s ld (off - mbxLow)).toNat + (mbxWord s ld (off - mbxLow + 4)).toNat * 2 ^ 32
  else if msixLow ≤ off && off < msixLow + 0x400 then
    let v := (off - msixLow) / 16
    let w := (tget 0 s.cxd.msixTable (ld * 128 + (off - msixLow) / 8)).toNat
    if off % 16 = 0 then w else w % 2 ^ 32 + bitAt 32 ((maskedOf s ld).toNat.testBit v)
  else if off = pbaAt then (pendingOf s ld).toNat
  else 0

/-- The 64-bit word of a block: block number, offset in it. -/
def blockWord (s : State) (b x : Nat) : Nat :=
  match b with
  | 16 => readGen s x | 17 => readClk s x | 18 => readPwr s x | 19 => readFpt s x | 20 => readLdg s x | 21 => readWlk s x
  | 22 => readNmc s x | 23 => readTil s x | 24 => readFry s x | 25 => readTly s x | 26 => readIsf s x | 27 => readQpe s x
  | 28 => readCxd s x | 29 => readFls s x | 30 => readSec s x | 31 => readRas s x | _ => 0

/-- The word at an 8-byte aligned offset of the window, as logical device ld's function sees it (R386). -/
def regWord (s : State) (ld : LdId) (off : Nat) : Nat :=
  if off < 0x40_0000 then readFn s ld off else blockWord s (off / 2 ^ 18) (off % 2 ^ 18)

/-! ## Writes -/

/-- A value if it is permitted, else the one before (R7). -/
def keepUnless {α : Type} (ok : Bool) (new old : α) : α := if ok then new else old

/-- GEN_NODE (R390): once. -/
def writeNode (s : State) (v : Nat) : State :=
  if s.isf.nodeValid then s
  else { s with isf := { s.isf with nodeValid := v.testBit 31, nodeSlot := BitVec.ofNat 5 (bf v 16 5), node := BitVec.ofNat 14 v } }

def writeClk (s : State) (x v : Nat) : State :=
  if x = 0 then { s with clk := { s.clk with lost := s.clk.lost && !v.testBit 2 } }
  else if x = 0x100 then writeBellCtl s v
  else if x = 0x400 then writeFmcCtl s v
  else s

/-- PWR (R363, R366). -/
def writePwr (s : State) (x v : Nat) : State :=
  let w := s.pwr
  if x = 0x10 || x = 0x18 then
    let p := (x - 0x10) / 8
    if v % 2 ^ 11 + grantOfPart s (1 - p) ≤ w.env.toNat then setGrant s p (v % 2 ^ 11) else s
  else if x = 0x100 then
    { s with pwr := { w with trip := w.trip && !v.testBit 4, tthrot := w.tthrot && !v.testBit 3,
                             pthrot := w.pthrot && !v.testBit 2, limit := w.limit && !v.testBit 1 } }
  else if x = 0x108 then
    { s with pwr := { w with tthr := keepUnless (85 ≤ v % 256 && v % 256 ≤ 105) (BitVec.ofNat 8 v) w.tthr } }
  else s

/-- LDG (R113, R130, R394): part of a ring only by steward code. -/
def writeLdg (s : State) (steward : Bool) (x v : Nat) : State :=
  if x = 0 then
    if s.ldg.entries.isEmpty && s.ldg.spilled.isEmpty then { s with ldg := { s.ldg with mode := v.testBit 0 } } else s
  else if x = 0x100 || x = 0x108 then
    { s with ldg := { s.ldg with classBase := tset 0 s.ldg.classBase ((x - 0x100) / 8) (BitVec.ofNat 53 (v / 2 ^ 11)) } }
  else if x = 0x200 then
    if s.ldg.mode then s else { s with ldg := { s.ldg with spill := BitVec.ofNat 36 (v / 2 ^ 28) } }
  else if 0x1000 ≤ x && x < 0x1400 then
    let ld := (x - 0x1000) / 0x40
    let r := ringGet s ld
    match x % 0x40 with
    | 0 =>
      let d := bf v 8 4
      let r' : Ring := if r.en then r else
        { r with base := BitVec.ofNat 52 (v / 2 ^ 12), depth := keepUnless (4 ≤ d && d ≤ 12) (BitVec.ofNat 4 d) r.depth,
                 host := v.testBit 3 }
      ringSet s ld { r' with irq := v.testBit 4, en := v.testBit 0,
                             part := if steward then (if v.testBit 1 then 1 else 0) else r.part }
    | 8 =>
      let t : Half := BitVec.ofNat 16 v
      if (t - r.head).toNat ≤ 2 ^ r.depth.toNat then ringSet s ld { r with tail := t } else ringSet s ld { r with ovf := true }
    | 0x10 => ringSet s ld { r with ovf := r.ovf && !v.testBit 2, rdfail := r.rdfail && !v.testBit 1 }
    | _ => s
  else s

/-- WLK (R161, R167, R179, R180). -/
def writeWlk (s : State) (x v : Nat) : State :=
  let p := (x - 0x400) / 0x40
  let w := s.wlk
  if 0x400 ≤ x && x < 0x480 then
    match x % 0x40 with
    | 0 => { s with wlk := { w with period := tset 0 w.period p (BitVec.ofNat 32 (v / 2 ^ 32)),
                                    ageMin := tset 0x10 w.ageMin p (BitVec.ofNat 8 (v / 2 ^ 8)),
                                    kshare := tset 0 w.kshare p (BitVec.ofNat 8 v) } }
    | 8 => recross { s with wlk := { w with high := tset 0 w.high p (BitVec.ofNat 32 (v / 2 ^ 32)),
                                            low := tset 0 w.low p (BitVec.ofNat 32 v) } }
    | 0x18 => { s with wlk := { w with poolBase := tset 0 w.poolBase p (BitVec.ofNat 42 (v / 2 ^ 22)),
                                       kcount := tset 0 w.kcount p (BitVec.ofNat 14 v) } }
    | 0x20 =>
      let k := v % 32
      { s with wlk := { w with shardBase := tset 0 w.shardBase p (BitVec.ofNat 42 (v / 2 ^ 22)),
                               shardS := tset 0 w.shardS p (keepUnless (k = 0 || (16 ≤ k && k ≤ 25)) (BitVec.ofNat 5 k) (tget 0 w.shardS p)) } }
    | _ => s
  else s

/-- A half of a stack's row map (R190): until first use, each position by itself, code 3 keeping the code before. -/
def writeRowmap (s : State) (st : Nat) (hi : Bool) (v : Nat) : State :=
  if s.mem.frozen.toNat.testBit st || !unitIn s (uid 9 st) then s
  else
    let k := st * 2 + boolNat hi
    let old := tget 0 s.mem.rowmap k
    let new := (List.range 32).foldl (fun w p => if bf v (2 * p) 2 = 3 then w else setF w (2 * p) 2 (bf v (2 * p) 2)) old
    recross { s with mem := { s.mem with rowmap := tset 0 s.mem.rowmap k new } }

/-- NMC (R190, R213, R214). -/
def writeNmc (s : State) (x v : Nat) : State :=
  if x < 0x200 then writeRowmap s (x / 16) (x % 16 = 8) v
  else if x = 0x400 then { s with mem := { s.mem with scrubHours := BitVec.ofNat 16 v } }
  else if x = 0x440 || x = 0x480 then
    let p := (x - 0x440) / 0x40
    { s with mem := { s.mem with oscrubMin := tset 0x3C s.mem.oscrubMin p (BitVec.ofNat 16 (v / 2 ^ 8)),
                                 oscrubShare := tset 0 s.mem.oscrubShare p (BitVec.ofNat 8 v) } }
  else s

/-- The arm a key names has a message to send: it has fired, or is armed with a tally in its logical device's range at the value (R396). -/
def armReady (s : State) (i : Nat) : Bool :=
  let a := tget {} s.arms i
  let l := ldGet s (i / 64)
  a.due || (a.armed && decide (l.tbase.toNat ≤ a.tally.toNat) && decide (a.tally.toNat < l.tbase.toNat + l.tcount.toNat) &&
    decide (a.value.toNat ≤ (tally s a.tally.toNat).toNat))

/-- An arm fires: fired set, armed cleared, vector 4 + j raised (R391, R396). -/
def fireArm (s : State) (i : Nat) : State :=
  let a := tget {} s.arms i
  raiseMsi { s with arms := tset {} s.arms i { a with armed := false, due := false, fired := true } } (i / 64) (4 + i % 64)

/-- The arms of a logical device whose condition holds fire (R396). -/
def fireArms (s : State) (ld : Nat) : State :=
  (below 60 fun j => armReady s (ld * 64 + j)).foldl (fun s j => fireArm s (ld * 64 + j)) s

/-- A half of an arm written after its message still due, fired clearing by a one; an arm that holds already fires at once (R396). -/
def writeArm (s : State) (i : Nat) (hi : Bool) (v : Nat) : State :=
  let s := sendArm s i
  let a := tget {} s.arms i
  let a : Arm := if hi then { a with value := BitVec.ofNat 64 v }
    else { a with armed := v.testBit 63, fired := a.fired && !v.testBit 62, tally := BitVec.ofNat 12 v }
  let s := { s with arms := tset {} s.arms i a }
  if armReady s i then fireArm s i else s

/-- TLY (R73, R396). -/
def writeTly (s : State) (x v : Nat) : State :=
  if 0x8000 ≤ x && x < 0x1_0000 then tallyAdd s ((x - 0x8000) / 8) v
  else if 0x1_0000 ≤ x && x < 0x1_8000 then tallySet s ((x - 0x1_0000) / 8) (BitVec.ofNat 64 v)
  else if 0x1_8000 ≤ x && x < 0x1_C000 && (x - 0x1_8000) / 16 % 64 < 60 then writeArm s ((x - 0x1_8000) / 16) (x % 16 = 8) v
  else s

/-- ISF (R251, R253, R261, R263). The live set is written in mode 0 only. -/
def writeIsf (s : State) (x v : Nat) : State :=
  let f := s.isf
  if x = 0x100 then writeMapBase s (BitVec.ofNat 64 v)
  else if x = 0x200 then
    let b := v % 2 ^ 16
    { s with isf := { f with deadUs := keepUnless (64 ≤ b && b ≤ 64000) (BitVec.ofNat 16 b) f.deadUs } }
  else if x = 0x208 then { s with isf := { f with drop := f.drop &&& ~~~(BitVec.ofNat 64 v) } }
  else if x = 0x300 then
    let k := v % 2 ^ 16
    let m := f.memb
    { s with isf := { f with memb := { m with live := keepUnless (!m.mode) (BitVec.ofNat 32 (v / 2 ^ 32)) m.live,
                                              mode := v.testBit 29,
                                              period := keepUnless (10 ≤ k && k ≤ 10000) (BitVec.ofNat 16 k) m.period } } }
  else if x = 0x400 then writeLcache s (BitVec.ofNat 64 v)
  else s

/-- The sum of the eight shares of QPE_WROOM. -/
def wroomSum (v : Nat) : Nat := ((List.range 8).map fun c => bf v (8 * c) 8).foldl (· + ·) 0

/-- QPE (R269, R270, R278 to R280, R285). -/
def writeQpe (s : State) (x v : Nat) : State :=
  let q := s.qpe
  let i := x % 0x200 / 8
  if x = 0 then
    if q.ctxs.any fun c => c.2.state ≠ 0 then s else { s with qpe := { q with base := BitVec.ofNat 58 (v / 2 ^ 6), host := v.testBit 5 } }
  else if x = 0x100 then
    if wroomSum v ≤ 128 then { s with qpe := { q with wroom := BitVec.ofNat 64 v } } else s
  else if x = 0x110 then { s with qpe := { q with rnrHint := keepUnless (v % 256 ≠ 0) (BitVec.ofNat 8 v) q.rnrHint } }
  else if x = 0x118 then
    let k := v % 2 ^ 16
    { s with qpe := { q with odpLimit := keepUnless (10 ≤ k && k ≤ 10000) (BitVec.ofNat 16 k) q.odpLimit } }
  else if x = 0x120 then { s with qpe := { q with regBase := BitVec.ofNat 52 (v / 2 ^ 12), regionCache := [] } }
  else if x = 0x200 || x = 0x240 then
    { s with qpe := { q with prqBase := tset 0 q.prqBase ((x - 0x200) / 0x40) (BitVec.ofNat 58 (v / 2 ^ 6)) } }
  else if x = 0x208 || x = 0x248 then
    let p := (x - 0x208) / 0x40
    let d := bf v 32 4
    { s with qpe := { q with
      prqDepth := tset 4 q.prqDepth p (keepUnless (4 ≤ d && d ≤ 12) (BitVec.ofNat 4 d) (tget 4 q.prqDepth p)),
      prqHead := tset 0 q.prqHead p (BitVec.ofNat 16 v) } }
  else if 0x1000 ≤ x && x < 0x1200 then writeShaper s i (BitVec.ofNat 64 v)
  else if 0x1200 ≤ x && x < 0x1400 then writePolicer s i (BitVec.ofNat 64 v)
  else if 0x1400 ≤ x && x < 0x1600 then
    { s with qpe := { q with pdrop := tset 0 q.pdrop i (tget 0 q.pdrop i &&& ~~~(BitVec.ofNat 64 v)) } }
  else s

/-- CXD (R295, R297, R299). -/
def writeCxd (s : State) (x v : Nat) : State :=
  let c := s.cxd
  if x = 0x100 then
    let t := v % 2 ^ 20
    { s with cxd := { c with biUs := keepUnless (100 ≤ t && t ≤ 100000) (BitVec.ofNat 20 t) c.biUs } }
  else if x = 0x108 then
    if (List.range 16).any fun n => memServed s (Fin.ofNat 16 n) then s
    else
      let n := v % 32
      { s with cxd := { c with dirBase := BitVec.ofNat 58 (v / 2 ^ 6),
                               dirN := keepUnless (n = 0 || (16 ≤ n && n ≤ 22)) (BitVec.ofNat 5 n) c.dirN } }
  else if 0x200 ≤ x && x < 0x400 && x % 0x20 = 0 then
    let n := (x - 0x200) / 0x20
    let tb := bf v 52 12
    let tc := bf v 39 13
    if 4096 < tc || 4096 < tb + tc then s
    else
      let s := fireArms (ldSet s n { ldGet s n with tbase := BitVec.ofNat 12 tb, tcount := BitVec.ofNat 13 tc }) n
      let s := if v.testBit 1 then beginDisable s (Fin.ofNat 16 n) else s
      if v.testBit 0 then enableLd s (Fin.ofNat 16 n) else s
  else s

/-- The granules that FLS_MAP_COUNT may not exceed: nine tenths of those in good blocks, less the spare ones (R311, R324). -/
def mapCountMax (s : State) : Nat :=
  let ts := below 128 (targetIn s)
  let all := (ts.map fun t => (planesOf s t).length * planeBlocks).foldl (· + ·) 0
  let bad := (ts.map fun t => (blocksOf s t).countP fun b => !goodBlock s b).foldl (· + ·) 0
  let off := bad + s.fls.blocks.countP fun b => ts.contains (b.1 / 2 ^ 20) && b.2.state = 5
  let due := ((ts.filter fun t => !s.fls.started.contains t).map fun t => spareCount ((planesOf s t).length * planeBlocks)).foldl (· + ·) 0
  (all - off - due) * blockPages * 9 / 10

/-- FLS (R309, R311, R322, R326). -/
def writeFls (s : State) (x v : Nat) : State :=
  let f := s.fls
  if x < 0x100 && x % 0x10 = 0 then
    let k := x / 0x10
    let c := chGet s k
    let n := bf v 20 4
    let c' : FlsCh := if c.en then c else
      { c with n := keepUnless (4 ≤ n && n ≤ 9) (BitVec.ofNat 4 n) c.n,
               iface := keepUnless (bf v 18 2 < 2) (BitVec.ofNat 2 (bf v 18 2)) c.iface,
               tcode := BitVec.ofNat 3 (bf v 13 3), lcode := BitVec.ofNat 2 (bf v 11 2),
               pcode := keepUnless (bf v 9 2 ≠ 3) (BitVec.ofNat 2 (bf v 9 2)) c.pcode }
    let t := chSet s k { c' with taps := BitVec.ofNat 7 (bf v 32 7), en := v.testBit 0 }
    if v.testBit 0 && !c.en then trainChannel t k else t
  else if x = 0x200 then { s with fls := { f with mapBase := BitVec.ofNat 52 (v / 2 ^ 12) } }
  else if x = 0x208 then
    if v % 2 ^ 48 ≤ mapCountMax s then { s with fls := { f with mapCount := BitVec.ofNat 48 v } } else s
  else if x = 0x210 then
    let g := bf v 34 6
    { s with fls := { f with wi := BitVec.ofNat 8 (v / 2 ^ 56), wa := BitVec.ofNat 8 (v / 2 ^ 48), ww := BitVec.ofNat 8 (v / 2 ^ 40),
                             gshare := keepUnless (1 ≤ g && g ≤ 16) (BitVec.ofNat 6 g) f.gshare,
                             ashift := BitVec.ofNat 6 (bf v 26 6), gcHigh := BitVec.ofNat 12 (v / 2 ^ 12),
                             gcLow := BitVec.ofNat 12 v } }
  else if x = 0x218 then { s with fls := { f with mapSplit := BitVec.ofNat 48 v } }
  else if x = 0x220 then
    if !f.wbuf.isEmpty then s
    else
      let w := v % 2 ^ 13
      let wmax : BitVec 13 := keepUnless (16 ≤ w && w ≤ 8191) (BitVec.ofNat 13 w) f.wmax
      let a := v / 2 ^ 22 * 2 ^ 22
      let fits := decide (a < 4 * 2 ^ 36) && bytesProtected s a ((5 + wmax.toNat) * 2 ^ 20)
      { s with fls := { f with stage := if fits then BitVec.ofNat 42 (v / 2 ^ 22) else 0, wmax := wmax } }
  else s

/-- SEC (R371, R374, R383). -/
def writeSec (s : State) (x v : Nat) : State :=
  let c := s.sec
  if x = 0 then { s with sec := { c with bootfail := c.bootfail && !v.testBit 3 } }
  else if x = 0x10 then { s with sec := { c with keysrc := BitVec.ofNat 58 (v / 2 ^ 6) } }
  else if x = 0x18 then writeKeyCtl s v
  else if x = 0x20 then writeMext s v
  else s

/-- RAS (R335, R346). -/
def writeRas (s : State) (x v : Nat) : State :=
  let r := s.ras
  if x = 0x20 then
    { s with ras := { r with hold := keepUnless (10 ≤ bf v 16 16) (BitVec.ofNat 16 (bf v 16 16)) r.hold,
                             retry := v.testBit 1, auto := v.testBit 0 } }
  else if x = 0x28 then
    { s with ras := { r with window := keepUnless (bf v 16 16 ≠ 0) (BitVec.ofNat 16 (bf v 16 16)) r.window,
                             thresh := keepUnless (v % 256 ≠ 0) (BitVec.ofNat 8 v) r.thresh } }
  else if x = 0x40 || x = 0x80 then
    let p := (x - 0x40) / 0x40
    { s with ras := { r with repairEn := tset true r.repairEn p (v.testBit 8),
                             repairShare := tset 0 r.repairShare p (BitVec.ofNat 8 v) } }
  else s

/-- The vectors of a function masked anew: those pending that are masked no more are sent (R391). -/
def setMasked (s : State) (ld : LdId) (m : Word) : State :=
  let go := below 64 fun v => (pendingOf s ld).toNat.testBit v && !m.toNat.testBit v
  let s := { s with cxd := { s.cxd with msixMasked := tset 0xFFFF_FFFF_FFFF_FFFF s.cxd.msixMasked ld m,
                                        msixPending := tset 0 s.cxd.msixPending ld (pendingOf s ld &&& m) } }
  go.foldl (fun s v => raiseMsi s ld v) s

/-- A word of the mailbox or the MSI-X table of a function written. -/
def writeFn (s : State) (ld : LdId) (off v : Nat) : State :=
  if off < 0x1_0000 then compWrite (compWrite s ld.val off v) ld.val (off + 4) (v / 2 ^ 32)
  else if mbxLow ≤ off && off < mbxLow + 0x1_0020 then
    let x := mbxGet s (.ld ld)
    let b := tset 0 (tset 0 x.bytes (off - mbxLow) (BitVec.ofNat 32 v)) (off - mbxLow + 4) (BitVec.ofNat 32 (v / 2 ^ 32))
    mbxSet s (.ld ld) { x with bytes := b }
  else if msixLow ≤ off && off < msixLow + 0x400 then
    let n := (off - msixLow) / 16
    let put (w : Nat) : State :=
      { s with cxd := { s.cxd with msixTable := tset 0 s.cxd.msixTable (ld * 128 + (off - msixLow) / 8) (BitVec.ofNat 64 w) } }
    if off % 16 = 0 then put v else setMasked (put (v % 2 ^ 32)) ld (setF (maskedOf s ld) n 1 (bf v 32 1))
  else s

/-- A word of a block written. -/
def writeBlock (s : State) (steward : Bool) (b x v : Nat) : State :=
  match b with
  | 16 => if x = 0x10 then writeNode s v else s
  | 17 => writeClk s x v | 18 => writePwr s x v | 20 => writeLdg s steward x v | 21 => writeWlk s x v | 22 => writeNmc s x v
  | 25 => writeTly s x v | 26 => writeIsf s x v | 27 => writeQpe s x v | 28 => writeCxd s x v | 29 => writeFls s x v
  | 30 => writeSec s x v | 31 => writeRas s x v | _ => s

/-! ## Who reaches a register (R25, R386, R387) -/

/-- TLY_VALUE, TLY_ADD and TLY_SET: of which tally. -/
def tallyReg (off : Nat) : Option Nat :=
  if 0x64_0000 ≤ off && off < 0x65_8000 then some ((off - 0x64_0000) % 0x8000 / 8) else none

/-- A host-ring register: of which logical device. -/
def ringReg (off : Nat) : Option Nat := if 0x50_1000 ≤ off && off < 0x50_1400 then some ((off - 0x50_1000) / 0x40) else none

/-- The partition that a register belongs to: none for a device-wide register, 2 for a tally in no quota. -/
def regPart (s : State) (off : Nat) : Option Nat :=
  let b := off / 2 ^ 18
  let x := off % 2 ^ 18
  match tallyReg off, ringReg off with
  | some i, _ => if holdsTally s 0 i then some 0 else if holdsTally s 1 i then some 1 else none
  | _, some ld => some (ringGet s ld).part.val
  | none, none =>
    if (b = 18 && (x = 0x10 || x = 0x18)) || (b = 20 && (x = 0x100 || x = 0x108)) then some (x / 8 % 2)
    else if b = 21 && 0x400 ≤ x && x < 0x480 then some ((x - 0x400) / 0x40)
    else if b = 22 && (x = 0x440 || x = 0x480) then some ((x - 0x440) / 0x40)
    else if b = 27 && 0x200 ≤ x && x < 0x280 then some ((x - 0x200) / 0x40)
    else if b = 31 && (x = 0x40 || x = 0x80) then some ((x - 0x40) / 0x40)
    else none

/-- A register of a partition that the map marks steward only. -/
def stewardReg (off : Nat) : Bool :=
  let b := off / 2 ^ 18
  let x := off % 2 ^ 18
  b = 18 || b = 31 || (b = 21 && (x % 0x40 = 0x18 || x % 0x40 = 0x20))

/-- The partition of operator code at a tally: its own where both quotas held it. -/
def regMine (s : State) (p : Part) (off : Nat) : Bool :=
  match tallyReg off with
  | some i => holdsTally s p i
  | none => regPart s off = some p.val

/-- A context reads a register as its value; otherwise as zero. -/
def coreReads (s : State) (c : CtxId) (off : Nat) : Bool :=
  let x := ctxGet s c
  privOf x = 2 || (regPart s off).isNone || regMine s (partOf x) off

/-- A context's write of a register takes effect. -/
def coreWrites (s : State) (c : CtxId) (off : Nat) : Bool :=
  let x := ctxGet s c
  privOf x = 2 || (privOf x = 1 && regMine s (partOf x) off && !stewardReg off)

/-- What the function of logical device n reaches: its mailbox, its MSI-X structures, its host ring, its tallies and arms. -/
def hostOwn (s : State) (n : LdId) (off : Nat) : Bool :=
  let l := ldGet s n
  off < 0x40_0000 || ringReg off = some n.val ||
  (match tallyReg off with
   | some i => decide (l.tbase.toNat ≤ i) && decide (i < l.tbase.toNat + l.tcount.toNat)
   | none => decide (0x65_8000 + 0x400 * n.val ≤ off) && decide (off < 0x65_8000 + 0x400 * n.val + 0x400))

/-- An agent's write of a register takes effect (R387). -/
def agentWrites (s : State) (a : Agent) (off : Nat) : Bool :=
  match a with
  | .core c => coreWrites s c off
  | .host n => hostOwn s n off

/-- The function whose view of the window an agent has: a core's is logical device 0's (log entry 51). -/
def agentLd : Agent → LdId | .core _ => 0 | .host n => n

/-- A register access that names a unit out of service or a slot without a unit (R25): a row map, TIL_STAT, FRY_STAT, the voltage of
a region, the control of a flash channel. A retired channel's control can be read, since its bit failed reports it (R309, R402). -/
def regUnitOk (s : State) (write : Bool) (off : Nat) : Bool :=
  let x := off % 2 ^ 18
  match off / 2 ^ 18 with
  | 18 => x < 0x1000 || 0x1298 ≤ x || regionIn s ((x - 0x1000) / 8)
  | 29 => !write || 0x100 ≤ x || unitIn s (uid 14 (x / 0x10))
  | 22 => 0x200 ≤ x || unitIn s (uid 9 (x / 16))
  | 23 => 0x80 ≤ x || unitIn s (uid 2 (x / 8))
  | 24 => 0x100 ≤ x || (boundTo s 4 0 (x / 8)).isSome
  | _ => true

/-- An access of n bytes is one that the window takes (R386). -/
def regSizeOk (off n : Nat) : Bool := (n = 4 || n = 8) && off % n = 0 && !(n = 4 && (tallyReg off).isSome)

/-- The bits of a word that writing one clears: a write of the other half leaves them. -/
def oneClears (off : Nat) : Nat :=
  let x := off % 2 ^ 18
  match off / 2 ^ 18 with
  | 17 => if x = 0 then 4 else 0
  | 18 => if x = 0x100 then 0x1E else 0
  | 20 => if 0x1000 ≤ x && x % 0x40 = 0x10 then 6 else 0
  | 25 => if 0x1_8000 ≤ x && x % 16 = 0 then 2 ^ 62 else 0
  | 26 => if x = 0x208 then 2 ^ 64 - 1 else 0
  | 27 => if 0x1400 ≤ x && x < 0x1600 then 2 ^ 64 - 1 else 0
  | 30 => if x = 0 then 8 else 0
  | _ => 0

/-- The word that a write of n bytes at an offset gives: of the half not reached, the present value (R386). -/
def mergedWord (s : State) (ld : LdId) (off n v : Nat) : Nat :=
  if n = 8 then v
  else
    let a := off / 8 * 8
    let old := regWord s ld a
    let old := old - (old &&& oneClears a)
    if off % 8 = 0 then old / 2 ^ 32 * 2 ^ 32 + v % 2 ^ 32 else v % 2 ^ 32 * 2 ^ 32 + old % 2 ^ 32

/-- A register written by an access of n bytes that its agent may make. A write of SEC_MEXT that does not reach its low half
extends nothing: it names no measurement (log entry 52). -/
def regStore (s : State) (ld : LdId) (steward : Bool) (off n v : Nat) : State :=
  let a := off / 8 * 8
  if a < 0x40_0000 then writeFn s ld a (mergedWord s ld off n v)
  else if n = 4 && off = 0x78_0024 then s
  else writeBlock s steward (a / 2 ^ 18) (a % 2 ^ 18) (mergedWord s ld off n v)

/-- A register read by an access of n bytes: SEC_RNG gives fresh bits, CLK_BELL_COUNT latches (R385, R386). -/
def regLoad (s : State) (ld : LdId) (off n : Nat) : Nat × State :=
  let a := off / 8 * 8
  let half (w : Nat) : Nat := if n = 8 then w else if off % 8 = 0 then w % 2 ^ 32 else w / 2 ^ 32
  if a = 0x78_0008 then let (v, s) := rngValue s; (half v.toNat, s)
  else if a = 0x44_0108 && n = 4 then let (v, s) := readBellHalf s (off % 8 = 4); (v.toNat, s)
  else if 0x60_0000 ≤ a && a < 0x60_0100 then (half (regWord s ld a), { s with free := s.free + 1 })
  else (half (regWord s ld a), s)

/-! ## The rows -/

/-- Registers are served: the device is out of reset. -/
def regsUp (s : State) : Bool := s.phase = .running || s.phase = .waitImage

/-- The bytes of an access width. -/
def widthBytes : AccessWidth → Nat | .w4 => 4 | .w8 => 8 | .other n => n

/-- Operator or steward code writes a share weight of its partition (R122); a build that waits runs again (R117). -/
def writeWeight (s : State) (a : Agent) (p : Part) (cls : Byte) (v : Word) : State :=
  match a with
  | .core c =>
    let x := ctxGet s c
    if privOf x = 2 || (privOf x = 1 && partOf x = p) then
      wakeBuild (refreshShares { s with ldg := { s.ldg with weight := tset 0 s.ldg.weight (shareKey p cls) (v.setWidth 16) } }) p.val
    else s
  | .host _ => s

end Sys2Proof.Machine
end

