-- ==== Sys2Proof/Machine/Access.lean ====
section
/-! DEFINITION. Scalar loads and stores: device memory, the tally range, the register window, and the end of an access
that its context waits for (R62, R80, R88, R296, R386 to R388). -/
namespace Sys2Proof.Machine

/-- What a load or store reaches. -/
inductive Access where
  /-- memory of the device, by its key; whether it is DRAM, for which the context waits -/
  | own (k : Nat) (dram : Bool)
  | tally (i : Nat)
  | reg (off : Nat)
  deriving DecidableEq, Repr

/-- The checks of a load or store of n bytes (R80, R88, R381, R386, R387): a tenant's access of the register window, then
alignment, then what the address names (log entry 13). A register of a unit out of service fails the protection check (R25). -/
def ctxRoute (s : State) (c : CtxId) (write : Bool) (a : Word) (n : Nat) : Except (Nat × Option Word) Access :=
  let x := ctxGet s c
  let inRegs := decide (regBase ≤ a.toNat) && decide (a.toNat < regBase + 2 ^ 24)
  if inRegs && privOf x = 0 then .error (Cause.protect, some a)
  else if a.toNat % n ≠ 0 then .error (Cause.align, some a)
  else match placeOf s a.toNat n with
    | .reg off =>
      if !regSizeOk off n then .error (Cause.align, some a)
      else if !regUnitOk s write off then .error (Cause.protect, some a)
      else .ok (.reg off)
    | .tally i =>
      if n = 8 && permits s (privOf x) (some (partOf x)) write a.toNat 8 then .ok (.tally i) else .error (Cause.protect, some a)
    | pl =>
      if ctxMemOk s c (privOf x) write a.toNat n then
        .ok (.own (memKey (c / 8) a.toNat) (match pl with | .dram _ => true | _ => false))
      else .error (Cause.protect, some a)

/-- A load from memory ends: zero-extended, or all-ones and POISON (R80, R88). -/
def loadEnds (s : State) (c : CtxId) (k n : Nat) (a : Word) (sd : BitVec 6) : After :=
  if poisoned s k n then .exc (regSet s c sd.toNat 0xFFFF_FFFF_FFFF_FFFF) Cause.poison (some a)
  else .adv (regSet s c sd.toNat (BitVec.ofNat 64 (memNum s k n)))

/-- A load of n bytes (R88): from DRAM the context is in WAIT until the access completes. -/
def load (n : Nat) (c : CtxId) (w : Ins64) (s : State) : Res :=
  issue64 0 true c w (fun s =>
    let x := ctxGet s c
    let a := opA x w.sa + opB x w
    match ctxRoute s c false a n with
    | .error (cause, fa) => .exc s cause fa
    | .ok (.own _ true) => .hold (placeWait s c (.load n a w.sd))
    | .ok (.own k false) => loadEnds s c k n a w.sd
    | .ok (.tally i) => .adv (regSet s c w.sd.toNat (tally s i))
    | .ok (.reg off) =>
      let (v, t) := regLoad s 0 off n
      .adv (regSet t c w.sd.toNat (if coreReads s c off then BitVec.ofNat 64 v else 0))) s

/-- A store of n bytes (R88). -/
def store (n : Nat) (c : CtxId) (w : Ins64) (s : State) : Res :=
  issue64 0 true c w (fun s =>
    let x := ctxGet s c
    let a := opA x w.sa + opB x w
    let v := (getS x w.sd.toNat).toNat % 2 ^ (8 * n)
    match ctxRoute s c true a n with
    | .error (cause, fa) => .exc s cause fa
    | .ok (.own _ true) => .hold (placeWait s c (.store n a (getS x w.sd.toNat)))
    | .ok (.own k false) => .adv (memWriteNum s k n v)
    | .ok (.tally i) => .adv (tallyAdd s i v)
    | .ok (.reg off) => .adv (if coreWrites s c off then regStore s 0 (privOf x = 2) off n v else s)) s

/-- LD8 (R88). -/
def execLd8 (c : CtxId) (w : Ins64) (s : State) : Res := load 1 c w s
/-- LD16 (R88). -/
def execLd16 (c : CtxId) (w : Ins64) (s : State) : Res := load 2 c w s
/-- LD32 (R88). -/
def execLd32 (c : CtxId) (w : Ins64) (s : State) : Res := load 4 c w s
/-- LD64 (R88). -/
def execLd64 (c : CtxId) (w : Ins64) (s : State) : Res := load 8 c w s
/-- ST8 (R88). -/
def execSt8 (c : CtxId) (w : Ins64) (s : State) : Res := store 1 c w s
/-- ST16 (R88). -/
def execSt16 (c : CtxId) (w : Ins64) (s : State) : Res := store 2 c w s

/-- A DRAM access that its context waits for completes: reads wait at busy banks, writes at held rows and for recalls
(R194, R296). -/
def completeAccess (s : State) (c : CtxId) : State :=
  let x := ctxGet s c
  let up := ctxSet s c { withState x 1 with wait := .none }
  match x.wait with
  | .load n a sd => if bankHolds s false a.toNat n then s else finish c 8 (loadEnds up c (memKey (c / 8) a.toNat) n a sd)
  | .store n a v =>
    if bankHolds s true a.toNat n then s
    else
      let ls := recallNeeded s a.toNat n
      if ls.isEmpty then advance (memWriteNum up (memKey (c / 8) a.toNat) n (v.toNat % 2 ^ (8 * n))) c 8 else startRecalls s ls
  | _ => s

/-! ## Register rows (R386, R387) -/

/-- A register write by an agent: a core's is an access of its window, with the exceptions of one where the core runs the context; a
write that the table denies is ignored. -/
def regAccess (s : State) (a : Agent) (off n : Nat) (t : State) : State :=
  let own := if agentWrites s a off && regSizeOk off n && regUnitOk s true off then t else s
  match a with
  | .host _ => own
  | .core c =>
    if stateOf (ctxGet s c) ≠ 2 then own
    else match ctxRoute s c true (BitVec.ofNat 64 (regBase + off)) n with
      | .error (cause, fa) => takeException s c cause fa
      | .ok _ => own

/-- REGISTER_WRITE (R25, R386, R387). -/
def registerWrite (a : Agent) (r : RegTarget) (width : AccessWidth) (v : Word) (s : State) : Res :=
  let n := widthBytes width
  whenOk (regsUp s)
    (match r with
     | .bar off => regAccess s a off.toNat n (regStore s (agentLd a) (stewardAgent s a) off.toNat n v.toNat)
     | .shareWeight p cls => writeWeight s a p cls v) s

/-- ROWMAP_WRITE (R190). -/
def execRowmapWrite (a : Agent) (st : StackId) (hi : Bool) (v : Word) (s : State) : Res :=
  whenOk (regsUp s)
    (regAccess s a (0x58_0000 + 16 * st + 8 * boolNat hi) 8 (if stewardAgent s a then writeRowmap s st hi v.toNat else s)) s

/-- NODE_SET (R390). -/
def execNodeSet (a : Agent) (v : Word) (s : State) : Res :=
  whenOk (regsUp s) (regAccess s a 0x40_0010 8 (if stewardAgent s a then writeNode s v.toNat else s)) s

/-- TLY_ADD (R73, R396). -/
def execTlyAdd (a : Agent) (i : TallyIdx) (v : Word) (s : State) : Res :=
  whenOk (regsUp s) (regAccess s a (0x64_8000 + 8 * i) 8 (tallyAdd s i v.toNat)) s

/-- TLY_SET (R73, R396). -/
def execTlySet (a : Agent) (i : TallyIdx) (v : Word) (s : State) : Res :=
  whenOk (regsUp s) (regAccess s a (0x65_0000 + 8 * i) 8 (tallySet s i v)) s

/-- TLY_ARM_WRITE (R396). -/
def execTlyArmWrite (a : Agent) (ld : LdId) (j : Fin 60) (hi : Bool) (v : Word) (s : State) : Res :=
  whenOk (regsUp s) (regAccess s a (0x65_8000 + 0x400 * ld + 16 * j + 8 * boolNat hi) 8 (writeArm s (ld * 64 + j) hi v.toNat)) s

/-- ARM_FIRE (R396). -/
def execArmFire (ld : LdId) (j : Fin 60) (s : State) : Res := whenOk (armReady s (ld * 64 + j)) (fireArm s (ld * 64 + j)) s

end Sys2Proof.Machine
end

