-- ==== Sys2Proof/Machine/Engines.lean ====
section
/-! DEFINITION. What is common to the engines: which engine runs an instruction, the addresses it names, its level; the ends of
engine and in-bank steps, with their checks; refresh (R40, R65, R84, R194, R195, R331 to R333, R381). -/
namespace Sys2Proof.Machine

/-! ## Posted instructions by class and op (R65, R84) -/

/-- The engine kind of a posted instruction (R65, R84); 0 for none. -/
def engineOf (cls op : Nat) : Nat :=
  match cls with
  | 3 => 9
  | 4 => if op ≤ 5 then 5 else if op = 6 then 0xA else if op = 8 then 6 else 3
  | 5 => 4
  | 6 => 3
  | 7 => 2
  | 8 => if op ≤ 5 then 1 else 8
  | 9 => 7
  | 0xB => 0xA
  | _ => 0

/-- The lowest level of a posted instruction (R84). -/
def opLevel (cls op : Nat) : Nat :=
  match cls with
  | 3 => if op = 6 then 2 else 1
  | 4 => if op = 7 then 0 else 1
  | 6 => if op = 8 then 1 else 0
  | 7 => if op = 2 then 1 else 0
  | 8 => if 4 ≤ op then 1 else 0
  | 9 => 1
  | 0xB => 2
  | _ => 0

/-- The posted instruction that an engine's op byte names (R115); where two share it, a pick between them. -/
def instrOf (eng op : Nat) (pick : Bool) : Option (Nat × Nat) :=
  match eng with
  | 1 => if op ≤ 5 then some (8, op) else none
  | 2 => if op ≤ 2 then some (7, op) else none
  | 3 => if (op = 7 && pick) || op = 9 then some (4, op) else if op ≤ 8 then some (6, op) else none
  | 4 => if op ≤ 8 then some (5, op) else none
  | 5 => if 2 ≤ op && op ≤ 5 then some (4, op) else none
  | 6 => if op = 8 then some (4, 8) else none
  | 7 => if op ≤ 5 then some (9, op) else none
  | 8 => if op = 6 || op = 7 then some (8, op) else none
  | 9 => if op = 0 || (3 ≤ op && op ≤ 6) then some (3, op) else none
  | 0xA => if op = 6 && !pick then some (4, 6) else if op = 6 || op = 7 then some (0xB, op) else none
  | _ => none

/-- The list area of an LSTEP: its address, and room for the longest list of its partition's classes (R117). -/
def lsList0 (o : Op) : Nat := bodyF o 0 64

def namedLstep (s : State) (o : Op) : Named :=
  let n := ((classes s o.part.val).map fun c => ((classRec s o.part.val c).map crBmax).getD 0).foldl max 1
  [(true, lsList0 o, 8 * n)]

/-- The addresses that an operation names (R54, R381). -/
def opNamed (s : State) (o : Op) : Named :=
  match o.cls, o.op with
  | 3, 3 => namedLstep s o
  | 3, 6 => namedLswap s o
  | 4, 2 => namedPmap s o
  | 4, 4 => namedPlook s o
  | 4, 5 => namedPindex s o
  | 4, 6 => namedPdigest s o
  | 4, 7 => namedPappend s o
  | 4, 9 => namedPverify s o
  | 5, 7 => namedInbank true s o
  | 5, 8 => namedRselect s o
  | 5, _ => namedInbank false s o
  | 6, 0 => namedHmv s o
  | 6, 1 => namedQk false s o
  | 6, 2 => namedQk true s o
  | 6, 3 => namedHsoft s o
  | 6, 4 => namedHnorm s o
  | 6, 5 => namedHact s o
  | 6, 6 => namedHrope s o
  | 6, 7 => namedHadd s o
  | 6, 8 => namedHswap s o
  | 7, 0 => namedTjob s o
  | 7, 1 => namedTgather s o
  | 7, 2 => namedTswap s o
  | 8, 0 => namedFcopy s o
  | 8, 1 => namedFred s o
  | 8, 2 => namedFmcast s o
  | 8, 3 => namedFatom s o
  | 8, 4 => namedFinv s o
  | 8, 6 => namedQpsend s o
  | 8, 7 => namedQpctl s o
  | 9, 1 => namedCwrite s o
  | 0xB, 6 => namedIdfrd s o
  | 0xB, 7 => namedIdfwr s o
  | _, _ => []

/-! ## Step ends (R40, R331 to R333) -/

/-- A step of an operation done, with its checks passed. -/
def stepPass (s : State) (t : Ticket) : State := opUpd s t fun o => { o with ran := o.ran + 1, held := none }

/-- The failures of a path within RAS_CECTL.window, this one among them (R331). -/
def pathFails (s : State) (u : UnitId) : List Word :=
  ((tget [] s.ras.ceRows (2 ^ 61 + u.toNat)).filter fun t => decide ((s.clk.bell - t).toNat < ceWindow s)) ++ [s.clk.bell]

/-- A failed check noted: CHECK_FAIL, and for a stack channel or a lane group its place in the window (R331, R333). -/
def noteFail (s : State) (o : Op) (u : UnitId) : State :=
  let s := raise s 0x24 (recPart s u) u o.ticket.toNat (o.ran + 1)
  if unitKind u = 10 || unitKind u = 11 then
    { s with ras := { s.ras with ceRows := tset [] s.ras.ceRows (2 ^ 61 + u.toNat) (pathFails s u) } }
  else s

/-- The `n`th failure of a step declares its unit failed: the second, or the first with retry at 0 (R333); of a stack channel
or a lane group the fourth, or one that brings it to RAS_CECTL.thresh within the window (R331). -/
def failDeclares (s : State) (n : Nat) (u : UnitId) : Bool :=
  if unitKind u = 10 || unitKind u = 11 then
    decide (4 ≤ n) ||
      (s.ras.thresh ≠ 0 && decide (s.ras.thresh.toNat ≤ (tget [] s.ras.ceRows (2 ^ 61 + u.toNat)).length))
  else decide (2 ≤ n) || !s.ras.retry

/-- Units in ascending order of their identifiers, each once (R348). -/
def ascending (us : List UnitId) : List UnitId :=
  ((us.map fun u => u.toNat).foldl (fun l n => insNat n l) []).map fun n => BitVec.ofNat 32 n

/-- A step of an operation whose check failed at units (R333, R348): each is noted; the step is replayed at once where no unit
is to be declared failed, and else it is held while those that are get their spares. -/
def stepFail (s : State) (o : Op) (us : List UnitId) : State :=
  let us := ascending us
  let s := us.foldl (fun s u => noteFail s o u) s
  let n := (o.held.map fun h => h.fails).getD 0 + 1
  let bad := us.filter (failDeclares s n)
  if bad.isEmpty then
    opUpd s o.ticket fun o => { o with held := some { units := us, fails := n, declared := false }, replayed := true }
  else
    bad.foldl (fun s u => declareFailed s u o.ticket.toNat)
      (opUpd s o.ticket fun o => { o with held := some { units := bad, fails := n, declared := true } })

/-- A core's instruction whose check failed, in no operation's step (R82, R333). -/
def coreFail (s : State) (u : UnitId) : State :=
  let s := raise s 0x24 (recPart s u) u 0 0
  if s.ras.retry && !s.ras.coreHeld.contains u then { s with ras := { s.ras with coreHeld := s.ras.coreHeld ++ [u] } }
  else declareFailed { s with ras := { s.ras with coreHeld := s.ras.coreHeld.filter fun v => v ≠ u } } u 0

/-- A logical granule lies in the run that a CREAD reads. -/
def caveRun (s : State) (o : Op) (lg : Nat) : Bool :=
  match creadPage s o with
  | none => false
  | some (gt, geom, _) =>
    let a := peCaddr (getPte s gt (bodyF o 96 8))
    decide (a ≤ lg) && decide (lg < a + geGran geom)

/-- An error that a read of the flash met (R320); a CREAD that reads the granule finds it so and raises the record itself. -/
def flashError (s : State) (lg : Nat) (e : MemError) : State :=
  let m := mapEntry s lg
  let b := entPlace m / 2 ^ 11
  if !entValid m || entBuf m then s
  else match e with
  | .none => s
  | .corrected =>
    let s := raiseCorrected s 0x15 (uid 15 (entPlace m / 2 ^ 31)) b
    { s with fls := { s.fls with reloc := insNat b s.fls.reloc } }
  | .uncorrectable =>
    let t := { s with fls := { s.fls with grans := tdel s.fls.grans (entPlace m) } }
    if s.ops.any fun o => o.cls = 9 && o.op = 0 && o.phase = .launched && caveRun s o lg then t else raiseUncorr t lg (entPlace m)

/-- An error that a read within a step met (R331). -/
def siteError (s : State) (x : ErrorSite) (e : MemError) : State :=
  match x with
  | .dram st off => if stackIn s st && decide (off.toNat < stackCap s) && rowProtected s st off.toNat then dramError s st off.toNat e else s
  | .sram u off => if sramOffOk u off then sramError s u off e else s
  | .flash lg => flashError s lg.toNat e

/-- The failed check of an engine that the floor-plan table does not list and that has no spare (R21, R82, R331, R333): DEDUCED
(log entry 166), the event names unit 0. -/
def engineFail (s : State) (o : Op) : State :=
  let s := raise s 0x24 o.part.val 0 o.ticket.toNat (o.ran + 1)
  let n := (o.held.map fun h => h.fails).getD 0 + 1
  if decide (n < 2) && s.ras.retry then
    opUpd s o.ticket fun o => { o with held := some { units := [], fails := n, declared := false }, replayed := true }
  else noSpareEnd (raise s 0x25 o.part.val 0 o.ticket.toNat 0) o

/-- The request ledger and the queue-pair engine have no entries in the floor-plan table (R21, R30). -/
def unlisted (o : Op) : Bool := o.cls = 3 || (o.cls = 8 && decide (6 ≤ o.op))

/-- The tiles in service of a job or a swap whose operand buffers hold poisoned words (R331). DEDUCED (log entry 166): the next step that
reads them fails its check. -/
def badTiles (s : State) (o : Op) : List UnitId :=
  if o.cls = 7 && o.op ≠ 1 then
    ascending ((s.ras.tileBad.map fun x => x.1).filter fun u => (fptGet s u).state = 0 && (tjC o).testBit (unitIndex u / 9))
  else []

/-- The outcome of a step's checks. DESIGN CHOICE (log entry 166): a poisoned word of an operand buffer fails the next step of a job of its
cluster, whose replay loads the buffer anew. -/
def stepEnd (s : State) (o : Op) : StepCheck → State
  | .pass =>
    let us := badTiles s o
    if us.isEmpty then stepPass s o.ticket
    else stepFail { s with ras := { s.ras with tileBad := s.ras.tileBad.filter fun x => !us.contains x.1 } } o us
  | .fail us =>
    if us.isEmpty && unlisted o then engineFail s o
    else
      let us := us.filter fun u => validUnit u && unitIn s u
      if us.isEmpty then s else stepFail s o us
  | .sawError x e => stepPass (siteError s x e) o.ticket

/-- REFRESH_DUE (R195): served at once, or at the next boundary of a manifest that runs in the stack. -/
def execRefreshDue (st : StackId) (s : State) : Res :=
  whenOk (s.phase = .running && stackReady s st && stackIn s st && !(ibRunning s st).isEmpty)
    { s with mem := { s.mem with refreshDue := setF s.mem.refreshDue st.val 1 1 } } s

/-- STACK_HOT_CHANGE (R195): hot above 95 °C, normal again below 92 °C. -/
def execStackHotChange (st : StackId) (celsius : Int) (s : State) : Res :=
  whenOk (s.phase = .running && stackIn s st)
    (if 95 < celsius then { s with mem := { s.mem with hot := setF s.mem.hot st.val 1 1 } }
     else if celsius < 92 then { s with mem := { s.mem with hot := setF s.mem.hot st.val 1 0 } } else s) s

end Sys2Proof.Machine
end

