-- ==== Sys2Proof/Machine/Batch.lean ====
section
/-! DEFINITION. Batch steps: the choice of a class, the list, the posting of the plan, the end of the step (R115 to R122, R127
to R129). -/
namespace Sys2Proof.Machine

/-! ## The batch step of a partition -/

def batchOf (s : State) (p : Part) : Option Batch := tget none s.ldg.batch p.val

def batchSet (s : State) (p : Part) (b : Option Batch) : State :=
  { s with ldg := { s.ldg with batch := tset none s.ldg.batch p.val b } }

/-! ## The choice of a class and its list (R117, R118, R122) -/

/-- A selectable request of a class (R117). -/
def selectable (s : State) (p : Part) (c : Nat) (e : LEntry) : Bool :=
  e.part = p && e.sclass.toNat = c && e.state.toNat = LSt.admitted && gateOpen s e &&
  (e.deadline ≠ 0 || shareWeight s (shareKey p.val e.share) ≠ 0)

def candidates (s : State) (p : Part) (c : Nat) : List LEntry :=
  (s.ldg.entries.filter fun x => selectable s p c x.2).map fun x => x.2

/-- The next class in the round with a selectable request (R117). -/
def nextClass (s : State) (p : Part) : Option Nat :=
  let r := tget 0 s.ldg.round p.val
  ((List.range 64).map fun i => (r + i) % 64).find? fun c => (classRec s p.val c).isSome && !(candidates s p c).isEmpty

/-- Order by posted, then by request number (R112, R118). -/
def beforePosted (a b : LEntry) : Bool :=
  earlier48 a.posted.toNat b.posted.toNat || (a.posted = b.posted && decide (a.request.toNat < b.request.toNat))

/-- Order by deadline, then by posted (R118). -/
def beforeDeadline (a b : LEntry) : Bool :=
  earlier48 a.deadline.toNat b.deadline.toNat || (a.deadline = b.deadline && beforePosted a b)

def insertEntry (lt : LEntry → LEntry → Bool) (x : LEntry) : List LEntry → List LEntry
  | [] => [x]
  | y :: r => if lt x y then x :: y :: r else y :: insertEntry lt x r

/-- The projected virtual time of a share class in a build: the entries of a table, else the class's own (R122). -/
def projected (s : State) (vt : Table Nat) (k : Nat) : Nat :=
  match vt.find? fun x => x.1 = k with
  | some (_, v) => v
  | none => shareTime s k

/-- Order of best-effort selection (R122): least virtual time, lower class, highest prio, least posted. -/
def beforeShare (s : State) (vt : Table Nat) (a b : LEntry) : Bool :=
  let ka := shareKey a.part.val a.share
  let kb := shareKey b.part.val b.share
  let va := projected s vt ka
  let vb := projected s vt kb
  decide (va < vb) || (decide (va = vb) && (decide (ka < kb) || (decide (ka = kb) &&
    (decide (b.prio.toNat < a.prio.toNat) || (a.prio = b.prio && beforePosted a b)))))

/-- The first element in an order. -/
def firstBy (lt : LEntry → LEntry → Bool) : List LEntry → Option LEntry
  | [] => none
  | x :: r => match firstBy lt r with
    | none => some x
    | some y => some (if lt y x then y else x)

/-- Best-effort places filled (R122): cost is ⌊wcet × 2^16⌋ over bmax times the weight. -/
def fillShares (s : State) (wcet bmax : Nat) : Nat → Table Nat → List LEntry → List LEntry
  | 0, _, _ => []
  | n + 1, vt, cand =>
    match firstBy (beforeShare s vt) cand with
    | none => []
    | some e =>
      let k := shareKey e.part.val e.share
      let v := projected s vt k + wcet * 2 ^ 16 / (bmax * shareWeight s k)
      e :: fillShares s wcet bmax n (tins k v (tdel vt k)) (cand.filter fun x => x.request ≠ e.request)

/-- The requests of a list, in order (R118). -/
def listOf (s : State) (p : Part) (c v : Nat) : List LEntry :=
  let cand := candidates s p c
  let dl := ((cand.filter fun e => e.deadline ≠ 0).foldl (fun l e => insertEntry beforeDeadline e l) []).take (crBmax v)
  dl ++ fillShares s (crWcet v) (crBmax v) (crBmax v - dl.length) [] (cand.filter fun e => e.deadline = 0)

/-! ## Posting the plan (R115, R116) -/

/-- A step that ends before its commit changes no request. -/
def stepStops (s : State) (p : Part) (o : Op) (st : Byte) : State := opEnd (batchSet s p none) o.ticket st o.steps

/-- A batch step that waited to post until no request of its list was left does not run; its build runs again (R117). -/
def listGone (s : State) (p : Part) (b : Batch) : State := batchSet s p (some { ticket := b.ticket, list := b.list, retry := true })

/-- The commit of a batch step (R119, R129): the list is written, its requests go to RUNNING, the class is loaded. Requests that left the
list since the build have no place in it (log entry 145). DESIGN CHOICE (log entry 169): the class counts as loaded from here on, whatever
becomes of its tile-swap manifests. -/
def commitStep (s : State) (p : Part) (o : Op) (b : Batch) : State :=
  let items := (indexed b.items).map fun (k, i) => { i with place := k }
  let s := items.foldl (fun s i => memWriteNum s (b.list + 8 * i.place) 8 (i.tokens * 2 ^ 32 + i.request.toNat)) s
  let s := items.foldl (fun s i => moveEntry s (entryOf s i.request.toNat) LSt.running) s
  let s := opUpd s o.ticket fun o => { o with phase := .committed }
  let s := { s with ldg := { s.ldg with loaded := tset none s.ldg.loaded p.val (if b.voided then none else b.cls) } }
  batchSet s p (some { b with items := items, committed := some s.clk.bell, blocked := false })

/-- The post control of a plan entry names what the partition holds, and keeps its reserved bits zero (R115, R116). -/
def controlOk (s : State) (p : Part) (x : Nat) : Bool :=
  bf x 56 8 = 0 && bf x 19 13 = 0 && bf x 11 5 = 0 && decide (bf x 16 3 ≤ 2) && holdsQueue s p (bf x 0 10) &&
  holdsTally s p (bf x 44 12) && (bf x 16 3 ≠ 2 || holdsTally s p (bf x 32 12))

/-- The operation of a plan entry, posted as by the context of the LSTEP, its operands from the post control (R115). -/
def opOfPlan (s : State) (p : Part) (o : Op) (i x img extra : Nat) (commit : Word) : Op :=
  let q := bf x 0 10
  let d := queueGet s q
  let y := ctxGet s o.ctx
  let ins := instrOf (bf img 0 8) (bf img 8 8) ((Config.freeWord s.free).getLsbD 0)
  let k := ins.getD (0, 256)
  { ticket := BitVec.ofNat 32 (o.ctx.val * 2 ^ 25 + y.posts.toNat), queue := q, slot := d.tail, ctx := o.ctx, level := o.level,
    part := d.part, ctxPart := p, ld := d.ld, share := d.share, prio := BitVec.ofNat 4 (max (prioOf y) d.prio.toNat),
    cls := k.1, op := k.2, engine := BitVec.ofNat 8 img, hdrOp := BitVec.ofNat 8 (img >>> 8), hdrResv := hdrResvBits img,
    request := BitVec.ofNat 32 (img >>> 64), edition := BitVec.ofNat 32 (img >>> 96), ctally := some (bf x 44 12),
    ord := o.ord, body := BitVec.ofNat 384 (img >>> 128), extra := BitVec.ofNat 128 extra,
    whn := BitVec.ofNat 3 (bf x 16 3), bellAt := commit + BitVec.ofNat 64 (bf x 64 64), tl := bf x 32 12,
    tallyAt := BitVec.ofNat 64 (bf x 64 64), links := [], refused := ins.isNone || decide (o.level.toNat < opLevel k.1 k.2),
    planOf := some (p, i) }

/-- A plan entry posted, checked as a post of a context is (R54, R116). -/
def postPlanEntry (s : State) (p : Part) (o : Op) (b : Batch) (x : Nat) : State :=
  let a := b.plan + 80 * b.next
  let img := memNum s (a + 16) 64
  let n := opOfPlan s p o b.next x img (memNum s (a + 80) 16) (b.committed.getD 0)
  let n := { n with refused := n.refused || !(addrsOk s n (opNamed s n) && nodesOk s n), links := linksOf n.cls n.op n.body (opNamed s n) }
  let y := ctxGet s o.ctx
  let s := enqueue { (ctxSet s o.ctx { y with posts := y.posts + 1 }) with free := s.free + 1 } n img
  batchSet s p (some { b with next := b.next + 1, blocked := false })

/-- Posting stops at an entry that cannot be posted (R116). -/
def planStops (s : State) (p : Part) (o : Op) (b : Batch) (st : Byte) : State :=
  if b.committed.isSome then batchSet s p (some { b with stopped := some st }) else stepStops s p o st

/-- The batch list lies in lines that the device may not recall (R288). -/
def listBlocked (s : State) (b : Batch) : Bool := !b.items.isEmpty && hdmHBlocked s b.list (8 * b.items.length)

/-- The plan posted from where the batch stands, at most n entries, until a queue is full or posting stops; a plan that posts
nothing commits at its end (R116, R119). -/
def postPlan (p : Part) (o : Op) : Nat → State → State
  | 0, s => s
  | n + 1, s =>
    match batchOf s p with
    | none => s
    | some b =>
      if b.stopped.isSome then s
      else if b.committed.isNone && b.items.isEmpty then listGone s p b
      else if b.pcount ≤ b.next then
        (if b.committed.isSome then s else if listBlocked s b then stepStops s p o St.protect else commitStep s p o b)
      else
        let a := b.plan + 80 * b.next
        let x := memNum s a 16
        if !opMemOk s o.level.toNat o.ctxPart false a 80 then planStops s p o b St.protect
        else if poisoned s a 80 then planStops s p o b St.poison
        else if x.testBit 10 && !b.swap then postPlan p o n (batchSet s p (some { b with next := b.next + 1 }))
        else if !controlOk s p x then planStops s p o b St.protect
        else if queueFull (queueGet s (bf x 0 10)) then batchSet s p (some { b with blocked := true })
        else if hdmHBlocked s (ringAddr s (bf x 0 10) (queueGet s (bf x 0 10)).tail.toNat) 64 then planStops s p o b St.protect
        else if b.committed.isNone && listBlocked s b then stepStops s p o St.protect
        else
          let s := if b.committed.isSome then s else commitStep s p o b
          match batchOf s p with
          | none => s
          | some b => postPlan p o n (postPlanEntry s p o b x)

/-! ## LSTEP (R117, R118) -/

/-- A list build of an LSTEP, at a batch-step boundary: its class, list and plan; or the wait, where no class has a selectable request. -/
def buildStep (o : Op) (s : State) : State :=
  let p := o.part
  let s := takeRole s p.val
  let count := s.ldg.entries.length
  let o := { o with steps := ceilDiv count 4096 + 1 }
  let s := opUpd s o.ticket fun x => { x with steps := o.steps }
  match nextClass s p with
  | none => batchSet s p (some { ticket := o.ticket, list := lsList0 o })
  | some c =>
    match classRec s p.val c with
    | none => s
    | some v =>
      let es := listOf s p c v
      let items : List ListItem := (indexed es).map fun (i, e) =>
        { place := i, request := e.request, tokens := min (crChunk v) (max 1 ((Config.freeWord (s.free + i)).toNat % 2 ^ 20)) }
      let s := { s with free := s.free + es.length, ldg := { s.ldg with round := tset 0 s.ldg.round p.val ((c + 1) % 64) } }
      let b : Batch :=
        { ticket := o.ticket, cls := some c, items := items, list := lsList0 o, plan := crPlan v, pcount := crCount v,
          wcet := crWcet v, swap := decide (tget none s.ldg.loaded p.val ≠ some c) }
      postPlan p o (b.pcount + 1) (batchSet s p (some b))

/-- LSTEP (R117 to R119): it waits for the batch step of its partition to end. -/
def execLstep (p : Posted) (s : State) : Res :=
  posted 1 false namedLstep 3 3 p (fun o s => if (batchOf s o.part).isSome then s else buildStep o s) s

/-- LSTEP_BUILD_RETRY (R117): the build that waits runs again. -/
def execLstepBuildRetry (p : Part) (s : State) : Res :=
  match batchOf s p with
  | none => .next s
  | some b =>
    match opGet s b.ticket with
    | none => .next s
    | some o => whenOk (b.cls.isNone && b.retry && opRunnable s o) (tryWork true (.build p) [] (buildStep o) s) s

/-- The posting step of a batch step that waited on a full queue goes on (R66, R116). -/
def resumePlan (s : State) (p : Part) : State :=
  match batchOf s p with
  | none => s
  | some b =>
    match opGet s b.ticket with
    | none => s
    | some o =>
      if b.blocked && s.phase = .running then tryWork true (.plan p) [] (postPlan p o (b.pcount + 1)) s else s

/-! ## The end of a batch step (R119 to R121, R108) -/

/-- A page table of a request's tree. -/
def treeTables (s : State) (e : LEntry) : List Nat := (mappedGroups s (rootAddr e)).map fun x => x.2

/-- The page tree of a request maps a page of a group record, or a line. -/
def treeHits (s : State) (e : LEntry) (pages : List (Nat × Nat)) (lines : List Nat) : Bool :=
  let geom := rootGeom s (rootAddr e)
  (treeTables s e).any fun gt =>
    pages.any (fun x => hdGroup (gtHeader s gt) = x.1 && decide (x.2 < geLayers geom)) ||
    (!lines.isEmpty && (List.range (geLayers geom)).any fun l =>
      let v := getPte s gt l
      (peKind v = PK.vat || peKind v = PK.dram) &&
      (let a := pageAddr (peStack v) (peGran v); lines.any fun n => decide (a < n * 64 + 64) && decide (n * 64 < a + gePage geom)))

/-- The requests of a list whose trees map a failed page or line; every request where none does (R119). -/
def endedAt (s : State) (all : List W32) (pages : List (Nat × Nat)) (lines : List Nat) : List W32 :=
  let hit := all.filter fun r => treeHits s (entryOf s r.toNat) pages lines
  if hit.isEmpty then all else hit

/-- The requests of a list that a plan operation's status ends (R119): each failed page and poisoned line by itself; the abort of
an operation by the disable of a logical device ends that device's requests alone, by a LABORT its request (R109, R110). -/
def endedBy (s : State) (items : List ListItem) (x : PlanResult) : List W32 :=
  let all := items.map fun i => i.request
  if x.status = St.complete then []
  else if x.status = St.checksum || x.status = St.poison then
    let hit := x.pages.flatMap (fun g => endedAt s all [g] []) ++ x.lines.flatMap fun l => endedAt s all [] [l]
    if hit.isEmpty then all else all.filter hit.contains
  else match x.ofLd, x.ofReq with
    | some ld, _ => all.filter fun r => (entryOf s r.toNat).ld = ld
    | none, some q => all.filter fun r => r = q
    | none, none => all

/-- What ends each request: the statuses of the plan's operations in plan order, then posting that stopped (R116, R119); an operation
that the request's own LABORT aborted stands behind every fault of the step (R109). -/
def endings (s : State) (b : Batch) : List (W32 × Byte) :=
  let ordered := (List.range b.pcount).flatMap fun i => b.results.filter fun r => r.place = i
  let by' (own : Bool) := (ordered.filter fun r => r.ofReq.isSome = own).flatMap fun r => (endedBy s b.items r).map fun q => (q, r.status)
  by' false ++ (match b.stopped with | some st => b.items.map fun i => (i.request, st) | none => []) ++ by' true

/-- The status of a finished batch step (R116, R119). -/
def stepStatus (b : Batch) : Byte :=
  match b.stopped with
  | some st => st
  | none =>
    let ordered := (List.range b.pcount).flatMap fun i => b.results.filter fun r => r.place = i
    ((ordered.map fun r => r.status).find? fun st => st ≠ St.complete).getD St.complete

/-- The charges of a step of engine time e over the tokens of its list; the remainder goes to the first (R121). -/
def charges (e : Nat) (toks : List Nat) : List Nat :=
  let k := toks.foldl (· + ·) 0
  let cs := toks.map fun t => e * t / k
  match cs with
  | [] => []
  | c :: r => (c + (e - cs.foldl (· + ·) 0)) :: r

/-- One request of a finished step: its counts, its charge, its next state (R108, R119, R121). DESIGN CHOICE (log entry 114):
the accumulator of a share class saturates. -/
def finishItem (ends : List (W32 × Byte)) (b : Batch) (p : Part) (s : State) (i : ListItem) (c : Nat) : State :=
  match entryIn s p i.request.toNat with
  | none => s
  | some e =>
    if e.state.toNat ≠ LSt.running then s
    else
      let stop := (tabNum s (b.list + 8 * i.place) 8).testBit 48
      let left := e.nleft.toNat - 1
      let k := shareKey p.val e.share
      let s := { s with ldg := { s.ldg with accum := tset 0 s.ldg.accum k (BitVec.ofNat 64 (satAdd 64 (shareAcc s k) c)) } }
      let e := { e with length := BitVec.ofNat 20 (min (e.length.toNat + i.tokens) 1048575), nleft := BitVec.ofNat 20 left,
                        steps := BitVec.ofNat 16 (satAdd 16 e.steps.toNat 1), charge := BitVec.ofNat 64 (satAdd 64 e.charge.toNat c) }
      match (ends.find? fun x => x.1 = i.request).map fun x => x.2 with
      | some st => moveEntry s { e with status := st } LSt.aborted
      | none =>
        match i.aborted with
        | some st => moveEntry s { e with status := st } LSt.aborted
        | none =>
          if stop || left = 0 then moveEntry s { e with status := St.complete } LSt.done else moveEntry s e LSt.admitted

/-- A batch step finished: its overrun, its charges, its requests, its own completion (R119 to R121). -/
def finishStep (s : State) (p : Part) (o : Op) (b : Batch) : State :=
  let e := (s.clk.bell - b.committed.getD 0).toNat
  let s := if b.wcet < e then raise s 0x05 p.val 0 (b.cls.getD 0) e else s
  let ends := endings s b
  let s := refreshShares s
  let s := (List.zip b.items (charges e (b.items.map fun i => i.tokens))).foldl (fun s x => finishItem ends b p s x.1 x.2) s
  opEnd (takeRole (batchSet (refreshShares s) p none) p.val) o.ticket (stepStatus b) (o.steps + ceilDiv b.pcount 64)

/-- Every entry is posted or posting has stopped, and what was posted has completed. -/
def planDone (s : State) (p : Part) (b : Batch) : Bool :=
  b.committed.isSome && (b.stopped.isSome || decide (b.pcount ≤ b.next)) &&
  !s.ops.any fun x => x.phase ≠ .recorded && (match x.planOf with | some y => y.1 = p | none => false)

/-- LSTEP_COMPLETE (R119). -/
def execLstepComplete (p : Part) (s : State) : Res :=
  match batchOf s p with
  | none => .next s
  | some b =>
    match opGet s b.ticket with
    | none => .next s
    | some o => whenOk (s.phase = .running && planDone s p b) (finishStep s p o b) s

end Sys2Proof.Machine
end

