-- ==== Sys2Proof/Machine/Manifest.lean ====
section
/-! DEFINITION. The Resv fields of the engine bodies, which every manifest must hold at zero at its launch (R67). Fields are
given by their lowest body bit and their width; body bit i is bit 128 + i of the manifest. -/
namespace Sys2Proof.Machine

/-- The Resv fields of a PMAP body, by mode (R145, R168). -/
def pmapResv : Nat → List (Nat × Nat)
  | 1 => [(128, 256), (4, 27)]
  | 2 => [(320, 64), (4, 24)]
  | 3 => [(320, 64), (256, 64), (128, 64), (64, 43), (52, 12), (16, 12), (4, 4)]
  | 4 => [(320, 64), (256, 64), (192, 64), (128, 64), (64, 64), (10, 18), (4, 4)]
  | 5 => [(320, 64), (256, 64), (128, 64), (64, 64), (52, 12), (4, 12)]
  | 6 => [(320, 64), (256, 64), (128, 64), (64, 64), (52, 12), (4, 24)]
  | _ => []

/-- The Resv fields of a TJOB body, by kind and adap (R228). -/
def tjobResv (kind : Nat) (adap : Bool) : List (Nat × Nat) :=
  (0, 21) :: ((if kind = 1 || kind = 2 then [(320, 64), (88, 6)] else []) ++
    (if kind = 3 || (kind = 0 && adap) then [] else [(128, 64)]))

/-- The Resv fields of a body, by class, op and mode. -/
def bodyResv (o : Op) : List (Nat × Nat) :=
  match o.cls, o.op with
  | 3, 0 => [(256, 12), (192, 8), (128, 19)]
  | 3, 3 => [(64, 320)]
  | 3, 4 | 3, 5 => [(0, 384)]
  | 3, 6 => [(0, 216)]
  | 4, 2 => pmapResv (bodyF o 0 4)
  | 4, 3 => [(128, 256), (64, 64), (0, 28)]
  | 4, 4 => [(0, 211)]
  | 4, 5 => [(0, 232)]
  | 4, 6 => [(0, 44)]
  | 4, 7 => [(128, 256), (0, 30)]
  | 4, 8 => [(128, 256), (64, 12), (0, 44)]
  | 4, 9 => [(128, 256), (0, 32)]
  | 5, 7 => [(0, 131)]
  | 5, 8 => [(0, 89)]
  | 5, _ => [(320, 64), (0, 140)]
  | 6, 0 => [(0, 100)]
  | 6, 1 | 6, 2 => [(0, 144)]
  | 6, 3 => [(0, 150)]
  | 6, 4 => [(0, 154)]
  | 6, 5 | 6, 7 => [(0, 153)]
  | 6, 6 => [(0, 89)]
  | 6, 8 => [(0, 235)]
  | 7, 0 => tjobResv (bodyF o 86 2) ((o.body.toNat).testBit 82)
  | 7, 1 => [(128, 64), (0, 75)]
  | 7, 2 => [(128, 128), (0, 96)]
  | 8, 0 => [(232, 24), (0, 177)]
  | 8, 1 => [(232, 24), (0, 163)]
  | 8, 2 => [(192, 14), (0, 131)]
  | 8, 3 => [(0, 126)]
  | 8, 4 => [(0, 200)]
  | 8, 5 => [(356, 13), (0, 197)]
  | 8, 6 => [(0, 281)]
  | 8, 7 => [(0, 254)]
  | 9, 0 => [(128, 256), (0, 32)]
  | 9, 1 => [(128, 256), (0, 24)]
  | 9, 2 => [(128, 256), (0, 40)]
  | 9, 3 => [(128, 256), (0, 96)]
  | 9, 4 => [(0, 384)]
  | 0xB, 6 => [(0, 276)]
  | 0xB, 7 => [(298, 22), (0, 275)]
  | _, _ => []

/-- A body holds no bit in a Resv field (R67). -/
def bodyResvOk (o : Op) : Bool := (bodyResv o).all fun (lo, w) => bodyF o lo w = 0

end Sys2Proof.Machine
end

