-- ==== Sys2Proof/Machine/Launch.lean ====
section
/-! DEFINITION. Launch of the manifest at a queue's head, the completion record of an operation that has ended, and posts that a
full queue held (R54, R66 to R74, R86, R119, R191, R192, R233, R262, R270, R359, R362). -/
namespace Sys2Proof.Machine

/-! ## MANIFEST_LAUNCH -/

/-- The checks of a chapter that are made at launch beside those of the header: of in-bank, tile and batch-step manifests,
which may wait to launch, of ferry operations, whose nodes the protection tables open, whether the request of a LEND, LABORT or FHAND is there (R108, R132), and whether a mode is
reserved (R67); the others make theirs at the first step. -/
def launchBodyOk (s : State) (o : Op) : Bool :=
  match o.cls, o.op with
  | 3, 4 => (entryIn s o.part o.request.toNat).isSome
  | 3, 5 => labortOk s o
  | 8, 0 => fcopyOk s o
  | 8, 1 => fredOk s o
  | 8, 2 => s.isf.nodeValid
  | 8, 3 => fatomOk s o
  | 8, 4 => finvOk s o
  | 8, 5 => fhandOk s o
  | 4, 2 => decide (1 ≤ bodyF o 0 4) && decide (bodyF o 0 4 ≤ 6)
  | 6, 3 => bodyF o 158 2 ≠ 3
  | 8, 7 => decide (qcOp o ≤ 7)
  | 5, 7 => rscoreOk s o
  | 5, 8 => rselectOk s o
  | 5, _ => rowOpOk s o
  | 7, 0 => tjobOk s o
  | 7, 1 => tgatherOk s o
  | 7, 2 => tswapOk s o
  | _, _ => true

/-- A cave instruction other than CCAL. -/
def ofCave (o : Op) : Bool := o.cls = 9 && o.op ≠ 5

/-- A manifest refused at launch (R54, R67, R86, R359, R329): it completes with PROTECT, steps 0. -/
def launchRefused (s : State) (o : Op) : Bool :=
  let k := (queueGet s o.queue).kind.toNat
  o.hdrResv || engineOf o.cls o.op ≠ k || o.engine.toNat ≠ k || o.hdrOp.toNat ≠ o.op || o.refused ||
  !bodyResvOk o || !addrsOk s o (opNamed s o) || !launchBodyOk s o ||
  (resetting s o.part && ((o.cls = 3 && o.op = 0) || (o.cls = 4 && o.op = 2))) || (o.cls = 9 && s.pwr.pwrfail)

/-- A manifest routed by an edition older than the device's previous one (R262). -/
def launchMoved (s : State) (o : Op) : Bool :=
  ((o.cls = 8 && decide (o.op ≤ 5)) || (o.cls = 4 && (o.op = 4 || o.op = 5))) && editionNewer s.isf.map.prev o.edition

/-- The destination of a tile job as a range. -/
def tjobRange (s : State) (o : Op) : Nat × Nat :=
  match (namedTjob s o).find? fun x => x.1 with
  | some (_, a, n) => (a, n)
  | none => (0, 0)

/-- A tile job whose slots a gather or swap launched before has still to change: it waits, and is checked on the new state (R240; log
entry 127). -/
def tileBusy (s : State) (o : Op) : Bool :=
  o.cls = 7 && o.op = 0 && s.ops.any fun x => x.cls = 7 && x.op ≠ 0 && x.phase = .launched && (tjNamed x).any (tjNamed o).contains

/-- An accumulating tile job that must wait for one in flight on its destination (R233). -/
def tjobWaits (s : State) (o : Op) : Bool :=
  fmtBit o 83 && s.ops.any fun x =>
    x.cls = 7 && x.op = 0 && (x.phase = .launched || x.phase = .committed || x.phase = .ended) && x.ticket ≠ o.ticket &&
    (let (a, n) := tjobRange s o; let (b, m) := tjobRange s x; decide (a < b + m) && decide (b < a + n))

/-- The ferry slots of a partition that have a ferry bound (R24, R104). -/
def ferriesOf (s : State) (p : Part) : Nat := (below 32 fun k => holdsFerry s p k && (boundTo s 4 0 k).isSome).length

/-- The operations of a partition that have launched and not ended, of an engine kind. -/
def runningOf (s : State) (p : Part) (k : Nat) : Nat :=
  (s.ops.filter fun x => x.part = p && x.engine.toNat = k && (x.phase = .launched || x.phase = .committed)).length

/-- The ferries of a partition are full: 128 manifests each, one press each (R21, R148). -/
def ferriesFull (s : State) (o : Op) : Bool :=
  decide (ferriesOf s o.part * (if o.engine = 0x06 then 1 else 128) ≤ runningOf s o.part o.engine.toNat)

/-- The vat-front appends of a hub that have launched and not ended (R147). DESIGN CHOICE (log entry 170): one that waits behind an
earlier append of its own page counts among them. -/
def appendsOf (s : State) (h : Nat) : Nat :=
  (s.ops.filter fun x => x.cls = 4 && x.op = 7 && opHub s x = h && (x.phase = .launched || x.phase = .committed)).length

/-- The engine of a manifest is not powered or its service has not begun: the security engine is of the keel set, the others need
memory service, a hub's units their power wave (R352, R354). DESIGN CHOICE (log entry 142): such a manifest waits at its queue's head. -/
def serviceWaits (s : State) (o : Op) : Bool :=
  o.engine ≠ 0x0A && (!memService s || (o.engine = 0x03 && !s.pwr.waves.toNat.testBit (opHub s o)))

/-- A manifest that its engine cannot take yet (R21, R147, R148, R191, R233, R270, R276, R329, R354; log entry 25). -/
def launchWaits (s : State) (o : Op) : Bool :=
  serviceWaits s o ||
  match o.cls, o.op with
  | 4, 7 => decide (16 ≤ appendsOf s (opHub s o))
  | 4, 8 => ferriesFull s o
  | 5, _ => !ibCanLaunch s o
  | 7, 0 => !clustersUp s o || tjobWaits s o
  | 7, _ => !clustersUp s o
  | 8, 6 => !qpCanLaunch s o
  | 8, _ => decide (o.op ≤ 5) && ferriesFull s o
  | 9, _ => ofCave o && !s.fls.pfReady
  | _, _ => false

/-- The table entries of the pages that an operation reads by its tables, each with the bytes of its page: those of a heads manifest, a
press, a CWRITE and a tile job over pages. -/
def pagesRead (s : State) (o : Op) : List (Nat × Nat) :=
  let page (layer g : Nat) : Option (Nat × Nat) :=
    ((entryIn s o.part o.request.toNat).bind fun e => rootEntry s (rootAddr e) g).map fun gt => (getPte s gt layer, gePage (reqGeom s o))
  match o.cls, o.op with
  | 6, 1 | 6, 2 => (qkPositions s o).filterMap (page (qkLayer o))
  | 4, 8 => (page (bodyF o 44 8) (bodyF o 52 12)).toList
  | 9, 1 => ((cwLayers o).map fun l => (getPte s (rcGt (getRec s o.part (bodyF o 104 24))) l, geGran (recordGeom s o) * 16384)).filter
      fun x => peKind x.1 = PK.dram
  | 7, 0 => if tjKind o = 1 || tjKind o = 2 then ((List.range (tjPos o)).map fun i => bodyF o 53 12 + i).filterMap (page (bodyF o 71 8)) else []
  | _, _ => []

/-- The links that the pages of an operation of the controller die or the clusters cross, when they lie in a stack (R39). -/
def pageLinks (s : State) (o : Op) : List Nat :=
  if o.cls = 6 then []
  else (pagesRead s o).filterMap fun (v, _) => if peKind v = PK.vat || peKind v = PK.dram then some (peStack v / 4) else none

/-- The links of an operation as it stands at its queue's head. -/
def headLinks (s : State) (o : Op) : List Nat := (linksOf o.cls o.op o.body (opNamed s o) ++ pageLinks s o).eraseDups

/-- No manifest of an operation's kind launches now (R39, R46, R362, R363, R366, PWHOLD). -/
def launchHeld (s : State) (o : Op) : Bool :=
  stepsHeld s { o with links := headLinks s o } || (tget 0 s.pwr.pwhold o.part.val).toNat.testBit o.engine.toNat || !s.clk.refPresent

/-- The launch of an operation, with the cause its condition had (R72), its number in the order of launches; a LABORT finds
whether its request has ended (R109), a PPRESS whether another holds its page (R156), a CREAD whether it may run (R318), an FINV the holders that its checks
admitted (R54, R252). -/
def launchNow (s : State) (o : Op) (cause : BitVec 2) : State :=
  let n := (s.ops.map fun x => x.launchNo).foldl max 0 + 1
  let links := headLinks s o
  let s := opUpd s o.ticket fun x => { x with phase := .launched, cause := cause, launchNo := n, links := links }
  if o.cls = 5 then ibLaunch s { o with phase := .launched }
  else if o.cls = 3 && o.op = 5 then
    opUpd s o.ticket fun x => { x with settled := !liveState (entryOf s o.request.toNat) }
  else if o.cls = 4 && o.op = 8 then
    let meets := otherPress s o
    opUpd s o.ticket fun x => { x with settled := meets }
  else if o.cls = 9 && o.op = 0 then
    let bad := !creadOk s o
    opUpd s o.ticket fun x => { x with settled := bad }
  else if o.cls = 8 && o.op = 2 then
    let here := fmHere s o
    opUpd s o.ticket fun x => { x with settled := here }
  else if o.cls = 8 && o.op = 4 then
    let ns := if fiListed s o then some ((fiHolders s o).filterMap id) else none
    opUpd s o.ticket fun x => { x with nodes := ns }
  else if o.cls = 8 && o.op = 5 then fhandLaunch s o
  else s

/-- The end of an operation at its launch. -/
def launchEnd (s : State) (o : Op) (cause : BitVec 2) (st : Byte) : State :=
  opUpd (opEnd s o.ticket st 0) o.ticket fun x => { x with cause := cause }

/-- MANIFEST_LAUNCH (R54, R67, R68, R71, R72, R86): the head of a queue, its condition met. The next manifest then stands at
the head. -/
def execManifestLaunch (q : QIdx) (s : State) : Res :=
  match headOf s q with
  | none => .next s
  | some o =>
    match o.trig with
    | none => .next s
    | some cause =>
      let t :=
        if tileBusy s o then s
        else if launchRefused s o then launchEnd s o cause St.protect
        else if launchMoved s o then launchEnd s o cause St.moved
        else if launchWaits s o then s
        else launchNow s o cause
      whenOk (s.phase = .running && !launchHeld s o) (settle t 2) s

/-! ## OPERATION_COMPLETE -/

/-- The completion record (R69). -/
def completionRecord (s : State) (o : Op) : Nat :=
  o.ticket.toNat * 2 ^ 96 + bell48 s * 2 ^ 48 + o.steps % 2 ^ 16 * 2 ^ 32 + 2 ^ 31 + o.cause.toNat * 2 ^ 18 +
  boolNat o.replayed * 2 ^ 17 + o.status.toNat

/-- Engines that move data add their bytes to the completion tally as they go (R74). -/
def movesData (o : Op) : Bool :=
  (o.cls = 8 && (o.op = 0 || o.op = 1 || o.op = 2 || o.op = 6)) || (o.cls = 4 && o.op = 7)

/-- The completion tally after a record (R74, R77, R82): unchanged for a mover, an abort, and a failure at or before the
commit step. -/
def recordTally (s : State) (o : Op) : State :=
  if movesData o || o.status = St.aborted || o.status = St.noSpare then s else addBytes s o 1

/-- Lines of a range that are poisoned. -/
def poisonIn (s : State) (a n : Nat) : List Nat :=
  ((List.range ((a + n + 63) / 64 - a / 64)).map fun i => a / 64 + i).filter (linePoison s)

/-- The poisoned lines among what an operation read: its named sources and its pages (R119). -/
def poisonMet (s : State) (o : Op) : List Nat :=
  let named := ((opNamed s o).filter fun x => !x.1).flatMap fun x => poisonIn s x.2.1 x.2.2
  named ++ (pagesRead s o).flatMap fun (v, n) =>
    if peKind v = PK.vat || peKind v = PK.dram then poisonIn s (pageAddr (peStack v) (peGran v)) n else []

/-- What a plan operation's end leaves with its batch step (R119). -/
def notePlan (s : State) (o : Op) : State :=
  match o.planOf with
  | none => s
  | some (p, i) =>
    match batchOf s p with
    | none => s
    | some b =>
      let ls := if o.status = St.poison then poisonMet s o else []
      batchSet s p (some { b with results := b.results ++
        [{ place := i, status := o.status, pages := o.pages, lines := ls, ofLd := o.byLd, ofReq := o.byReq }] })

/-- The record of an ended operation: written over its slot, its tally added to; banks it held are free, and so are the released regions
that only it still used (R69, R74, R154, R192). -/
def recordOp (s : State) (o : Op) : State :=
  let s := notePlan s o
  let s := memWriteNum s (ringAddr s o.queue o.slot.toNat) 16 (completionRecord s o)
  let s := opUpd s o.ticket fun x => { x with phase := .recorded }
  recordTally (returnReleased (if o.cls = 5 then ibResume s o else s)) o

/-! ## POST_RESUME -/

/-- A context's post held on a full queue made anew (R66). -/
def resumePost (s : State) (c : CtxId) : State :=
  let x := ctxGet s c
  match x.wait with
  | .post cls op w =>
    if ((queueHandle x w.q.toNat).map fun q => queueFull (queueGet s q)).getD false then s
    else
      let s := ctxSet s c { withState x 1 with wait := .none }
      finish c 16 (makePost opNamed cls op c w s)
  | _ => s

/-- POST_RESUME (R62, R66, R116). -/
def execPostResume (w : PostWaiter) (s : State) : Res :=
  match w with
  | .ctx c => whenOk (s.phase = .running && stateOf (ctxGet s c) = 3) (resumePost s c) s
  | .plan p => .next (resumePlan s p)

end Sys2Proof.Machine
end

