-- ==== Sys2Proof/Machine/Sync.lean ====
section
/-! DEFINITION. The synchronisation instructions of class 2 but ABORT, and the end of a wait (R57, R58, R62, R65, R66,
R73, R75, R90). -/
namespace Sys2Proof.Machine

/-- TSET (R73): tally t := b. -/
def execTset (c : CtxId) (w : Ins64) (s : State) : Res :=
  issue64 0 (narrow 4 w.sa) c w (fun s =>
    let x := ctxGet s c
    match tallyHandleRw x w.sa.toNat with
    | none => .exc s Cause.handle none
    | some i => .adv (tallySet s i (opB x w))) s

/-- TADD (R73): tally t := min(tally t + b, 2^64 − 1). -/
def execTadd (c : CtxId) (w : Ins64) (s : State) : Res :=
  issue64 0 (narrow 4 w.sa) c w (fun s =>
    let x := ctxGet s c
    match tallyHandleRw x w.sa.toNat with
    | none => .exc s Cause.handle none
    | some i => .adv (tallyAdd s i (opB x w).toNat)) s

/-- TREAD (R75): s[sd] := tally t. -/
def execTread (c : CtxId) (w : Ins64) (s : State) : Res :=
  issue64 0 (narrow 4 w.sa) c w (fun s =>
    match tallyHandle (ctxGet s c) w.sa.toNat with
    | none => .exc s Cause.handle none
    | some i => .adv (regSet s c w.sd.toNat (tally s i))) s

/-- The bell has reached a count; it holds, and no wait completes on it, while the reference is lost (R46, R90). -/
def bellReached (s : State) (v : Word) : Bool := decide (v.toNat ≤ s.clk.bell.toNat) && s.clk.refPresent

/-- The tally has reached a value. -/
def tallyReached (s : State) (t : Nat) (v : Word) : Bool := decide (v.toNat ≤ (tally s t).toNat)

/-- The destination and status with which a wait of R90 ends now; none while its condition does not hold. -/
def waitOutcome (s : State) : Wait → Option (BitVec 6 × Byte)
  | .tally t v sd => if tallyReached s t v then some (sd, St.complete) else none
  | .bell v sd => if bellReached s v then some (sd, St.complete) else none
  | .either t v b sd =>
    if tallyReached s t v then some (sd, St.complete)
    else if bellReached s b then some (sd, St.timeout) else none
  | _ => none

/-- A wait instruction: it completes at once where its condition holds, else it places the context in WAIT (R90). -/
def waitOn (s : State) (c : CtxId) (wt : Wait) : After :=
  match waitOutcome s wt with
  | some (sd, st) => .adv (statusTo s c sd.toNat st)
  | none => .hold (placeWait s c wt)

/-- TWAIT (R90): waits until tally t ≥ s[sb]. -/
def execTwait (c : CtxId) (w : Ins64) (s : State) : Res :=
  issue64 0 (narrow 4 w.sa) c w (fun s =>
    let x := ctxGet s c
    match tallyHandle x w.sa.toNat with
    | none => .exc s Cause.handle none
    | some i => waitOn s c (.tally i (getS x w.sb.toNat) w.sd)) s

/-- BWAIT (R90): waits until the bell ≥ s[sb]. -/
def execBwait (c : CtxId) (w : Ins64) (s : State) : Res :=
  issue64 0 true c w (fun s => waitOn s c (.bell (getS (ctxGet s c) w.sb.toNat) w.sd)) s

/-- TWAITB (R90): waits until tally t ≥ s[sb] or the bell ≥ s[sd]. -/
def execTwaitb (c : CtxId) (w : Ins64) (s : State) : Res :=
  issue64 0 (narrow 4 w.sa) c w (fun s =>
    let x := ctxGet s c
    match tallyHandle x w.sa.toNat with
    | none => .exc s Cause.handle none
    | some i => waitOn s c (.either i (getS x w.sb.toNat) (getS x w.sd.toNat) w.sd)) s

/-- WAIT_WAKE (R90): a context in WAIT on TWAIT, BWAIT or TWAITB wakes when its condition holds. -/
def execWaitWake (c : CtxId) (s : State) : Res :=
  match waitOutcome s (ctxGet s c).wait with
  | some (sd, st) =>
    whenOk (s.phase = .running && stateOf (ctxGet s c) = 3) (leaveWait (statusTo s c sd.toNat st) c 8) s
  | none => .next s

/-- QBIND (R58): q[sd[3:0]] := queue s[sb]. -/
def execQbind (c : CtxId) (w : Ins64) (s : State) : Res :=
  issue64 1 (narrow 4 w.sd) c w (fun s =>
    let x := ctxGet s c
    let i := (getS x w.sb.toNat).toNat
    if i < 1024 && holdsQueue s (partOf x) i then
      let h : W32 := BitVec.ofNat 32 (2 ^ 31 + (queueGet s i).kind.toNat * 2 ^ 16 + i)
      .adv (statusTo (ctxSet s c { x with q := tset 0 x.q w.sd.toNat h }) c w.sa.toNat St.complete)
    else .adv (statusTo s c w.sa.toNat St.protect)) s

/-- TBIND (R58): t[sd[3:0]] := tally s[sb], read-only with imm[0]. -/
def execTbind (c : CtxId) (w : Ins64) (s : State) : Res :=
  issue64 1 (narrow 4 w.sd) c w (fun s =>
    let x := ctxGet s c
    let i := (getS x w.sb.toNat).toNat
    if i < 4096 && holdsTally s (partOf x) i then
      let h : W32 := BitVec.ofNat 32 (2 ^ 31 + w.imm.toNat % 2 * 2 ^ 30 + i)
      .adv (statusTo (ctxSet s c { x with t := tset 0 x.t w.sd.toNat h }) c w.sa.toNat St.complete)
    else .adv (statusTo s c w.sa.toNat St.protect)) s

/-- The head of a queue advanced by up to n slots, stopping before the first whose record is not written (R66); the
slots freed. -/
def freeSlots : Nat → State → Nat → State × Nat
  | 0, s, _ => (s, 0)
  | n + 1, s, q =>
    let d := queueGet s q
    if d.head = d.tail then (s, 0)
    else if s.ops.any fun o => o.queue = q && o.slot = d.head && o.phase = .recorded then
      let s := { s with ops := s.ops.filter fun o => !(o.queue = q && o.slot = d.head && o.phase = .recorded) }
      let (s, k) := freeSlots n (queueSet s q { d with head := d.head + 1 }) q
      (s, k + 1)
    else (s, 0)

/-- QFREE (R66). -/
def execQfree (c : CtxId) (w : Ins64) (s : State) : Res :=
  issue64 0 (narrow 4 w.sa) c w (fun s =>
    let x := ctxGet s c
    match queueHandle x w.sa.toNat with
    | none => .exc s Cause.handle none
    | some q =>
      if holdsQueue s (partOf x) q then
        let d := queueGet s q
        let (s, k) := freeSlots (min (opB x w).toNat (d.tail - d.head).toNat) s q
        .adv (regSet s c w.sd.toNat (BitVec.ofNat 64 k))
      else .adv (regSet s c w.sd.toNat 0)) s

/-- A queue descriptor written by QDESC from a 16-byte image, head left for the head rule (R65, R7). DESIGN CHOICE (log entry 138):
the place of its base is not checked. -/
def writtenDesc (d : QDesc) (img : Nat) (level : Nat) : QDesc :=
  let depth := bf img 36 4
  let kind := bf img 24 8
  let d :=
    if d.tail = d.head then
      { d with base := BitVec.ofNat 58 (img >>> 70),
               depth := if 4 ≤ depth ∧ depth ≤ 12 then BitVec.ofNat 4 depth else d.depth,
               kind := if 1 ≤ kind ∧ kind ≤ 10 then BitVec.ofNat 8 kind else d.kind }
    else d
  let d := { d with prio := BitVec.ofNat 4 (bf img 32 4), share := BitVec.ofNat 8 (bf img 16 8) }
  if level = 2 then { d with part := if img.testBit 4 then 1 else 0, ld := Fin.ofNat 16 (bf img 0 4) } else d

/-- The work of QDESC, with its read of memory. -/
def qdescWork (c : CtxId) (w : Ins128) (s : State) : After :=
  ctxTry c (.redo (.qdesc c w)) [((getS (ctxGet s c) w.sb.toNat).toNat, 16)] (fun s =>
    let x := ctxGet s c
    let q := (opA x w.sa).toNat
    match ctxRead s c (getS x w.sb.toNat) 16 8 with
    | .error (cause, fa) => .exc s cause fa
    | .ok img =>
      let d := queueGet s q
      let n := (BitVec.ofNat 13 (bf img 40 13) - d.head).toNat
      if q < 1024 && holdsQueue s (partOf x) q && decide (n ≤ (d.tail - d.head).toNat) then
        let (s, _) := freeSlots n (queueSet s q (writtenDesc d img (privOf x))) q
        .adv (statusTo s c w.sd.toNat St.complete)
      else .adv (statusTo s c w.sd.toNat St.protect)) s

/-- QDESC (R65, R66). -/
def execQdesc (c : CtxId) (w : Ins128) (s : State) : Res := issue128 1 c w (qdescWork c w) s

end Sys2Proof.Machine
end

