-- ==== Sys2Proof/Machine/Boundary.lean ====
section
/-! DEFINITION. What waits at a bank or for a recall done anew: at a step boundary of an in-bank manifest, at its completion, and as a
recall ends; and the commands at which that happens (R40, R69, R74, R88, R194, R195, R213, R295 to R302). -/
namespace Sys2Proof.Machine

/-- The engine's work on an operation, by its class, op and mode. -/
def runOf (o : Op) (s : State) : Res :=
  let p : Posted := .run o.ticket
  match o.cls, o.op with
  | 3, 0 => execLpost p s | 3, 3 => execLstep p s | 3, 4 => execLend p s | 3, 5 => execLabort p s | 3, 6 => execLswap p s
  | 4, 2 =>
    (match bodyF o 0 4 with
     | 1 => execPmapOpen p s | 2 => execPmapShare p s | 3 => execPmapTake p s | 4 => execPmapPlace p s
     | 5 => execPmapReturn p s | _ => execPmapGive p s)
  | 4, 3 => execPunmap p s | 4, 4 => execPlook p s | 4, 5 => execPindex p s | 4, 6 => execPdigest p s
  | 4, 7 => execPappend p s | 4, 8 => execPpress p s | 4, 9 => execPverify p s
  | 5, 0 => execRcopy p s | 5, 1 => execRzero p s | 5, 2 => execRnot p s | 5, 3 => execRand p s | 5, 4 => execRor p s
  | 5, 5 => execRxor p s | 5, 6 => execRmaj p s | 5, 7 => execRscore p s | 5, 8 => execRselect p s
  | 6, 0 => execHmv p s | 6, 1 => execHqk p s | 6, 2 => execHpv p s
  | 6, 3 => (match bodyF o 158 2 with | 0 => execHsoftFold p s | 1 => execHsoftFinish p s | _ => execHsoftMerge p s)
  | 6, 4 => execHnorm p s | 6, 5 => execHact p s | 6, 6 => execHrope p s | 6, 7 => execHadd p s | 6, 8 => execHswap p s
  | 7, 0 => execTjob p s | 7, 1 => execTgather p s | 7, 2 => execTswap p s
  | 8, 0 => execFcopy p s | 8, 1 => execFred p s | 8, 2 => execFmcast p s | 8, 3 => execFatom p s | 8, 4 => execFinv p s
  | 8, 5 => execFhand p s | 8, 6 => execQpsend p s
  | 8, 7 =>
    (match qcOp o with
     | 0 => execQpctlCreate p s | 1 => execQpctlModify p s | 2 => execQpctlQuery p s | 3 => execQpctlDestroy p s
     | 4 => execQpctlKeyset p s | 5 => execQpctlKeyflip p s | 6 => execQpctlRecv p s | _ => execQpctlResume p s)
  | 9, 0 => execCread p s | 9, 1 => execCwrite p s | 9, 2 => execCdisc p s | 9, 3 => execCgc p s | 9, 4 => execCsync p s
  | 9, 5 => execCcal p s
  | 0xB, 6 => execIdfrd p s | 0xB, 7 => execIdfwr p s
  | _, _ => .next s

/-- The completion of an operation on memory; a record whose line the device may not recall is refused (R69, R288). -/
def completeOp (t : Ticket) (o : Op) (s : State) : State :=
  let o := if hdmHBlocked s (ringAddr s o.queue o.slot.toNat) 16 then { o with status := St.protect } else o
  tryWork true (.record t) [] (fun s => recordOp s o) s

/-- A work that waits done anew, under its own conditions. -/
def redoWork (w : Work) (s : State) : Res :=
  match w with
  | .run t => (match opGet s t with | some o => runOf o s | none => .next s)
  | .record t => (match opGet s t with | some o => whenOk (o.phase = .ended) (completeOp t o s) s | none => .next s)
  | .build p => execLstepBuildRetry p s
  | .plan p => .next (resumePlan s p)
  | .ring ld x r => ringGo ld x r s
  | .sweep p => execAgeSweep p s
  | .keeper p => execKeeperEvict p s
  | .returns p xs => execReturnAgentLayer p xs s
  | .repair p x => execRepairAgent p x s
  | .rowScrub st off err => execProtectedScrub st off err s
  | .pageScrub p group layer => execOpenScrub p group layer s
  | .clear m dpa data => execClearPoison m dpa data s
  | .qpRing q => .next (tryWork true w [] (flushError · q.toNat) s)
  | .walk r => execLiveWalk r s
  | .qpFetch q slot => execQpContextFetched q slot s
  | .index m b once => .next (shardAnswers m b once s)
  | .indexEnd tag x => .next (tryWork true w [] (indexCame tag x) s)
  | .dead tag => .next (tryWork true w [] (endTimeout tag) s)
  | .reduce tag => execReduceResend tag s
  | .deadline r => execDeadlineReached r s
  | .stackLoss st => execStackLoss st s

/-- The state that an answer gives. -/
def nextState (s : State) : Res → State | .next t => t | _ => s

/-- The works that wait done anew in their order; those still held wait on. -/
def serveWorks (s : State) : State :=
  s.mem.works.foldl (fun s w => nextState s (redoWork w s)) { s with mem := { s.mem with works := [] } }

/-- A context's instruction that waits for memory done anew: a load or store, a post, another access (R66, R88, R194, R296). -/
def redoAccess (s : State) (c : CtxId) : State :=
  let x := ctxGet s c
  let up := ctxSet s c { withState x 1 with wait := .none }
  match x.wait with
  | .post _ _ _ => resumePost s c
  | .redo i =>
    (match i with
     | .lread c w => finish c 16 (lreadWork c w up)
     | .lset c w => finish c 16 (lsetWork c w up)
     | .qdesc c w => finish c 16 (qdescWork c w up)
     | .partset c w => finish c 8 (partsetWork c w up)
     | .ptwr c w => finish c 8 (ptwrWork c w up)
     | .ptrd c w => finish c 8 (ptrdWork c w up)
     | _ => s)
  | _ => completeAccess s c

/-- The contexts that wait for memory served. -/
def serveCtxs (s : State) : State :=
  (s.ctxs.map fun x => x.1).foldl
    (fun s c => if h : c < 128 then (if stateOf (ctxGet s c) = 3 then redoAccess s ⟨c, h⟩ else s) else s) s

/-! ## What steps do (R40, R82, R92, R232, R254) -/

/-- The state in which the step under way runs: nothing in it holds a step, not a slow region, a limiter, a tripped die or a reference
clock that is gone (R39, R46, R362, R366). -/
def unheld (s : State) : State :=
  { s with clk := { s.clk with slow := [], refPresent := true }, pwr := { s.pwr with limiter := 0, partHeld := [], tripped := [] } }

/-- The holds of new steps as they stand in another state. -/
def heldAs (s t : State) : State :=
  { t with clk := { t.clk with slow := s.clk.slow, refPresent := s.clk.refPresent },
           pwr := { t.pwr with limiter := s.pwr.limiter, partHeld := s.pwr.partHeld, tripped := s.pwr.tripped } }

/-- Operations whose steps write one after the other from the first on: hub manifests, tile jobs and swaps, and copies within the
device (R92, R232, R254). -/
def writesBySteps (s : State) (o : Op) : Bool :=
  o.cls = 6 || (o.cls = 7 && o.op ≠ 1) || (o.cls = 8 && o.op = 0 && (fcSrc s o).1.isNone && (fcDst s o).1.isNone)

/-- A range by the lines it touches. -/
def byLines (x : Nat × Nat) : List (Nat × Nat) :=
  let (a, n) := x
  if n = 0 then []
  else (List.range ((a + n + 63) / 64 - a / 64)).map fun i =>
    let lo := max a ((a / 64 + i) * 64)
    (lo, min (a + n) ((a / 64 + i) * 64 + 64) - lo)

/-- Bytes that the first c columns of an output row of a job take; a row in a page's format comes with its last panel. -/
def tjColBytes (s : State) (o : Op) (c : Nat) : Nat :=
  if tjN s o ≤ c then
    (if tjKind o ≠ 3 && tjCfmt o = 2 then outBytes (tjGeom s o) 2 (tjN s o) else tjOutStride s o)
  else if tjKind o = 3 then 2 * c
  else match tjCfmt o with | 0 => 2 * c | 1 => 4 * c | 2 => 0 | _ => c / 32 * 33

/-- The columns before each panel of a job, and after the last (R218, R229). -/
def panelEnds (s : State) (o : Op) : List Nat :=
  match tjKind o with
  | 0 => ((slicePanels (tjDescs s o (bodyF o 320 64))).foldl (fun (l, c) (d, _, p) =>
      let c := c + min 128 (d.nrows - 128 * p)
      (l ++ [c], c)) (([0] : List Nat), 0)).1
  | _ => (List.range (ceilDiv (tjN s o) 128 + 1)).map fun p => min (128 * p) (tjN s o)

/-- The ranges of a job's destination, panel by panel (R232). -/
def panelRanges (s : State) (o : Op) : List (List (Nat × Nat)) :=
  let es := panelEnds s o
  (es.zip (es.drop 1)).map fun (c, e) =>
    let (x, y) := (tjColBytes s o c, tjColBytes s o e)
    (List.range (tjRows o)).map fun t => (tjDst o + tjOutStride s o * t + x, y - x)

/-- What an operation writes, in groups that are written whole: the panels of a job, lines of the named destinations of another; a page
that fails its check gives a copy no bytes (R153, R232). -/
def dueRanges (s : State) (o : Op) : List (List (Nat × Nat)) :=
  if o.cls = 7 && o.op = 0 then (panelRanges s o).map fun l => l.flatMap byLines
  else if o.cls = 8 then
    let (src, dst) := ((fcSrc s o).2, (fcDst s o).2)
    (cutOut src (fcLen o) (readPages s src (fcLen o)).1).flatMap fun (x, n) => (byLines (dst + x, n)).map fun r => [r]
  else (opNamed s o).flatMap fun (w, a, n) => if w then (byLines (a, n)).map fun r => [r] else []

/-- A range of memory as it stands in another state, poison included. -/
def rangeAs (s : State) (t : State) (x : Nat × Nat) : State :=
  let (a, n) := x
  let out (l : Nat) : Bool := l < a / 64 || (a + n - 1) / 64 < l
  { t with mem := { t.mem with
      cells := t.mem.cells.write a (memRead s a n),
      poison := t.mem.poison.filter out ++ s.mem.poison.filter (fun l => !out l) |>.foldl (fun l x => insNat x l) [],
      badWords := t.mem.badWords.filter (fun w => out (w / 8)) ++ s.mem.badWords.filter (fun w => !out (w / 8)) |>.foldl (fun l x => insNat x l) [] } }

/-- The commit step of an operation that writes in several steps: its work is done from the operands as they stand, and what its later
steps write is kept with it. DESIGN CHOICE (log entry 143): step k of n writes the groups up to ⌊k·groups/n⌋. -/
def firstWrites (s t : State) (o o' : Op) : State :=
  let rs := (dueRanges s o).filter fun l => !l.isEmpty
  let gs := rs.map fun l => l.map fun (a, n) => (a, memRead t a n, poisoned t a n)
  let d : Due := { groups := gs, total := gs.length, status := o'.status, steps := o'.steps, counts := o.cls = 8 }
  let t := (rs.flatMap id).foldl (rangeAs s) t
  let x := { o' with phase := .launched, steps := 0, status := 0, ctally := o.ctally, body := o.body, due := some d }
  writeDue (opUpd t o.ticket fun _ => x) x d (gs.length * o.ran / o'.steps)

/-- The work of an operation, its tallies apart where its bytes are counted as they are written. -/
def workOf (s : State) (o : Op) : State :=
  let s := if o.cls = 8 && writesBySteps s o then
      opUpd s o.ticket fun x => { x with ctally := none, body := setF x.body 179 1 0 }
    else s
  match opGet s o.ticket with
  | some o => nextState s (runOf o s)
  | none => s

/-- What a passed step of an operation does beside counting: nothing before the commit step; at it the operation's work, or the first of its
writes; after it the next of them. A batch step and a hand-off have commits of their own (R92, R118). -/
def stepWork (s : State) (t : Ticket) : State :=
  match opGet s t with
  | none => s
  | some o =>
    match o.due with
    | some d => tryWork (o.cls ≠ 5) (.run t) [] (fun s => writeDue s o d (d.total * o.ran / d.steps - (d.total - d.groups.length))) s
    | none =>
      if o.phase ≠ .launched || (o.cls = 3 && o.op = 3) || (o.cls = 8 && o.op = 5) || o.ran < commitStepOf s o then s
      else
        let w := heldAs s (nextState s (runOf o (unheld s)))
        match opGet w t with
        | none => w
        | some o' =>
          if o'.phase = .ended && o.ran < o'.steps && writesBySteps s o then
            let v := heldAs s (workOf (unheld s) o)
            (match opGet v t with | some o' => firstWrites s v o o' | none => w)
          else w

/-- A passed step of an operation: counted, with what it does. -/
def stepDone (s : State) (o : Op) (x : StepCheck) : State :=
  let s := stepEnd s o x
  if (opGet s o.ticket).any fun p => p.ran = o.ran + 1 then stepWork s o.ticket else s

/-- ENGINE_STEP_END (R40, R46, R332, R333); for a ticket not in flight, the end of an instruction of a core: with its checks passed, of the
core that runs the context in the ticket's upper bits (log entry 144). -/
def execEngineStepEnd (t : Ticket) (x : StepCheck) (s : State) : Res :=
  match opGet s t with
  | some o => whenOk (opStepping s o && o.cls ≠ 5) (stepOver (stepDone s o x) t) s
  | none =>
    whenOk (s.phase = .running)
      (match x with
       | .fail us => (ascending us).foldl (fun s u => if unitKind u = 3 && unitIn s u && coreSteps s u then coreFail s u else s) s
       | .pass => { s with ras := { s.ras with coreHeld := s.ras.coreHeld.filter fun u => coreOf s (t.toNat / 2 ^ 28) ≠ some u } }
       | .sawError x e => siteError s x e) s

/-- Everything that waits for memory served where it can be: host accesses first, then contexts, then engines and agents (R194). -/
def serveAll (s : State) : State := serveWorks (serveCtxs (serveWaiting s))

/-- What a step boundary of an in-bank manifest serves (R194): outside accesses to its banks, then the refresh that is due. -/
def bankBoundary (s : State) (t : Ticket) (st : Nat) : State :=
  let s := serveAll { s with mem := { s.mem with window := some t } }
  { s with mem := { s.mem with window := none, refreshDue := setF s.mem.refreshDue st 1 0 } }

/-- IN_BANK_STEP_END (R40, R193 to R195, R332): the last step copies the result to the destination rows. -/
def execInBankStepEnd (t : Ticket) (x : StepCheck) (s : State) : Res :=
  match opGet s t with
  | some o =>
    let t' := bankBoundary (stepOver (stepDone s o x) t) t (ibStack o)
    whenOk (opLive s o && o.cls = 5) t' s
  | none => .next s

/-- REFCLK_RETURN (R47): what waited for stacks at rest, or for a recall that the loss of the host link ended, is served (R194, R306). -/
def execRefclkReturn (gapUs : Nat) (s : State) : Res :=
  whenOk (s.phase ≠ .inReset && s.clk.away) (grantLoads (serveAll (refReturned gapUs s))) s

/-- OPERATION_COMPLETE (R69, R74): the banks of an in-bank manifest are free. -/
def execOperationComplete (t : Ticket) (s : State) : Res :=
  match opGet s t with
  | none => .next s
  | some o =>
    whenOk (s.phase = .running && o.phase = .ended) (let s' := completeOp t o s; if o.cls = 5 then serveAll s' else s') s

/-- MEMORY_ACCESS_COMPLETE (R62, R88). -/
def execMemoryAccessComplete (c : CtxId) (s : State) : Res :=
  whenOk (s.phase = .running && stateOf (ctxGet s c) = 3) (redoAccess s c) s

/-! ## Commands that end recalls (R295 to R302, R356) -/

/-- A command after which the contexts and works that waited for a recall are done anew, and then the loads that wait; one without effect
ends no recall. -/
def andServe (f : State → Res) (s : State) : Res :=
  let t := nextState s (f s)
  .next (if t = s then s else grantLoads (serveWorks (serveCtxs t)))

/-- HOST_LINE_RELEASE (R295). -/
def execHostLineRelease (ld : LdId) (line : BitVec 40) (back : Option (BitVec 512)) (s : State) : Res :=
  andServe (hostLineRelease ld line back) s

/-- BI_RESPONSE (R296): the recall ends and the held writes are applied. -/
def execBiResponse (ld : LdId) (line : BitVec 40) (back : Option (BitVec 512)) (s : State) : Res :=
  andServe (biResponse ld line back) s

/-- BI_TIMEOUT (R297). -/
def execBiTimeout (ld : LdId) (line : BitVec 40) (s : State) : Res := andServe (biTimeout ld line) s

/-- LD_DISABLE (R300). -/
def execLdDisable (a : Agent) (ld : LdId) (s : State) : Res := andServe (ldDisable a ld) s

/-- FUNCTION_LEVEL_RESET (R356). -/
def execFunctionLevelReset (ld : LdId) (s : State) : Res := andServe (functionLevelReset ld) s

/-- HOST_LINK_DOWN (R301). -/
def execHostLinkDown (s : State) : Res := andServe hostLinkDown s

/-- An access that may write CXD_LDCTL (R300): where it began a disable, recalls ended. -/
def afterDisable (s : State) : Res → Res
  | .next t => .next (if t.cxd.lds = s.cxd.lds then t else grantLoads (serveWorks (serveCtxs t)))
  | r => r

/-- REGISTER_WRITE (R25, R386, R387). -/
def execRegisterWrite (a : Agent) (r : RegTarget) (width : AccessWidth) (v : Word) (s : State) : Res :=
  afterDisable s (registerWrite a r width v s)

/-- ST32 (R88). -/
def execSt32 (c : CtxId) (w : Ins64) (s : State) : Res := afterDisable s (store 4 c w s)

/-- ST64 (R88). -/
def execSt64 (c : CtxId) (w : Ins64) (s : State) : Res := afterDisable s (store 8 c w s)

/-- FM_MLD_COMMAND (R292, R299, R304): an unbind ends the recalls of its logical device. -/
def execFmMldCommand (x : MldCommand) (s : State) : Res :=
  match x with
  | .unbind _ => andServe (fmMldCommand x) s
  | .bind _ | .info | .setRegion _ _ _ _ | .other _ => fmMldCommand x s

/-- IDE_FAILURE (R302). -/
def execIdeFailure (s : State) : Res := andServe ideFailure s

end Sys2Proof.Machine
end

