-- ==== Sys2Proof/Machine/Scalar.lean ====
section
/-! DEFINITION. The scalar instructions of class 0 that do not reach memory (R56, R84). -/
namespace Sys2Proof.Machine

/-- ADD (R84): s[sd] from s[sa] and b. -/
def execAdd (c : CtxId) (w : Ins64) (s : State) : Res := scalar64 c w (fun a b => a + b) s

/-- SUB (R84): s[sd] from s[sa] and b. -/
def execSub (c : CtxId) (w : Ins64) (s : State) : Res := scalar64 c w (fun a b => a - b) s

/-- MUL (R84): s[sd] from s[sa] and b. -/
def execMul (c : CtxId) (w : Ins64) (s : State) : Res := scalar64 c w (fun a b => a * b) s

/-- MULHU (R84): s[sd] from s[sa] and b. -/
def execMulhu (c : CtxId) (w : Ins64) (s : State) : Res := scalar64 c w (mulHigh) s

/-- DIVU (R84): s[sd] from s[sa] and b. -/
def execDivu (c : CtxId) (w : Ins64) (s : State) : Res := scalar64 c w (divU) s

/-- REMU (R84): s[sd] from s[sa] and b. -/
def execRemu (c : CtxId) (w : Ins64) (s : State) : Res := scalar64 c w (remU) s

/-- AND (R84): s[sd] from s[sa] and b. -/
def execAnd (c : CtxId) (w : Ins64) (s : State) : Res := scalar64 c w (fun a b => a &&& b) s

/-- OR (R84): s[sd] from s[sa] and b. -/
def execOr (c : CtxId) (w : Ins64) (s : State) : Res := scalar64 c w (fun a b => a ||| b) s

/-- XOR (R84): s[sd] from s[sa] and b. -/
def execXor (c : CtxId) (w : Ins64) (s : State) : Res := scalar64 c w (fun a b => a ^^^ b) s

/-- SHL (R84): s[sd] from s[sa] and b. -/
def execShl (c : CtxId) (w : Ins64) (s : State) : Res := scalar64 c w (fun a b => a <<< shAmt b) s

/-- SHR (R84): s[sd] from s[sa] and b. -/
def execShr (c : CtxId) (w : Ins64) (s : State) : Res := scalar64 c w (fun a b => a >>> shAmt b) s

/-- SAR (R84): s[sd] from s[sa] and b. -/
def execSar (c : CtxId) (w : Ins64) (s : State) : Res := scalar64 c w (fun a b => a.sshiftRight (shAmt b)) s

/-- MINU (R84): s[sd] from s[sa] and b. -/
def execMinu (c : CtxId) (w : Ins64) (s : State) : Res := scalar64 c w (minU) s

/-- MAXU (R84): s[sd] from s[sa] and b. -/
def execMaxu (c : CtxId) (w : Ins64) (s : State) : Res := scalar64 c w (maxU) s

/-- CMPEQ (R84): p[sd] from the equality of s[sa] and b. -/
def execCmpeq (c : CtxId) (w : Ins64) (s : State) : Res := compare64 c w (fun a b => decide (a = b)) s

/-- CMPLTU (R84): p[sd] from the unsigned less-than of s[sa] and b. -/
def execCmpltu (c : CtxId) (w : Ins64) (s : State) : Res := compare64 c w (fun a b => decide (a.toNat < b.toNat)) s

/-- CMPLT (R84): p[sd] from the signed less-than of s[sa] and b. -/
def execCmplt (c : CtxId) (w : Ins64) (s : State) : Res := compare64 c w (ltS) s

/-- POPC (R84): the ones of s[sa] counted. -/
def execPopc (c : CtxId) (w : Ins64) (s : State) : Res := scalar64 c w (fun a _ => BitVec.ofNat 64 (popCount a)) s

/-- CLZ (R84): the leading zeros of s[sa] counted. -/
def execClz (c : CtxId) (w : Ins64) (s : State) : Res := scalar64 c w (fun a _ => BitVec.ofNat 64 (leadZeros a)) s

/-- LI (R84): s[sd] := imm64. -/
def execLi (c : CtxId) (w : Ins128) (s : State) : Res :=
  issue128 0 c w (fun s => .adv (regSet s c w.sd.toNat w.imm64)) s

/-- A special register's value and the lowest level that reads it (R56). -/
def readSpecial (s : State) (c : Nat) (k : Nat) : Nat × Word :=
  let x := ctxGet s c
  match k with
  | 0 => (0, x.pc) | 1 => (0, x.cs) | 2 => (0, x.fa) | 3 => (0, s.clk.bell) | 4 => (1, x.hbOp) | 5 => (2, x.hbSt)
  | 6 => (1, x.gateOp) | 7 => (2, x.gateSt) | 8 => (1, x.epcOp) | 9 => (1, x.ecsOp) | 10 => (2, x.epcSt) | _ => (2, x.ecsSt)

/-- A special register written at a level; none where the level may not write it (R56). -/
def writeSpecial (x : Ctx) (k : Nat) (v : Word) : Option Ctx :=
  let lv := privOf x
  let at' (need : Nat) (y : Ctx) : Option Ctx := if need ≤ lv then some y else none
  match k with
  | 0 => none
  | 1 => some { x with cs := writeCs x.cs v lv }
  | 2 => at' 1 { x with fa := v }
  | 3 => none
  | 4 => at' 1 { x with hbOp := v }
  | 5 => at' 2 { x with hbSt := v }
  | 6 => at' 1 { x with gateOp := v }
  | 7 => at' 2 { x with gateSt := v }
  | 8 => at' 1 { x with epcOp := v }
  | 9 => at' 1 { x with ecsOp := v }
  | 10 => at' 2 { x with epcSt := v }
  | _ => at' 2 { x with ecsSt := v }

/-- imm[5:0] names a special register that is not reserved, imm[27:6] is zero (R56, R85). -/
def specialOk (w : Ins64) : Bool := decide (w.imm.toNat < 12)

/-- MFSR (R56): s[sd] := a special register. -/
def execMfsr (c : CtxId) (w : Ins64) (s : State) : Res :=
  issue64 0 (specialOk w) c w (fun s =>
    let (lv, v) := readSpecial s c w.imm.toNat
    if privOf (ctxGet s c) < lv then .exc s Cause.privilege none else .adv (regSet s c w.sd.toNat v)) s

/-- MTSR (R56): a special register := s[sa]. -/
def execMtsr (c : CtxId) (w : Ins64) (s : State) : Res :=
  issue64 0 (specialOk w) c w (fun s =>
    let x := ctxGet s c
    match writeSpecial x w.imm.toNat (opA x w.sa) with
    | none => .exc s Cause.privilege none
    | some y => .adv (ctxSet s c y)) s

/-- An instruction on predicates (R84, R85). -/
def pred64 (c : CtxId) (w : Ins64) (two : Bool) (f : Bool → Bool → Bool) (s : State) : Res :=
  issue64 0 (narrow 3 w.sd && narrow 3 w.sa && (!two || narrow 3 w.sb)) c w (fun s =>
    let x := ctxGet s c
    .adv (ctxSet s c (setP x w.sd.toNat (f (getP x w.sa.toNat) (getP x (w.sb.toNat % 8)))))) s

/-- PAND (R84): p[sd] := p[sa] and p[sb]. -/
def execPand (c : CtxId) (w : Ins64) (s : State) : Res := pred64 c w true (fun a b => a && b) s

/-- POR (R84): p[sd] := p[sa] or p[sb]. -/
def execPor (c : CtxId) (w : Ins64) (s : State) : Res := pred64 c w true (fun a b => a || b) s

/-- PNOT (R84): p[sd] := not p[sa]. -/
def execPnot (c : CtxId) (w : Ins64) (s : State) : Res := pred64 c w false (fun a _ => !a) s

/-- FENCE (R84, R88): every store of the context is visible once its instruction has completed, so it only passes. -/
def execFence (c : CtxId) (w : Ins64) (s : State) : Res := issue64 0 true c w (fun s => .adv s) s

end Sys2Proof.Machine
end

