-- ==== Sys2Proof/Machine/Dispatch.lean ====
section
/-! DEFINITION. The dispatch of the commands to their meanings, one arm per constructor. -/
namespace Sys2Proof.Machine

/-- The effect of a command on everything but the queue of waiting commands. -/
def exec (i : Instr) (s : State) : Host.Outcome State Fault Refusal :=
  match i with
  | .add c w => Sys2Proof.Machine.execAdd c w s
  | .sub c w => Sys2Proof.Machine.execSub c w s
  | .mul c w => Sys2Proof.Machine.execMul c w s
  | .mulhu c w => Sys2Proof.Machine.execMulhu c w s
  | .divu c w => Sys2Proof.Machine.execDivu c w s
  | .remu c w => Sys2Proof.Machine.execRemu c w s
  | .and c w => Sys2Proof.Machine.execAnd c w s
  | .or c w => Sys2Proof.Machine.execOr c w s
  | .xor c w => Sys2Proof.Machine.execXor c w s
  | .shl c w => Sys2Proof.Machine.execShl c w s
  | .shr c w => Sys2Proof.Machine.execShr c w s
  | .sar c w => Sys2Proof.Machine.execSar c w s
  | .minu c w => Sys2Proof.Machine.execMinu c w s
  | .maxu c w => Sys2Proof.Machine.execMaxu c w s
  | .cmpeq c w => Sys2Proof.Machine.execCmpeq c w s
  | .cmpltu c w => Sys2Proof.Machine.execCmpltu c w s
  | .cmplt c w => Sys2Proof.Machine.execCmplt c w s
  | .popc c w => Sys2Proof.Machine.execPopc c w s
  | .clz c w => Sys2Proof.Machine.execClz c w s
  | .li c w => Sys2Proof.Machine.execLi c w s
  | .ld8 c w => Sys2Proof.Machine.execLd8 c w s
  | .ld16 c w => Sys2Proof.Machine.execLd16 c w s
  | .ld32 c w => Sys2Proof.Machine.execLd32 c w s
  | .ld64 c w => Sys2Proof.Machine.execLd64 c w s
  | .st8 c w => Sys2Proof.Machine.execSt8 c w s
  | .st16 c w => Sys2Proof.Machine.execSt16 c w s
  | .st32 c w => Sys2Proof.Machine.execSt32 c w s
  | .st64 c w => Sys2Proof.Machine.execSt64 c w s
  | .mfsr c w => Sys2Proof.Machine.execMfsr c w s
  | .mtsr c w => Sys2Proof.Machine.execMtsr c w s
  | .pand c w => Sys2Proof.Machine.execPand c w s
  | .por c w => Sys2Proof.Machine.execPor c w s
  | .pnot c w => Sys2Proof.Machine.execPnot c w s
  | .fence c w => Sys2Proof.Machine.execFence c w s
  | .br c w => Sys2Proof.Machine.execBr c w s
  | .jmp c w => Sys2Proof.Machine.execJmp c w s
  | .jal c w => Sys2Proof.Machine.execJal c w s
  | .call c w => Sys2Proof.Machine.execCall c w s
  | .eret c w => Sys2Proof.Machine.execEret c w s
  | .brk c w => Sys2Proof.Machine.execBreak c w s
  | .nop c w => Sys2Proof.Machine.execNop c w s
  | .yield c w => Sys2Proof.Machine.execYield c w s
  | .cstart c w => Sys2Proof.Machine.execCstart c w s
  | .cstop c w => Sys2Proof.Machine.execCstop c w s
  | .chalt c w => Sys2Proof.Machine.execChalt c w s
  | .cresume c w => Sys2Proof.Machine.execCresume c w s
  | .tset c w => Sys2Proof.Machine.execTset c w s
  | .tadd c w => Sys2Proof.Machine.execTadd c w s
  | .tread c w => Sys2Proof.Machine.execTread c w s
  | .twait c w => Sys2Proof.Machine.execTwait c w s
  | .bwait c w => Sys2Proof.Machine.execBwait c w s
  | .twaitb c w => Sys2Proof.Machine.execTwaitb c w s
  | .waitWake c => Sys2Proof.Machine.execWaitWake c s
  | .abort c w => Sys2Proof.Machine.execAbort c w s
  | .qbind c w => Sys2Proof.Machine.execQbind c w s
  | .tbind c w => Sys2Proof.Machine.execTbind c w s
  | .qfree c w => Sys2Proof.Machine.execQfree c w s
  | .qdesc c w => Sys2Proof.Machine.execQdesc c w s
  | .postResume w => Sys2Proof.Machine.execPostResume w s
  | .memoryAccessComplete c => Sys2Proof.Machine.execMemoryAccessComplete c s
  | .lpost p => Sys2Proof.Machine.execLpost p s
  | .lread c w => Sys2Proof.Machine.execLread c w s
  | .lset c w => Sys2Proof.Machine.execLset c w s
  | .lstep p => Sys2Proof.Machine.execLstep p s
  | .lstepBuildRetry p => Sys2Proof.Machine.execLstepBuildRetry p s
  | .lstepComplete p => Sys2Proof.Machine.execLstepComplete p s
  | .lend p => Sys2Proof.Machine.execLend p s
  | .labort p => Sys2Proof.Machine.execLabort p s
  | .lswap p => Sys2Proof.Machine.execLswap p s
  | .deadlineReached r => Sys2Proof.Machine.execDeadlineReached r s
  | .liveWalk r => Sys2Proof.Machine.execLiveWalk r s
  | .pxlate c w => Sys2Proof.Machine.execPxlate c w s
  | .pinv c w => Sys2Proof.Machine.execPinv c w s
  | .pmapOpen p => Sys2Proof.Machine.execPmapOpen p s
  | .pmapShare p => Sys2Proof.Machine.execPmapShare p s
  | .pmapTake p => Sys2Proof.Machine.execPmapTake p s
  | .pmapPlace p => Sys2Proof.Machine.execPmapPlace p s
  | .pmapReturn p => Sys2Proof.Machine.execPmapReturn p s
  | .pmapGive p => Sys2Proof.Machine.execPmapGive p s
  | .punmap p => Sys2Proof.Machine.execPunmap p s
  | .plook p => Sys2Proof.Machine.execPlook p s
  | .pindex p => Sys2Proof.Machine.execPindex p s
  | .pdigest p => Sys2Proof.Machine.execPdigest p s
  | .pappend p => Sys2Proof.Machine.execPappend p s
  | .ppress p => Sys2Proof.Machine.execPpress p s
  | .pverify p => Sys2Proof.Machine.execPverify p s
  | .rcopy p => Sys2Proof.Machine.execRcopy p s
  | .rzero p => Sys2Proof.Machine.execRzero p s
  | .rnot p => Sys2Proof.Machine.execRnot p s
  | .rand p => Sys2Proof.Machine.execRand p s
  | .ror p => Sys2Proof.Machine.execRor p s
  | .rxor p => Sys2Proof.Machine.execRxor p s
  | .rmaj p => Sys2Proof.Machine.execRmaj p s
  | .rscore p => Sys2Proof.Machine.execRscore p s
  | .rselect p => Sys2Proof.Machine.execRselect p s
  | .inBankStepEnd t x => Sys2Proof.Machine.execInBankStepEnd t x s
  | .refreshDue st => Sys2Proof.Machine.execRefreshDue st s
  | .stackHotChange st celsius => Sys2Proof.Machine.execStackHotChange st celsius s
  | .hmv p => Sys2Proof.Machine.execHmv p s
  | .hqk p => Sys2Proof.Machine.execHqk p s
  | .hpv p => Sys2Proof.Machine.execHpv p s
  | .hsoftFold p => Sys2Proof.Machine.execHsoftFold p s
  | .hsoftFinish p => Sys2Proof.Machine.execHsoftFinish p s
  | .hsoftMerge p => Sys2Proof.Machine.execHsoftMerge p s
  | .hnorm p => Sys2Proof.Machine.execHnorm p s
  | .hact p => Sys2Proof.Machine.execHact p s
  | .hrope p => Sys2Proof.Machine.execHrope p s
  | .hadd p => Sys2Proof.Machine.execHadd p s
  | .hswap p => Sys2Proof.Machine.execHswap p s
  | .tjob p => Sys2Proof.Machine.execTjob p s
  | .tgather p => Sys2Proof.Machine.execTgather p s
  | .tswap p => Sys2Proof.Machine.execTswap p s
  | .fcopy p => Sys2Proof.Machine.execFcopy p s
  | .fred p => Sys2Proof.Machine.execFred p s
  | .fmcast p => Sys2Proof.Machine.execFmcast p s
  | .fatom p => Sys2Proof.Machine.execFatom p s
  | .finv p => Sys2Proof.Machine.execFinv p s
  | .fhand p => Sys2Proof.Machine.execFhand p s
  | .qpsend p => Sys2Proof.Machine.execQpsend p s
  | .qpctlCreate p => Sys2Proof.Machine.execQpctlCreate p s
  | .qpctlModify p => Sys2Proof.Machine.execQpctlModify p s
  | .qpctlQuery p => Sys2Proof.Machine.execQpctlQuery p s
  | .qpctlDestroy p => Sys2Proof.Machine.execQpctlDestroy p s
  | .qpctlKeyset p => Sys2Proof.Machine.execQpctlKeyset p s
  | .qpctlKeyflip p => Sys2Proof.Machine.execQpctlKeyflip p s
  | .qpctlRecv p => Sys2Proof.Machine.execQpctlRecv p s
  | .qpctlResume p => Sys2Proof.Machine.execQpctlResume p s
  | .cread p => Sys2Proof.Machine.execCread p s
  | .cwrite p => Sys2Proof.Machine.execCwrite p s
  | .cdisc p => Sys2Proof.Machine.execCdisc p s
  | .cgc p => Sys2Proof.Machine.execCgc p s
  | .csync p => Sys2Proof.Machine.execCsync p s
  | .ccal p => Sys2Proof.Machine.execCcal p s
  | .pwread c w => Sys2Proof.Machine.execPwread c w s
  | .pwgate c w => Sys2Proof.Machine.execPwgate c w s
  | .pwhold c w => Sys2Proof.Machine.execPwhold c w s
  | .pwbudget c w => Sys2Proof.Machine.execPwbudget c w s
  | .pwenv c w => Sys2Proof.Machine.execPwenv c w s
  | .pwvset c w => Sys2Proof.Machine.execPwvset c w s
  | .ptwr c w => Sys2Proof.Machine.execPtwr c w s
  | .ptrd c w => Sys2Proof.Machine.execPtrd c w s
  | .partset c w => Sys2Proof.Machine.execPartset c w s
  | .sparein c w => Sys2Proof.Machine.execSparein c w s
  | .retire c w => Sys2Proof.Machine.execRetire c w s
  | .preset c w => Sys2Proof.Machine.execPreset c w s
  | .partialResetEnd r => Sys2Proof.Machine.execPartialResetEnd r s
  | .idfrd p => Sys2Proof.Machine.execIdfrd p s
  | .idfwr p => Sys2Proof.Machine.execIdfwr p s
  | .recordAppend x => Sys2Proof.Machine.execRecordAppend x s
  | .manifestLaunch q => Sys2Proof.Machine.execManifestLaunch q s
  | .engineStepEnd t x => Sys2Proof.Machine.execEngineStepEnd t x s
  | .operationComplete t => Sys2Proof.Machine.execOperationComplete t s
  | .spareDecisionTimeout u => Sys2Proof.Machine.execSpareDecisionTimeout u s
  | .bellEdge => Sys2Proof.Machine.execBellEdge s
  | .shaperRelease k => Sys2Proof.Machine.execShaperRelease k s
  | .armFire ld j => Sys2Proof.Machine.execArmFire ld j s
  | .bellStart a v => Sys2Proof.Machine.execBellStart a v s
  | .bellCountHalfRead a high => Sys2Proof.Machine.execBellCountHalfRead a high s
  | .fmcStart a v => Sys2Proof.Machine.execFmcStart a v s
  | .fmcDone edges => Sys2Proof.Machine.execFmcDone edges s
  | .fmcTimeout => Sys2Proof.Machine.execFmcTimeout s
  | .paceReading k reading => Sys2Proof.Machine.execPaceReading k reading s
  | .paceResume k => Sys2Proof.Machine.execPaceResume k s
  | .refclkLoss => Sys2Proof.Machine.execRefclkLoss s
  | .refclkReturn gapUs => Sys2Proof.Machine.execRefclkReturn gapUs s
  | .mapInstall a v => Sys2Proof.Machine.execMapInstall a v s
  | .lcacheWrite a v => Sys2Proof.Machine.execLcacheWrite a v s
  | .rowmapWrite a st hi v => Sys2Proof.Machine.execRowmapWrite a st hi v s
  | .nodeSet a v => Sys2Proof.Machine.execNodeSet a v s
  | .ledgerModeWrite a v => Sys2Proof.Machine.execLedgerModeWrite a v s
  | .tlyAdd a k v => Sys2Proof.Machine.execTlyAdd a k v s
  | .tlySet a k v => Sys2Proof.Machine.execTlySet a k v s
  | .tlyArmWrite a ld j hi v => Sys2Proof.Machine.execTlyArmWrite a ld j hi v s
  | .hostRingDoorbell a ld v => Sys2Proof.Machine.execHostRingDoorbell a ld v s
  | .hostRingRecord ld x => Sys2Proof.Machine.execHostRingRecord ld x s
  | .ldEnable a ld => Sys2Proof.Machine.execLdEnable a ld s
  | .ldDisable a ld => Sys2Proof.Machine.execLdDisable a ld s
  | .ldDisableComplete ld => Sys2Proof.Machine.execLdDisableComplete ld s
  | .keyLoad a slot => Sys2Proof.Machine.execKeyLoad a slot s
  | .keyClear a slot => Sys2Proof.Machine.execKeyClear a slot s
  | .keyOpDone => Sys2Proof.Machine.execKeyOpDone s
  | .measurementExtend a v => Sys2Proof.Machine.execMeasurementExtend a v s
  | .secRngRead a => Sys2Proof.Machine.execSecRngRead a s
  | .shaperWrite a k v => Sys2Proof.Machine.execShaperWrite a k v s
  | .policerWrite a k v => Sys2Proof.Machine.execPolicerWrite a k v s
  | .registerWrite a r width v => Sys2Proof.Machine.execRegisterWrite a r width v s
  | .linkFlitError p => Sys2Proof.Machine.execLinkFlitError p s
  | .controlFlit p f => Sys2Proof.Machine.execControlFlit p f s
  | .portTrained p t => Sys2Proof.Machine.execPortTrained p t s
  | .read k => Sys2Proof.Machine.execRead k s
  | .readResp k => Sys2Proof.Machine.execReadResp k s
  | .write k => Sys2Proof.Machine.execWrite k s
  | .ack k => Sys2Proof.Machine.execAck k s
  | .atomic k => Sys2Proof.Machine.execAtomic k s
  | .atomicResp k => Sys2Proof.Machine.execAtomicResp k s
  | .reduce k => Sys2Proof.Machine.execReduce k s
  | .inval k => Sys2Proof.Machine.execInval k s
  | .indexLookup m => Sys2Proof.Machine.execIndexLookup m s
  | .indexClaim m ctimeNs => Sys2Proof.Machine.execIndexClaim m ctimeNs s
  | .indexInsert m => Sys2Proof.Machine.execIndexInsert m s
  | .indexRemoval m => Sys2Proof.Machine.execIndexRemoval m s
  | .indexResponse tag x => Sys2Proof.Machine.execIndexResponse tag x s
  | .hand k => Sys2Proof.Machine.execHand k s
  | .handResponse k => Sys2Proof.Machine.execHandResponse k s
  | .memberHello k => Sys2Proof.Machine.execMemberHello k s
  | .memberBeat k => Sys2Proof.Machine.execMemberBeat k s
  | .memberPropose k => Sys2Proof.Machine.execMemberPropose k s
  | .memberAccept k => Sys2Proof.Machine.execMemberAccept k s
  | .memberCommit k => Sys2Proof.Machine.execMemberCommit k s
  | .memberLeave k => Sys2Proof.Machine.execMemberLeave k s
  | .memberOffer k => Sys2Proof.Machine.execMemberOffer k s
  | .memberPeriod => Sys2Proof.Machine.execMemberPeriod s
  | .proposalTimeout => Sys2Proof.Machine.execProposalTimeout s
  | .memberMinority => Sys2Proof.Machine.execMemberMinority s
  | .deadTarget tag => Sys2Proof.Machine.execDeadTarget tag s
  | .reduceResend tag => Sys2Proof.Machine.execReduceResend tag s
  | .editionResend tag => Sys2Proof.Machine.execEditionResend tag s
  | .landingStoreFlush block => Sys2Proof.Machine.execLandingStoreFlush block s
  | .qpData k => Sys2Proof.Machine.execQpData k s
  | .qpAck k => Sys2Proof.Machine.execQpAck k s
  | .qpRnr k => Sys2Proof.Machine.execQpRnr k s
  | .qpNak k => Sys2Proof.Machine.execQpNak k s
  | .qpCancel k => Sys2Proof.Machine.execQpCancel k s
  | .qpAckTimer n => Sys2Proof.Machine.execQpAckTimer n s
  | .qpRetransmitTimeout n psn => Sys2Proof.Machine.execQpRetransmitTimeout n psn s
  | .qpContextFetched n slot => Sys2Proof.Machine.execQpContextFetched n slot s
  | .qpFetchSlow n => Sys2Proof.Machine.execQpFetchSlow n s
  | .qpPageWaitLimit n => Sys2Proof.Machine.execQpPageWaitLimit n s
  | .hostLinkTrain t => Sys2Proof.Machine.execHostLinkTrain t s
  | .hostLinkDown => Sys2Proof.Machine.execHostLinkDown s
  | .hostMemRead ld dpa want err => Sys2Proof.Machine.execHostMemRead ld dpa want err s
  | .hostMemWrite ld dpa data bytes poison => Sys2Proof.Machine.execHostMemWrite ld dpa data bytes poison s
  | .hostLineRelease ld line back => Sys2Proof.Machine.execHostLineRelease ld line back s
  | .biResponse ld line back => Sys2Proof.Machine.execBiResponse ld line back s
  | .biTimeout ld line => Sys2Proof.Machine.execBiTimeout ld line s
  | .extentReleased base => Sys2Proof.Machine.execExtentReleased base s
  | .ideFailure => Sys2Proof.Machine.execIdeFailure s
  | .ideKm k => Sys2Proof.Machine.execIdeKm k s
  | .functionLevelReset ld => Sys2Proof.Machine.execFunctionLevelReset ld s
  | .spdmGetVersion => Sys2Proof.Machine.execSpdmGetVersion s
  | .spdmGetCapabilities v => Sys2Proof.Machine.execSpdmGetCapabilities v s
  | .spdmNegotiateAlgorithms offer => Sys2Proof.Machine.execSpdmNegotiateAlgorithms offer s
  | .spdmGetDigests => Sys2Proof.Machine.execSpdmGetDigests s
  | .spdmGetCertificate slot off len => Sys2Proof.Machine.execSpdmGetCertificate slot off len s
  | .spdmChallenge slot nonce => Sys2Proof.Machine.execSpdmChallenge slot nonce s
  | .spdmGetMeasurements index signed nonce => Sys2Proof.Machine.execSpdmGetMeasurements index signed nonce s
  | .spdmKeyExchange reqId share => Sys2Proof.Machine.execSpdmKeyExchange reqId share s
  | .spdmFinish sid macOk => Sys2Proof.Machine.execSpdmFinish sid macOk s
  | .spdmHeartbeat sid => Sys2Proof.Machine.execSpdmHeartbeat sid s
  | .spdmKeyUpdate sid op => Sys2Proof.Machine.execSpdmKeyUpdate sid op s
  | .spdmEndSession sid => Sys2Proof.Machine.execSpdmEndSession sid s
  | .doeDiscovery inst index => Sys2Proof.Machine.execDoeDiscovery inst index s
  | .cdatTableAccess handle => Sys2Proof.Machine.execCdatTableAccess handle s
  | .identify m => Sys2Proof.Machine.execIdentify m s
  | .backgroundOperationStatus m => Sys2Proof.Machine.execBackgroundOperationStatus m s
  | .getEventRecords m => Sys2Proof.Machine.execGetEventRecords m s
  | .clearEventRecords m x => Sys2Proof.Machine.execClearEventRecords m x s
  | .getInterruptPolicy m => Sys2Proof.Machine.execGetInterruptPolicy m s
  | .setInterruptPolicy m v => Sys2Proof.Machine.execSetInterruptPolicy m v s
  | .getFwInfo m => Sys2Proof.Machine.execGetFwInfo m s
  | .transferFw m x => Sys2Proof.Machine.execTransferFw m x s
  | .activateFw m slot => Sys2Proof.Machine.execActivateFw m slot s
  | .firmwareVerify x => Sys2Proof.Machine.execFirmwareVerify x s
  | .getTimestamp m => Sys2Proof.Machine.execGetTimestamp m s
  | .setTimestamp m v => Sys2Proof.Machine.execSetTimestamp m v s
  | .getSupportedLogs m => Sys2Proof.Machine.execGetSupportedLogs m s
  | .getLog m uuid off len => Sys2Proof.Machine.execGetLog m uuid off len s
  | .identifyMemoryDevice m => Sys2Proof.Machine.execIdentifyMemoryDevice m s
  | .getHealthInfo m => Sys2Proof.Machine.execGetHealthInfo m s
  | .getPoisonList m dpa len => Sys2Proof.Machine.execGetPoisonList m dpa len s
  | .injectPoison m dpa => Sys2Proof.Machine.execInjectPoison m dpa s
  | .clearPoison m dpa data => Sys2Proof.Machine.execClearPoison m dpa data s
  | .getDynamicCapacityConfiguration m => Sys2Proof.Machine.execGetDynamicCapacityConfiguration m s
  | .getDynamicCapacityExtentList m start count => Sys2Proof.Machine.execGetDynamicCapacityExtentList m start count s
  | .addDynamicCapacityResponse m xs => Sys2Proof.Machine.execAddDynamicCapacityResponse m xs s
  | .releaseDynamicCapacity m xs => Sys2Proof.Machine.execReleaseDynamicCapacity m xs s
  | .fmAddCapacity ld region x => Sys2Proof.Machine.execFmAddCapacity ld region x s
  | .fmReleaseCapacity ld x forced => Sys2Proof.Machine.execFmReleaseCapacity ld x forced s
  | .fmMldCommand x => Sys2Proof.Machine.execFmMldCommand x s
  | .backgroundCommandComplete m => Sys2Proof.Machine.execBackgroundCommandComplete m s
  | .readFloorPlanTable m => Sys2Proof.Machine.execReadFloorPlanTable m s
  | .readFaultRecords m since => Sys2Proof.Machine.execReadFaultRecords m since s
  | .readTelemetry m items => Sys2Proof.Machine.execReadTelemetry m items s
  | .setRecallBound m v => Sys2Proof.Machine.execSetRecallBound m v s
  | .mailboxUnsupportedOpcode m opcode => Sys2Proof.Machine.execMailboxUnsupportedOpcode m opcode s
  | .smbusWrite off data pecOk => Sys2Proof.Machine.execSmbusWrite off data pecOk s
  | .smbusSetOffset off pecOk => Sys2Proof.Machine.execSmbusSetOffset off pecOk s
  | .smbusRead pecOk => Sys2Proof.Machine.execSmbusRead pecOk s
  | .ageSweep p => Sys2Proof.Machine.execAgeSweep p s
  | .keeperEvict p => Sys2Proof.Machine.execKeeperEvict p s
  | .returnAgentLayer p xs => Sys2Proof.Machine.execReturnAgentLayer p xs s
  | .repairAgent p x => Sys2Proof.Machine.execRepairAgent p x s
  | .rowSoftRepair x => Sys2Proof.Machine.execRowSoftRepair x s
  | .protectedScrub st off err => Sys2Proof.Machine.execProtectedScrub st off err s
  | .openScrub p group layer => Sys2Proof.Machine.execOpenScrub p group layer s
  | .sramScrub u off err => Sys2Proof.Machine.execSramScrub u off err s
  | .stackLoss st => Sys2Proof.Machine.execStackLoss st s
  | .flashProgramComplete slot => Sys2Proof.Machine.execFlashProgramComplete slot s
  | .flashProgramFail x => Sys2Proof.Machine.execFlashProgramFail x s
  | .journalWrite => Sys2Proof.Machine.execJournalWrite s
  | .snapshotPass => Sys2Proof.Machine.execSnapshotPass s
  | .gcBackground target => Sys2Proof.Machine.execGcBackground target s
  | .mapRebuild x => Sys2Proof.Machine.execMapRebuild x s
  | .pwrfail ns flushUs => Sys2Proof.Machine.execPwrfail ns flushUs s
  | .perstAssert flushUs => Sys2Proof.Machine.execPerstAssert flushUs s
  | .perstDeassert x => Sys2Proof.Machine.execPerstDeassert x s
  | .hubPowerWave h drawW waveW failed => Sys2Proof.Machine.execHubPowerWave h drawW waveW failed s
  | .tileWave w drawW waveW failed => Sys2Proof.Machine.execTileWave w drawW waveW failed s
  | .railFault rail ns => Sys2Proof.Machine.execRailFault rail ns s
  | .powerSample x => Sys2Proof.Machine.execPowerSample x s
  | .powerLimitRelease => Sys2Proof.Machine.execPowerLimitRelease s
  | .thermalThrottle d celsius => Sys2Proof.Machine.execThermalThrottle d celsius s
  | .thermalTrip d celsius => Sys2Proof.Machine.execThermalTrip d celsius s
  | .thermalClear d celsius => Sys2Proof.Machine.execThermalClear d celsius s
  | .thermComparator d celsius => Sys2Proof.Machine.execThermComparator d celsius s
  | .controlFlitInterval p => Sys2Proof.Machine.execControlFlitInterval p s
  | .throttleEnd d celsius => Sys2Proof.Machine.execThrottleEnd d celsius s
  | .pwrfailDeassert => Sys2Proof.Machine.execPwrfailDeassert s
  | .powerReturn => Sys2Proof.Machine.execPowerReturn s
  | .flashEraseComplete target block => Sys2Proof.Machine.execFlashEraseComplete target block s
  | .rngHealthTest failing => Sys2Proof.Machine.execRngHealthTest failing s

end Sys2Proof.Machine
end

