-- ==== Sys2Proof/Machine/Fetch.lean ====
section
/-! DEFINITION. What a control core does by itself: it picks a context, fetches the instruction at its pc, decodes it by class and
op, and issues it (R5, R51, R59, R61, R84). The step runs it while no command waits (log entry 1). -/
namespace Sys2Proof.Machine

/-! ## The choice of a context (R51) -/

/-- The contexts of a core slot that may issue. -/
def issuable (s : State) (k : Nat) : List CtxId := (slotCtxs (k * 8)).filterMap fun c =>
  if h : c < 128 then (if canIssue s ⟨c, h⟩ then some ⟨c, h⟩ else none) else none

/-- The next of the contexts of a core slot, of equal priority, that may issue: the first above the one of that priority that issued
last, around. -/
def nextOf (s : State) (k : Nat) (cs : List CtxId) : Option CtxId :=
  let prio := (cs.head?.map fun (c : CtxId) => prioOf (ctxGet s c.val)).getD 0
  let from' := ((slotCtxs (k * 8)).find? fun d => (ctxGet s d).last && prioOf (ctxGet s d) = prio).map (· + 1)
  (cs.find? fun (c : CtxId) => decide (from'.getD 0 ≤ c.val)).orElse fun _ => cs.head?

/-- The core slot that issues next, and its context: the first slot above the last one, around. DESIGN CHOICE (log entry 1): the
cores take turns. -/
def nextIssue (s : State) : Option (Nat × CtxId) :=
  ((List.range 16).map fun i => (s.turn + 1 + i) % 16).findSome? fun k => (nextOf s k (issuable s k)).map fun c => (k, c)

/-! ## The instruction word (R59) -/

/-- n bytes of code at an address that a context of core slot k fetches from: memory, or the steward image in boot SRAM. -/
def codeNum (s : State) (k a n : Nat) : Nat :=
  if inBoot a 8 then ofLe (((imgPayload s).drop (a - Config.bootPayload.toNat)).take n) else memNum s (memKey k a) n

/-- The fields of a 64-bit word. -/
def fields64 (x : Nat) : Ins64 :=
  { imm := BitVec.ofNat 28 (bf x 36 28), ib := x.testBit 35, sb := BitVec.ofNat 6 (bf x 29 6), sa := BitVec.ofNat 6 (bf x 23 6),
    sd := BitVec.ofNat 6 (bf x 17 6), pneg := x.testBit 16, pred := BitVec.ofNat 3 (bf x 13 3), len := x.testBit 0 }

/-- The fields of a 128-bit word. -/
def fields128 (x : Nat) : Ins128 :=
  { imm64 := BitVec.ofNat 64 (bf x 64 64), resv := BitVec.ofNat 7 (bf x 57 7), ord := x.testBit 56,
    whn := BitVec.ofNat 3 (bf x 53 3), tl := BitVec.ofNat 4 (bf x 49 4), tc := BitVec.ofNat 4 (bf x 45 4),
    q := BitVec.ofNat 4 (bf x 41 4), sc := BitVec.ofNat 6 (bf x 35 6), sb := BitVec.ofNat 6 (bf x 29 6),
    sa := BitVec.ofNat 6 (bf x 23 6), sd := BitVec.ofNat 6 (bf x 17 6), pneg := x.testBit 16,
    pred := BitVec.ofNat 3 (bf x 13 3), len := x.testBit 0 }

/-- Class 0x0, scalar. -/
def decodeScalar (c : CtxId) (x op : Nat) : Option Instr :=
  let w := fields64 x
  match op with
  | 0x00 => some (.add c w) | 0x01 => some (.sub c w) | 0x02 => some (.mul c w) | 0x03 => some (.mulhu c w)
  | 0x04 => some (.divu c w) | 0x05 => some (.remu c w) | 0x06 => some (.and c w) | 0x07 => some (.or c w)
  | 0x08 => some (.xor c w) | 0x09 => some (.shl c w) | 0x0A => some (.shr c w) | 0x0B => some (.sar c w)
  | 0x0C => some (.minu c w) | 0x0D => some (.maxu c w) | 0x0E => some (.cmpeq c w) | 0x0F => some (.cmpltu c w)
  | 0x10 => some (.cmplt c w) | 0x11 => some (.popc c w) | 0x12 => some (.clz c w) | 0x13 => some (.li c (fields128 x))
  | 0x14 => some (.ld8 c w) | 0x15 => some (.ld16 c w) | 0x16 => some (.ld32 c w) | 0x17 => some (.ld64 c w)
  | 0x18 => some (.st8 c w) | 0x19 => some (.st16 c w) | 0x1A => some (.st32 c w) | 0x1B => some (.st64 c w)
  | 0x1C => some (.mfsr c w) | 0x1D => some (.mtsr c w) | 0x1E => some (.pand c w) | 0x1F => some (.por c w)
  | 0x20 => some (.pnot c w) | 0x21 => some (.fence c w)
  | _ => none

/-- Class 0x1, control flow. -/
def decodeControl (c : CtxId) (x op : Nat) : Option Instr :=
  let w := fields64 x
  match op with
  | 0x00 => some (.br c w) | 0x01 => some (.jmp c w) | 0x02 => some (.jal c w) | 0x03 => some (.call c w)
  | 0x04 => some (.eret c w) | 0x05 => some (.brk c w) | 0x06 => some (.nop c w) | 0x07 => some (.yield c w)
  | 0x08 => some (.cstart c w) | 0x09 => some (.cstop c w) | 0x0A => some (.chalt c w) | 0x0B => some (.cresume c w)
  | _ => none

/-- Class 0x2, synchronisation. -/
def decodeSync (c : CtxId) (x op : Nat) : Option Instr :=
  let w := fields64 x
  match op with
  | 0x00 => some (.tset c w) | 0x01 => some (.tadd c w) | 0x02 => some (.tread c w) | 0x03 => some (.twait c w)
  | 0x04 => some (.bwait c w) | 0x05 => some (.twaitb c w) | 0x06 => some (.abort c w) | 0x07 => some (.qbind c w)
  | 0x08 => some (.tbind c w) | 0x09 => some (.qfree c w) | 0x0A => some (.qdesc c (fields128 x))
  | _ => none

/-- Classes 0x3 and 0x4, ledger, page and walker. An issue of PMAP is the same for all its modes, of which one row is named. -/
def decodeLedger (c : CtxId) (x op : Nat) : Option Instr :=
  let w := fields128 x
  match op with
  | 0x00 => some (.lpost (.issue c w)) | 0x01 => some (.lread c w) | 0x02 => some (.lset c w)
  | 0x03 => some (.lstep (.issue c w)) | 0x04 => some (.lend (.issue c w)) | 0x05 => some (.labort (.issue c w))
  | 0x06 => some (.lswap (.issue c w))
  | _ => none

def decodePage (c : CtxId) (x op : Nat) : Option Instr :=
  let w := fields128 x
  match op with
  | 0x00 => some (.pxlate c w) | 0x01 => some (.pinv c w) | 0x02 => some (.pmapOpen (.issue c w))
  | 0x03 => some (.punmap (.issue c w)) | 0x04 => some (.plook (.issue c w)) | 0x05 => some (.pindex (.issue c w))
  | 0x06 => some (.pdigest (.issue c w)) | 0x07 => some (.pappend (.issue c w)) | 0x08 => some (.ppress (.issue c w))
  | 0x09 => some (.pverify (.issue c w))
  | _ => none

/-- Classes 0x5 to 0x7, in-bank, hub and tile. -/
def decodeInbank (p : Posted) (op : Nat) : Option Instr :=
  match op with
  | 0x00 => some (.rcopy p) | 0x01 => some (.rzero p) | 0x02 => some (.rnot p) | 0x03 => some (.rand p)
  | 0x04 => some (.ror p) | 0x05 => some (.rxor p) | 0x06 => some (.rmaj p) | 0x07 => some (.rscore p)
  | 0x08 => some (.rselect p)
  | _ => none

def decodeHub (p : Posted) (op : Nat) : Option Instr :=
  match op with
  | 0x00 => some (.hmv p) | 0x01 => some (.hqk p) | 0x02 => some (.hpv p) | 0x03 => some (.hsoftFold p)
  | 0x04 => some (.hnorm p) | 0x05 => some (.hact p) | 0x06 => some (.hrope p) | 0x07 => some (.hadd p)
  | 0x08 => some (.hswap p)
  | _ => none

def decodeTile (p : Posted) (op : Nat) : Option Instr :=
  match op with
  | 0x00 => some (.tjob p) | 0x01 => some (.tgather p) | 0x02 => some (.tswap p)
  | _ => none

/-- Classes 0x8 and 0x9, ferry and fabric, flash. -/
def decodeFerry (p : Posted) (op : Nat) : Option Instr :=
  match op with
  | 0x00 => some (.fcopy p) | 0x01 => some (.fred p) | 0x02 => some (.fmcast p) | 0x03 => some (.fatom p)
  | 0x04 => some (.finv p) | 0x05 => some (.fhand p) | 0x06 => some (.qpsend p) | 0x07 => some (.qpctlCreate p)
  | _ => none

def decodeFlash (p : Posted) (op : Nat) : Option Instr :=
  match op with
  | 0x00 => some (.cread p) | 0x01 => some (.cwrite p) | 0x02 => some (.cdisc p) | 0x03 => some (.cgc p)
  | 0x04 => some (.csync p) | 0x05 => some (.ccal p)
  | _ => none

/-- Classes 0xA and 0xB, power, protection and steward. -/
def decodePower (c : CtxId) (x op : Nat) : Option Instr :=
  let w := fields64 x
  match op with
  | 0x00 => some (.pwread c w) | 0x01 => some (.pwgate c w) | 0x02 => some (.pwhold c w) | 0x03 => some (.pwbudget c w)
  | 0x04 => some (.pwenv c w) | 0x05 => some (.pwvset c w)
  | _ => none

def decodeSteward (c : CtxId) (x op : Nat) : Option Instr :=
  let w := fields64 x
  match op with
  | 0x00 => some (.ptwr c w) | 0x01 => some (.ptrd c w) | 0x02 => some (.partset c w) | 0x03 => some (.sparein c w)
  | 0x04 => some (.retire c w) | 0x05 => some (.preset c w) | 0x06 => some (.idfrd (.issue c (fields128 x)))
  | 0x07 => some (.idfwr (.issue c (fields128 x)))
  | _ => none

/-- The instruction that 16 bytes of code hold for a context, by class and op; none where either is reserved (R59, R84). -/
def decodeIns (c : CtxId) (x : Nat) : Option Instr :=
  let op := bf x 5 8
  let p : Posted := .issue c (fields128 x)
  match bf x 1 4 with
  | 0x0 => decodeScalar c x op
  | 0x1 => decodeControl c x op
  | 0x2 => decodeSync c x op
  | 0x3 => decodeLedger c x op
  | 0x4 => decodePage c x op
  | 0x5 => decodeInbank p op
  | 0x6 => decodeHub p op
  | 0x7 => decodeTile p op
  | 0x8 => decodeFerry p op
  | 0x9 => decodeFlash p op
  | 0xA => decodePower c x op
  | 0xB => decodeSteward c x op
  | _ => none

/-! ## A core's step -/

/-- The issue of a word whose class or op is reserved: ILLEGAL, after the checks of its fetch (R61). -/
def issueReserved (c : CtxId) (x : Nat) (s : State) : State :=
  issue (if x.testBit 0 then 16 else 8) 0 false 0 false c .adv s

/-- The core whose turn it is issues one instruction; with no context to issue the block idles (R51, R59, R61). -/
def coreStep (s : State) : Res :=
  match nextIssue s with
  | none => .next s
  | some (k, c) =>
    let x := codeNum s k (ctxGet s c).pc.toNat 16
    let s := { s with turn := k }
    match decodeIns c x with
    | some i => exec i s
    | none => .next (issueReserved c x s)

end Sys2Proof.Machine
end

