-- ==== Sys2Proof/Machine/Step.lean ====
section
/-! DEFINITION. One step: the command at the front of the queue; on an empty queue a control core runs (log entry 1). -/
namespace Sys2Proof.Machine

/-- The command at the front of the queue is run with the rest of the queue. DESIGN CHOICE (log entry 1): on an empty queue the
control core whose turn it is issues one instruction of its program, and the block idles where none can. -/
def step (s : State) : Host.Outcome State Fault Refusal :=
  match s.pending with
  | [] => coreStep s
  | c :: rest => exec c { s with pending := rest }

/-- The state with the command that a word spells at the front of its queue, unchanged where it spells none. -/
def State.withFetchWord (s : State) (nbits w : Nat) : State :=
  match decodeTableWord nbits w with
  | some c => { s with pending := c :: s.pending }
  | none => s

end Sys2Proof.Machine
end

