-- ==== Sys2Proof/Safety.lean ====
section
/-! DEFINITION. What a safe run of the block is: its storage keeps its canonical form, and no step stops; and the
conditions, on the state and the operands alone, under which an instruction or an operation has its own effect. -/
namespace Sys2Proof

/-- The storage of a state is in canonical form. -/
def Machine.State.MemOk (s : Machine.State) : Prop := s.mem.cells.wf = true

/-- A step that answers a next state. -/
def Machine.Completes (s : Machine.State) : Prop := ∃ t, Machine.step s = .next t

/-- An instruction of n bytes, of a lowest level and a format that holds, reaches its own effect (R51, R54, R60, R61, R84,
R381): its context may issue, the pc is aligned and its bytes may be fetched and are clean, its predicate is true, and the
context has the level. -/
def Machine.Issues (n level : Nat) (formatOk : Bool) (pred : BitVec 3) (pneg : Bool) (c : CtxId) (s : Machine.State) : Prop :=
  Machine.canIssue s c = true ∧ (Machine.ctxGet s c).pc.toNat % 8 = 0 ∧ Machine.fetchOk s c n = true ∧
  Machine.poisoned s (Machine.memKey (c / 8) (Machine.ctxGet s c).pc.toNat) n = false ∧ formatOk = true ∧
  Machine.predicate (Machine.ctxGet s c) pred pneg = true ∧ level ≤ Machine.privOf (Machine.ctxGet s c)

/-- A 64-bit instruction reaches its own effect. -/
def Machine.Issues64 (level : Nat) (resvOk : Bool) (c : CtxId) (w : Ins64) (s : Machine.State) : Prop :=
  Machine.Issues 8 level (!w.len && resvOk) w.pred w.pneg c s

/-- A synchronous 128-bit instruction reaches its own effect: its post fields are zero (R86). -/
def Machine.Issues128 (level : Nat) (c : CtxId) (w : Ins128) (s : Machine.State) : Prop :=
  Machine.Issues 16 level (w.len && w.resv = 0 && !w.ord && w.whn = 0 && w.tl = 0 && w.tc = 0 && w.q = 0) w.pred w.pneg c s

/-- No work on memory is under way, no host holds a line of the device, and no write falls in an allocated extent of a host that
cannot be recalled (R288, R296). -/
def Machine.Unshared (s : Machine.State) : Prop :=
  s.mem.access = none ∧ s.cxd.dir = [] ∧ ∀ a n, Machine.hdmHBlocked s a n = false

/-- No access of memory waits: beside that, no stack is in self-refresh and no in-bank operation holds its banks (R46, R194). -/
def Machine.Quiet (s : Machine.State) : Prop :=
  Machine.Unshared s ∧ s.mem.selfRefresh = 0 ∧ ∀ o ∈ s.ops, Machine.inBankOn o = false

/-- The next step of a launched operation of a class and op may run now, no step of it has written yet, and no access of it waits
(R39, R46, R92, R194, R288, R296, R333): what the operation o of a ticket then does is its own effect. -/
def Machine.Runs (cls op : Nat) (t : Ticket) (o : Machine.Op) (s : Machine.State) : Prop :=
  Machine.opGet s t = some o ∧ Machine.opRunnable s o = true ∧ o.cls = cls ∧ o.op = op ∧ o.due = none ∧ Machine.Unshared s ∧
  (cls ≠ 5 → Machine.Quiet s)

end Sys2Proof
end

