-- ==== Sys2Proof/Certificates/Slice0/Obligations.lean ====
section
/-! DEFINITION. The statements for the provers: what the commands do, by family, where they complete, what they leave
unchanged, and what every step keeps. -/
open Sys2Proof Sys2Proof.Machine

/-! ## The vocabulary of the statements -/

/-- All of a context but its state field, the contexts it yielded to and its mark as the last issuer, as it was. -/
def Sys2Proof.Say.sameRegs (x y : Ctx) : Prop :=
  y = { x with cs := y.cs, yieldFor := y.yieldFor, last := y.last } ∧ setF y.cs 13 3 0 = setF x.cs 13 3 0

/-- Of everything but context c only what an issue changes (R51): the contexts of other core slots are as they were, and a
context of c's slot keeps its registers. -/
def Sys2Proof.Say.others (s t : State) (c : CtxId) : Prop :=
  (∀ d, d / 8 ≠ c.val / 8 → ctxGet t d = ctxGet s d) ∧ ∀ d, d ≠ c.val → Say.sameRegs (ctxGet s d) (ctxGet t d)

/-- All but the contexts is as it was, and of them only c's and what an issue changes. -/
def Sys2Proof.Say.onlyCtx (s t : State) (c : CtxId) : Prop := t = { s with ctxs := t.ctxs } ∧ Say.others s t c

/-- Context c after an instruction of n bytes that wrote v to s[sd] (R55): s0 discards the write, every other scalar register,
the predicates, handles and special registers stay, and the pc has moved past the instruction. -/
def Sys2Proof.Say.wrote (x y : Ctx) (sd : Nat) (v : Word) (n : Nat) : Prop :=
  (∀ j, getS y j = if j = sd ∧ j ≠ 0 then v else getS x j) ∧ y = { runCtx x with s := y.s, pc := x.pc + BitVec.ofNat 64 n }

/-- As `Say.wrote`, for a predicate register: p0 discards the write. -/
def Sys2Proof.Say.wroteP (x y : Ctx) (pd : Nat) (v : Bool) (n : Nat) : Prop :=
  (∀ j, j < 8 → getP y j = if j = pd ∧ j ≠ 0 then v else getP x j) ∧
  y = { runCtx x with p := y.p, pc := x.pc + BitVec.ofNat 64 n }

/-- A range of addresses that keeps what is written to it: no stack of it is lost (R344). -/
def Sys2Proof.Say.keeps (s : State) (a : Nat) : Prop := ¬(a < 2 ^ 41 ∧ stackIn s (a / 2 ^ 36) = false)

/-- Every byte outside some ranges, each a start and a length, reads as before. -/
def Sys2Proof.Say.only (s t : State) (l : List (Nat × Nat)) : Prop :=
  ∀ a, (∀ x ∈ l, a < x.1 ∨ x.1 + x.2 ≤ a) → memRead t a 1 = memRead s a 1

/-- Two ranges, each a start and a length, have no line in common. -/
def Sys2Proof.Say.apart (x y : Nat × Nat) : Prop := (x.1 + x.2 + 63) / 64 ≤ y.1 / 64 ∨ (y.1 + y.2 + 63) / 64 ≤ x.1 / 64

/-- No byte of a range lies in a lost stack. -/
def Sys2Proof.Say.keepsAll (s : State) (x : Nat × Nat) : Prop := ∀ a, x.1 ≤ a → a < x.1 + x.2 → Say.keeps s a

/-! ## Steps -/

/-- A step takes the command at the front of the queue and answers what the command does on the queue's rest. -/
def Obligations.StepRunsFront : Prop :=
  ∀ (i : Instr) (rest : List Instr) (s : State),
    step { s with pending := i :: rest } = exec i { s with pending := rest }

/-- Every command completes: on every state it answers a next state, never a fault and never a refusal. -/
def Obligations.EveryCommandCompletes : Prop :=
  ∀ (i : Instr) (s : State), ∃ t, exec i s = .next t

/-! ## Scalar instructions (R55, R56, R59, R60, R84) -/

/-- The two-operand arithmetic instructions of class 0: s[sd] from s[sa] and b, and nothing else. POPC and CLZ: the number of
ones, and the number of zeros above the highest one, 64 for 0. -/
def Obligations.ScalarResult : Prop :=
  (∀ (c : CtxId) (w : Ins64) (s : State) (p : (CtxId → Ins64 → Instr) × (Word → Word → Word)),
    p ∈ [(Instr.add, fun a b => a + b), (Instr.sub, fun a b => a - b), (Instr.mul, fun a b => a * b),
         (Instr.mulhu, fun a b => BitVec.ofNat 64 (a.toNat * b.toNat / 2 ^ 64)),
         (Instr.divu, fun a b => if b = 0 then 0xFFFF_FFFF_FFFF_FFFF else a / b), (Instr.remu, fun a b => if b = 0 then a else a % b),
         (Instr.and, fun a b => a &&& b), (Instr.or, fun a b => a ||| b), (Instr.xor, fun a b => a ^^^ b),
         (Instr.shl, fun a b => a <<< (b.toNat % 64)), (Instr.shr, fun a b => a >>> (b.toNat % 64)),
         (Instr.sar, fun a b => a.sshiftRight (b.toNat % 64)),
         (Instr.minu, fun a b => if a.toNat ≤ b.toNat then a else b), (Instr.maxu, fun a b => if a.toNat ≤ b.toNat then b else a)] →
    Issues64 0 true c w s →
    ∃ t, exec (p.1 c w) s = .next t ∧ Say.onlyCtx s t c ∧
      Say.wrote (ctxGet s c) (ctxGet t c) w.sd.toNat (p.2 (getS (ctxGet s c) w.sa.toNat) (opB (ctxGet s c) w)) 8) ∧
  (∀ (c : CtxId) (w : Ins64) (s : State), Issues64 0 true c w s →
    (∃ t n, exec (.popc c w) s = .next t ∧ Say.onlyCtx s t c ∧ Say.wrote (ctxGet s c) (ctxGet t c) w.sd.toNat (BitVec.ofNat 64 n) 8 ∧
      n = ((List.range 64).filter (getS (ctxGet s c) w.sa.toNat).toNat.testBit).length) ∧
    (∃ t n, exec (.clz c w) s = .next t ∧ Say.onlyCtx s t c ∧ Say.wrote (ctxGet s c) (ctxGet t c) w.sd.toNat (BitVec.ofNat 64 n) 8 ∧
      n ≤ 64 ∧ (getS (ctxGet s c) w.sa.toNat).toNat < 2 ^ (64 - n) ∧
      (n < 64 → 2 ^ (63 - n) ≤ (getS (ctxGet s c) w.sa.toNat).toNat)))

/-- The compares: p[sd] from s[sa] and b. PAND, POR and PNOT: p[sd] from p[sa] and p[sb]. -/
def Obligations.ComparesAndPredicates : Prop :=
  (∀ (c : CtxId) (w : Ins64) (s : State) (p : (CtxId → Ins64 → Instr) × (Word → Word → Bool)),
    p ∈ [(Instr.cmpeq, fun a b => decide (a = b)), (Instr.cmpltu, fun a b => decide (a.toNat < b.toNat)),
         (Instr.cmplt, fun a b => decide (a.toInt < b.toInt))] →
    Issues64 0 (decide (w.sd.toNat < 8)) c w s →
    ∃ t, exec (p.1 c w) s = .next t ∧ Say.onlyCtx s t c ∧
      Say.wroteP (ctxGet s c) (ctxGet t c) w.sd.toNat (p.2 (getS (ctxGet s c) w.sa.toNat) (opB (ctxGet s c) w)) 8) ∧
  (∀ (c : CtxId) (w : Ins64) (s : State) (x : Ctx), x = ctxGet s c →
    (Issues64 0 (decide (w.sd.toNat < 8) && decide (w.sa.toNat < 8) && decide (w.sb.toNat < 8)) c w s →
      (∃ t, exec (.pand c w) s = .next t ∧ Say.onlyCtx s t c ∧
        Say.wroteP x (ctxGet t c) w.sd.toNat (getP x w.sa.toNat && getP x w.sb.toNat) 8) ∧
      (∃ t, exec (.por c w) s = .next t ∧ Say.onlyCtx s t c ∧
        Say.wroteP x (ctxGet t c) w.sd.toNat (getP x w.sa.toNat || getP x w.sb.toNat) 8)) ∧
    (Issues64 0 (decide (w.sd.toNat < 8) && decide (w.sa.toNat < 8)) c w s →
      ∃ t, exec (.pnot c w) s = .next t ∧ Say.onlyCtx s t c ∧ Say.wroteP x (ctxGet t c) w.sd.toNat (!getP x w.sa.toNat) 8))

/-- LI writes imm64; NOP and FENCE only pass; MFSR writes the special register that imm names, at a level that may read it.
MTSR writes one special register, at a level that may write it; of cs it writes share, prio and ordonly from operator level
up, ld and part at steward level, and never the level (R53, R56). -/
def Obligations.MovesAndSpecials : Prop :=
  (∀ (c : CtxId) (s : State) (x : Ctx), x = ctxGet s c →
    (∀ w : Ins128, Issues128 0 c w s →
      ∃ t, exec (.li c w) s = .next t ∧ Say.onlyCtx s t c ∧ Say.wrote x (ctxGet t c) w.sd.toNat w.imm64 16) ∧
    (∀ (w : Ins64) (i : CtxId → Ins64 → Instr), i ∈ [Instr.nop, Instr.fence] → Issues64 0 true c w s →
      ∃ t, exec (i c w) s = .next t ∧ Say.onlyCtx s t c ∧ ctxGet t c = { runCtx x with pc := x.pc + 8 }) ∧
    (∀ (w : Ins64) (k : Nat × Nat × Word), Issues64 0 (decide (w.imm.toNat < 12)) c w s → w.imm.toNat = k.1 →
      k ∈ [(0, 0, x.pc), (1, 0, (runCtx x).cs), (2, 0, x.fa), (3, 0, s.clk.bell), (4, 1, x.hbOp), (5, 2, x.hbSt), (6, 1, x.gateOp),
           (7, 2, x.gateSt), (8, 1, x.epcOp), (9, 1, x.ecsOp), (10, 2, x.epcSt), (11, 2, x.ecsSt)] →
      k.2.1 ≤ privOf x →
      ∃ t, exec (.mfsr c w) s = .next t ∧ Say.onlyCtx s t c ∧ Say.wrote x (ctxGet t c) w.sd.toNat k.2.2 8)) ∧
  (∀ (c : CtxId) (w : Ins64) (s : State) (x : Ctx) (v : Word), x = ctxGet s c → v = getS x w.sa.toNat →
    Issues64 0 (decide (w.imm.toNat < 12)) c w s →
    (∀ k : Nat × Nat × Ctx, w.imm.toNat = k.1 → k.2.1 ≤ privOf x →
      k ∈ [(2, 1, { x with fa := v }), (4, 1, { x with hbOp := v }), (5, 2, { x with hbSt := v }), (6, 1, { x with gateOp := v }),
           (7, 2, { x with gateSt := v }), (8, 1, { x with epcOp := v }), (9, 1, { x with ecsOp := v }),
           (10, 2, { x with epcSt := v }), (11, 2, { x with ecsSt := v })] →
      ∃ t, exec (.mtsr c w) s = .next t ∧ Say.onlyCtx s t c ∧ ctxGet t c = { runCtx k.2.2 with pc := x.pc + 8 }) ∧
    (w.imm.toNat = 1 →
      ∃ t, exec (.mtsr c w) s = .next t ∧ Say.onlyCtx s t c ∧ ctxGet t c = { runCtx x with cs := (ctxGet t c).cs, pc := x.pc + 8 } ∧
        ∀ i, (ctxGet t c).cs.toNat.testBit i =
          if (24 ≤ i ∧ i < 32 ∨ 20 ≤ i ∧ i < 24 ∨ i = 18) ∧ (privOf x = 1 ∨ privOf x = 2) then v.toNat.testBit i
          else if (32 ≤ i ∧ i < 36 ∨ i = 19) ∧ privOf x = 2 then v.toNat.testBit i
          else (runCtx x).cs.toNat.testBit i))

/-- The bits of an instruction's first word below its immediate or post fields, for a class and an op (R59). -/
def Sys2Proof.Say.lowBits (cls op : Nat) (sd sa sb : BitVec 6) (pred : BitVec 3) (pneg len : Bool) : Nat :=
  sb.toNat * 2 ^ 29 + sa.toNat * 2 ^ 23 + sd.toNat * 2 ^ 17 + boolNat pneg * 2 ^ 16 + pred.toNat * 2 ^ 13 + op * 2 ^ 5 + cls * 2 +
  boolNat len

/-- An issue changes contexts alone: the issuing context is RUN with its registers as they were, no other context of its core
slot is RUN, and the registers of those, and the contexts of other slots, stay (R51). A core that may issue runs, of its READY and
RUN contexts, one of the highest priority: the instruction at its pc, decoded by class and op from its little-endian words; a
reserved class or op raises ILLEGAL (R51, R59, R61, R84). That cores run on an empty queue, and in turns, is the model's choice
(log entry 1). -/
def Obligations.IssueChangesContextsOnly : Prop :=
  (∀ (s : State) (c : CtxId),
    Say.onlyCtx s (startIssue s c) c ∧ ctxGet (startIssue s c) c = runCtx (ctxGet s c) ∧
    Say.sameRegs (ctxGet s c) (runCtx (ctxGet s c)) ∧ stateOf (runCtx (ctxGet s c)) = 2 ∧
    ∀ d, d ≠ c.val → d / 8 = c.val / 8 → stateOf (ctxGet (startIssue s c) d) ≠ 2) ∧
  (∀ (s : State), s.pending = [] →
    ((∀ c, canIssue s c = false) → step s = .next s) ∧
    (∀ c, canIssue s c = true → ∃ k d, nextIssue s = some (k, d)) ∧
    ∀ (k : Nat) (c : CtxId) (x : Nat), nextIssue s = some (k, c) → x = codeNum s k (ctxGet s c).pc.toNat 16 →
      c.val / 8 = k ∧ canIssue s c = true ∧
      (∀ d, d / 8 = k → (stateOf (ctxGet s d) = 1 ∨ stateOf (ctxGet s d) = 2) → prioOf (ctxGet s d) ≤ prioOf (ctxGet s c)) ∧
      (∀ i, decodeIns c x = some i → step s = exec i { s with turn := k }) ∧
      (decodeIns c x = none → (ctxGet s c).pc.toNat % 8 = 0 → (∀ n, n ∈ [8, 16] → fetchOk s c n = true ∧
          poisoned s (memKey k (ctxGet s c).pc.toNat) n = false) →
        step s = .next (takeException (startIssue { s with turn := k } c) c 1 none))) ∧
  ∀ (c : CtxId),
    (∀ (w : Ins64) (hi : Nat) (p : (CtxId → Ins64 → Instr) × Nat × Nat),
      p ∈ [(Instr.add, 0, 0), (Instr.st64, 0, 0x1B), (Instr.brk, 1, 5), (Instr.cresume, 1, 0xB), (Instr.tset, 2, 0), (Instr.abort, 2, 6),
           (Instr.pwenv, 0xA, 4), (Instr.ptwr, 0xB, 0), (Instr.preset, 0xB, 5)] →
      decodeIns c (hi * 2 ^ 64 + w.imm.toNat * 2 ^ 36 + boolNat w.ib * 2 ^ 35 +
        Say.lowBits p.2.1 p.2.2 w.sd w.sa w.sb w.pred w.pneg w.len) = some (p.1 c w)) ∧
    (∀ (w : Ins128) (p : (Ins128 → Instr) × Nat × Nat),
      p ∈ [(Instr.li c, 0, 0x13), (Instr.qdesc c, 2, 0xA), (Instr.lread c, 3, 1), (Instr.pxlate c, 4, 0),
           (fun w => Instr.lpost (.issue c w), 3, 0), (fun w => Instr.pverify (.issue c w), 4, 9),
           (fun w => Instr.rselect (.issue c w), 5, 8), (fun w => Instr.hswap (.issue c w), 6, 8), (fun w => Instr.tswap (.issue c w), 7, 2),
           (fun w => Instr.fhand (.issue c w), 8, 5), (fun w => Instr.ccal (.issue c w), 9, 5), (fun w => Instr.idfwr (.issue c w), 0xB, 7)] →
      decodeIns c (w.imm64.toNat * 2 ^ 64 + w.resv.toNat * 2 ^ 57 + boolNat w.ord * 2 ^ 56 + w.whn.toNat * 2 ^ 53 + w.tl.toNat * 2 ^ 49 +
        w.tc.toNat * 2 ^ 45 + w.q.toNat * 2 ^ 41 + w.sc.toNat * 2 ^ 35 +
        Say.lowBits p.2.1 p.2.2 w.sd w.sa w.sb w.pred w.pneg w.len) = some (p.1 w)) ∧
    ∀ x, (0xC ≤ bf x 1 4 ∨ (bf x 1 4 = 0 ∧ 0x22 ≤ bf x 5 8) ∨ (bf x 1 4 = 5 ∧ 9 ≤ bf x 5 8)) → decodeIns c x = none

/-- The posted instructions, with class, op, lowest level and whether they have an ordered form (R84). -/
def Sys2Proof.Say.postedRows : List ((Posted → Instr) × Nat × Nat × Nat × Bool) :=
  [(.lpost, 3, 0, 1, false), (.lstep, 3, 3, 1, false), (.lend, 3, 4, 1, false), (.labort, 3, 5, 1, false),
   (.lswap, 3, 6, 2, false), (.pmapOpen, 4, 2, 1, false), (.pmapShare, 4, 2, 1, false), (.pmapTake, 4, 2, 1, false),
   (.pmapPlace, 4, 2, 1, false), (.pmapReturn, 4, 2, 1, false), (.pmapGive, 4, 2, 1, false), (.punmap, 4, 3, 1, false),
   (.plook, 4, 4, 1, false), (.pindex, 4, 5, 1, false), (.pdigest, 4, 6, 1, false), (.pappend, 4, 7, 0, false),
   (.ppress, 4, 8, 1, false), (.pverify, 4, 9, 1, false)] ++
  [(.rcopy, 5, 0, 0, false), (.rzero, 5, 1, 0, false), (.rnot, 5, 2, 0, false), (.rand, 5, 3, 0, false), (.ror, 5, 4, 0, false),
   (.rxor, 5, 5, 0, false), (.rmaj, 5, 6, 0, false), (.rscore, 5, 7, 0, false), (.rselect, 5, 8, 0, true), (.hmv, 6, 0, 0, false),
   (.hqk, 6, 1, 0, false), (.hpv, 6, 2, 0, false), (.hsoftFold, 6, 3, 0, false), (.hsoftFinish, 6, 3, 0, false),
   (.hsoftMerge, 6, 3, 0, false), (.hnorm, 6, 4, 0, false), (.hact, 6, 5, 0, false), (.hrope, 6, 6, 0, false),
   (.hadd, 6, 7, 0, false), (.hswap, 6, 8, 1, false), (.tjob, 7, 0, 0, false), (.tgather, 7, 1, 0, false), (.tswap, 7, 2, 1, false)] ++
  [(.fcopy, 8, 0, 0, false), (.fred, 8, 1, 0, true), (.fmcast, 8, 2, 0, false), (.fatom, 8, 3, 0, false), (.finv, 8, 4, 1, false),
   (.fhand, 8, 5, 1, false), (.qpsend, 8, 6, 1, false), (.qpctlCreate, 8, 7, 1, false), (.qpctlModify, 8, 7, 1, false),
   (.qpctlQuery, 8, 7, 1, false), (.qpctlDestroy, 8, 7, 1, false), (.qpctlKeyset, 8, 7, 1, false), (.qpctlKeyflip, 8, 7, 1, false),
   (.qpctlRecv, 8, 7, 1, false), (.qpctlResume, 8, 7, 1, false), (.cread, 9, 0, 1, false), (.cwrite, 9, 1, 1, false),
   (.cdisc, 9, 2, 1, false), (.cgc, 9, 3, 1, false), (.csync, 9, 4, 1, false), (.ccal, 9, 5, 1, false), (.idfrd, 0xB, 6, 2, false),
   (.idfwr, 0xB, 7, 2, false)]

/-- The 64-bit instructions, with their lowest level and what their fields must keep (R56, R59, R84): a predicate, handle or special
register number that exists. -/
def Sys2Proof.Say.rows64 : List ((CtxId → Ins64 → Instr) × Nat × (Ins64 → Bool)) :=
  [.add, .sub, .mul, .mulhu, .divu, .remu, .and, .or, .xor, .shl, .shr, .sar, .minu, .maxu, .popc, .clz, .ld8, .ld16, .ld32, .ld64,
    .st8, .st16, .st32, .st64, .fence, .br, .jmp, .jal, .call, .eret, .brk, .nop, .yield, .bwait, .abort].map
      (fun i => (i, 0, fun _ => true)) ++
  [.cmpeq, .cmpltu, .cmplt].map (fun i => (i, 0, fun w => decide (w.sd.toNat < 8))) ++
  [.pand, .por].map (fun i => (i, 0, fun w => decide (w.sd.toNat < 8 ∧ w.sa.toNat < 8 ∧ w.sb.toNat < 8))) ++
  [(.pnot, 0, fun w => decide (w.sd.toNat < 8 ∧ w.sa.toNat < 8))] ++
  [.mfsr, .mtsr].map (fun i => (i, 0, fun w => decide (w.imm.toNat < 12))) ++
  [.tset, .tadd, .tread, .twait, .twaitb, .qfree].map (fun i => (i, 0, fun w => decide (w.sa.toNat < 16))) ++
  [.qbind, .tbind].map (fun i => (i, 1, fun w => decide (w.sd.toNat < 16))) ++
  [.cstart, .cstop, .pwread, .pwgate, .pwhold, .pwbudget].map (fun i => (i, 1, fun _ => true)) ++
  [.chalt, .cresume, .pwenv, .pwvset, .ptwr, .ptrd, .partset, .sparein, .retire, .preset].map (fun i => (i, 2, fun _ => true))

/-- The 128-bit instructions, with their lowest level and what their fields must keep (R59, R61, R84). -/
def Sys2Proof.Say.rows128 : List ((CtxId → Ins128 → Instr) × Nat × (Ins128 → Bool)) :=
  [(.li, 0), (.pxlate, 0), (.pinv, 1), (.lread, 1), (.lset, 1), (.qdesc, 1)].map (fun p => (p.1, p.2, fun w =>
    w.len && decide (w.resv = 0 ∧ w.ord = false ∧ w.whn = 0 ∧ w.tl = 0 ∧ w.tc = 0 ∧ w.q = 0))) ++
  Say.postedRows.map fun p => (fun c w => p.1 (.issue c w), p.2.2.2.1, fun w => postFormatOk p.2.2.2.2 w)

/-- An instruction takes effect only where its predicate register and its negation bit differ; with p0 and no negation it always
does. Every instruction whose predicate does not let it take effect only moves the pc, with no other effect and no level asked;
whatever its predicate, one whose fields are not as its format has them raises ILLEGAL; one that takes effect below its lowest level
raises PRIVILEGE (R56, R60, R61, R84). So does a write of the pc, of the bell or of a special register above the context's level,
and a read of one above it. An exception has no other effect (R80, R81). -/
def Obligations.LevelsAndPredicates : Prop :=
  (∀ (c : CtxId) (w : Ins64) (s : State), Issues64 0 (decide (w.imm.toNat < 12)) c w s →
    ((w.imm.toNat = 0 ∨ w.imm.toNat = 3 ∨ (privOf (ctxGet s c) = 0 ∧ w.imm.toNat ≠ 1) ∨
      (privOf (ctxGet s c) < 2 ∧ w.imm.toNat ∈ [5, 7, 10, 11])) →
      exec (.mtsr c w) s = .next (takeException (startIssue s c) c 2 none)) ∧
    ((privOf (ctxGet s c) = 0 ∧ w.imm.toNat ∈ [4, 6, 8, 9]) ∨ (privOf (ctxGet s c) < 2 ∧ w.imm.toNat ∈ [5, 7, 10, 11]) →
      exec (.mfsr c w) s = .next (takeException (startIssue s c) c 2 none))) ∧
  (∀ (x : Ctx) (pred : BitVec 3) (pneg : Bool),
    (predicate x pred pneg = true ↔ getP x pred.toNat ≠ pneg) ∧ predicate x 0 false = true) ∧
  (∀ (c : CtxId) (w : Ins64) (s : State) (p : (CtxId → Ins64 → Instr) × Nat × (Ins64 → Bool)), p ∈ Say.rows64 →
    canIssue s c = true → (ctxGet s c).pc.toNat % 8 = 0 → fetchOk s c 8 = true →
    poisoned s (memKey (c / 8) (ctxGet s c).pc.toNat) 8 = false →
    ((w.len = true ∨ p.2.2 w = false) → exec (p.1 c w) s = .next (takeException (startIssue s c) c 1 none)) ∧
    (w.len = false → p.2.2 w = true → predicate (ctxGet s c) w.pred w.pneg = false →
      exec (p.1 c w) s = .next (ctxSet (startIssue s c) c { runCtx (ctxGet s c) with pc := (ctxGet s c).pc + 8 })) ∧
    (w.len = false → p.2.2 w = true → predicate (ctxGet s c) w.pred w.pneg = true → privOf (ctxGet s c) < p.2.1 →
      exec (p.1 c w) s = .next (takeException (startIssue s c) c 2 none))) ∧
  (∀ (c : CtxId) (w : Ins128) (s : State) (p : (CtxId → Ins128 → Instr) × Nat × (Ins128 → Bool)), p ∈ Say.rows128 →
    canIssue s c = true → (ctxGet s c).pc.toNat % 8 = 0 → fetchOk s c 16 = true →
    poisoned s (memKey (c / 8) (ctxGet s c).pc.toNat) 16 = false →
    (p.2.2 w = false → exec (p.1 c w) s = .next (takeException (startIssue s c) c 1 none)) ∧
    (p.2.2 w = true → predicate (ctxGet s c) w.pred w.pneg = false →
      exec (p.1 c w) s = .next (ctxSet (startIssue s c) c { runCtx (ctxGet s c) with pc := (ctxGet s c).pc + 16 })) ∧
    (p.2.2 w = true → predicate (ctxGet s c) w.pred w.pneg = true → privOf (ctxGet s c) < p.2.1 →
      exec (p.1 c w) s = .next (takeException (startIssue s c) c 2 none)))

/-! ## Exceptions (R80, R81) -/

/-- Entry of an exception: pc and cs saved at the level above, the cause, the level and the pc set, fa set where an address is
given; steward code halts with a KECON_HALT record. BREAK raises BREAK; ERET restores the pc and cs saved at the context's
level, the context's state bits and reserved bits apart (log entry 12), and raises PRIVILEGE at tenant level. -/
def Obligations.ExceptionsAndReturn : Prop :=
  (∀ (s : State) (c : CtxId) (cause : Nat) (fa : Option Word) (x y : Ctx), x = ctxGet s c → cause < 256 →
    y = ctxGet (takeException s c cause fa) c →
    (privOf x < 2 → takeException s c cause fa = ctxSet s c y ∧ privOf y = privOf x + 1 ∧ getF y.cs 56 8 = cause ∧
      (∀ i, i < 16 ∨ (18 ≤ i ∧ i < 56) → y.cs.toNat.testBit i = x.cs.toNat.testBit i) ∧
      y.s = x.s ∧ y.p = x.p ∧ y.q = x.q ∧ y.t = x.t ∧ y.fa = fa.getD x.fa ∧ y.wait = x.wait) ∧
    (privOf x = 0 → y.epcOp = x.pc ∧ y.ecsOp = x.cs ∧ y.epcSt = x.epcSt ∧ y.ecsSt = x.ecsSt ∧
      y.pc = x.hbOp + BitVec.ofNat 64 (64 * cause)) ∧
    (privOf x = 1 → y.epcSt = x.pc ∧ y.ecsSt = x.cs ∧ y.epcOp = x.epcOp ∧ y.ecsOp = x.ecsOp ∧
      y.pc = x.hbSt + BitVec.ofNat 64 (64 * cause)) ∧
    (privOf x = 2 → stateOf y = 4 ∧ y.pc = x.pc ∧ getF y.cs 56 8 = cause ∧
      ∃ r, (takeException s c cause fa).ras.history = r :: s.ras.history.take 1023 ∧ r.kind = 0x03 ∧ r.sev = 2 ∧
        r.a.toNat = c.val ∧ r.b = x.pc ∧ r.seq = s.ras.seq)) ∧
  (∀ (c : CtxId) (w : Ins64) (s : State) (x : Ctx), x = ctxGet s c → Issues64 0 true c w s →
    exec (.brk c w) s = .next (takeException (startIssue s c) c 7 none) ∧
    (privOf x = 0 → exec (.eret c w) s = .next (takeException (startIssue s c) c 2 none)) ∧
    (∀ k : Nat × Word × Word, k ∈ [(1, x.epcOp, x.ecsOp), (2, x.epcSt, x.ecsSt)] → privOf x = k.1 →
      ∃ cs, exec (.eret c w) s = .next (ctxSet (startIssue s c) c { runCtx x with pc := k.2.1, cs := cs }) ∧ getF cs 13 3 = 2 ∧
        ∀ i, (18 ≤ i ∧ i < 36) ∨ 56 ≤ i ∨ (16 ≤ i ∧ i < 18 ∧ getF k.2.2 16 2 ≠ 3) → cs.toNat.testBit i = k.2.2.toNat.testBit i))

/-! ## Loads and stores (R88, R248, R386 to R388) -/

/-- Loads of 1, 2, 4 and 8 bytes, zero-extended: from local store, shared SRAM and hub windows at once, from DRAM when the
access completes, the context in WAIT until then; of a tally; of a register; poisoned data give all-ones and POISON. Stores of
1, 2, 4 and 8 bytes: local store, shared SRAM and hub windows take the bytes at once, DRAM when the access completes, the
context in WAIT until then; a tally takes an addition; a register is written where the context may, and after a write that changes
a logical device what waited for its holdings is served. The model's choices: log entries 13 (the order of the checks), 68 (a register
of a unit out of service), 69 (a DRAM access waits for its completion). -/
def Obligations.LoadsAndStores : Prop :=
  (∀ (c : CtxId) (w : Ins64) (s : State) (p : (CtxId → Ins64 → Instr) × Nat) (x : Ctx) (a : Word),
    p ∈ [(Instr.ld8, 1), (Instr.ld16, 2), (Instr.ld32, 4), (Instr.ld64, 8)] → Issues64 0 true c w s →
    x = ctxGet s c → a = getS x w.sa.toNat + opB x w →
    (∀ k, ctxRoute s c false a p.2 = .ok (.own k false) → poisoned s k p.2 = false →
      exec (p.1 c w) s = .next (ctxSet (startIssue s c) c
        { setS (runCtx x) w.sd.toNat (BitVec.ofNat 64 (memNum s k p.2)) with pc := x.pc + 8 })) ∧
    (∀ k, ctxRoute s c false a p.2 = .ok (.own k false) → poisoned s k p.2 = true →
      exec (p.1 c w) s = .next (takeException (regSet (startIssue s c) c w.sd.toNat 0xFFFF_FFFF_FFFF_FFFF) c 6 (some a))) ∧
    (∀ k, ctxRoute s c false a p.2 = .ok (.own k true) →
      exec (p.1 c w) s = .next (ctxSet (startIssue s c) c { withState (runCtx x) 3 with wait := .load p.2 a w.sd })) ∧
    (∀ i, ctxRoute s c false a p.2 = .ok (.tally i) →
      exec (p.1 c w) s = .next (ctxSet (startIssue s c) c { setS (runCtx x) w.sd.toNat (tally s i) with pc := x.pc + 8 })) ∧
    (∀ off, ctxRoute s c false a p.2 = .ok (.reg off) →
      exec (p.1 c w) s = .next (advance (regSet (regLoad (startIssue s c) 0 off p.2).2 c w.sd.toNat
        (if coreReads s c off then BitVec.ofNat 64 (regLoad (startIssue s c) 0 off p.2).1 else 0)) c 8)) ∧
    (∀ cause fa, ctxRoute s c false a p.2 = .error (cause, fa) →
      exec (p.1 c w) s = .next (takeException (startIssue s c) c cause fa))) ∧
  (∀ (c : CtxId) (w : Ins64) (s : State) (p : (CtxId → Ins64 → Instr) × Nat) (x : Ctx) (a : Word) (v : Nat),
    p ∈ [(Instr.st8, 1), (Instr.st16, 2), (Instr.st32, 4), (Instr.st64, 8)] → Issues64 0 true c w s →
    x = ctxGet s c → a = getS x w.sa.toNat + opB x w → v = (getS x w.sd.toNat).toNat % 2 ^ (8 * p.2) →
    (∀ k, ctxRoute s c true a p.2 = .ok (.own k false) →
      exec (p.1 c w) s = .next (ctxSet (memWriteNum (startIssue s c) k p.2 v) c { runCtx x with pc := x.pc + 8 })) ∧
    (∀ k, ctxRoute s c true a p.2 = .ok (.own k true) →
      exec (p.1 c w) s = .next (ctxSet (startIssue s c) c
        { withState (runCtx x) 3 with wait := .store p.2 a (getS x w.sd.toNat) })) ∧
    (∀ i, ctxRoute s c true a p.2 = .ok (.tally i) →
      exec (p.1 c w) s = .next (ctxSet (tallyAdd (startIssue s c) i v) c { runCtx x with pc := x.pc + 8 })) ∧
    (∀ off t, ctxRoute s c true a p.2 = .ok (.reg off) → coreWrites s c off = true →
      t = advance (regStore (startIssue s c) 0 (decide (privOf x = 2)) off p.2 v) c 8 →
      exec (p.1 c w) s = .next (if t.cxd.lds = s.cxd.lds then t else grantLoads (serveWorks (serveCtxs t)))) ∧
    (∀ off, ctxRoute s c true a p.2 = .ok (.reg off) → coreWrites s c off = false →
      exec (p.1 c w) s = .next (ctxSet (startIssue s c) c { runCtx x with pc := x.pc + 8 })) ∧
    (∀ cause fa, ctxRoute s c true a p.2 = .error (cause, fa) →
      exec (p.1 c w) s = .next (takeException (startIssue s c) c cause fa)))

/-- The end of a DRAM access: a load of clean data writes the bytes and the context is READY past its instruction; a store
writes its bytes. No host holds a line that is written, and no in-bank operation holds the bank or the row (log entries 61 and 69: the model's choice of when it completes). What a write of
bytes changes: those bytes read as written, every other byte as before, and the storage, its poison marks and its note of what
was written apart, nothing. A lost stack keeps nothing (R344). -/
def Obligations.MemoryAccess : Prop :=
  (∀ (c : CtxId) (s : State) (x : Ctx) (k n : Nat) (a : Word), x = ctxGet s c → s.phase = .running → stateOf x = 3 →
    k = memKey (c / 8) a.toNat →
    (∀ sd, x.wait = .load n a sd → bankHolds s false a.toNat n = false → poisoned s k n = false →
      exec (.memoryAccessComplete c) s = .next (ctxSet s c
        { withState (setS x sd.toNat (BitVec.ofNat 64 (memNum s k n))) 1 with wait := .none, pc := x.pc + 8 })) ∧
    (∀ sd, x.wait = .load n a sd → bankHolds s false a.toNat n = false → poisoned s k n = true →
      exec (.memoryAccessComplete c) s = .next (takeException
        (ctxSet s c { withState (setS x sd.toNat 0xFFFF_FFFF_FFFF_FFFF) 1 with wait := .none }) c 6 (some a))) ∧
    (∀ v, x.wait = .store n a v → bankHolds s true a.toNat n = false → recallNeeded s a.toNat n = [] →
      exec (.memoryAccessComplete c) s = .next (ctxSet (memWriteNum s k n (v.toNat % 2 ^ (8 * n))) c
        { withState x 1 with wait := .none, pc := x.pc + 8 }))) ∧
  (∀ (s : State) (a : Nat) (bs : List Byte),
    memWrite s a bs = { s with mem := (memWrite s a bs).mem } ∧
    (∀ b n, b + n ≤ a ∨ a + bs.length ≤ b → memRead (memWrite s a bs) b n = memRead s b n) ∧
    (a < 2 ^ 41 ∧ stackIn s (a / 2 ^ 36) = false → memWrite s a bs = s) ∧
    (¬(a < 2 ^ 41 ∧ stackIn s (a / 2 ^ 36) = false) → memRead (memWrite s a bs) a bs.length = bs) ∧
    (s.MemOk → (memWrite s a bs).MemOk))

/-! ## Control flow (R51, R81, R84, R89) -/

/-- BR, JMP and JAL: the new pc, and the link of JAL; a target that is not 8-byte aligned raises ILLEGAL. CALL from tenant or
operator level: the saved pc and cs, the level, and the pc from the gate table of the level above; a refused read raises
PROTECT with the entry's address, steward level PRIVILEGE. YIELD gives up issue until every other READY context of the core of
equal or higher priority has issued (R51). -/
def Obligations.ControlTransfer : Prop :=
  (∀ (c : CtxId) (w : Ins64) (s : State) (x : Ctx) (a : Word), x = ctxGet s c → a = getS x w.sa.toNat + opB x w →
    Issues64 0 true c w s →
    exec (.br c w) s = .next (ctxSet (startIssue s c) c { runCtx x with pc := x.pc + 8 * w.imm.signExtend 64 }) ∧
    (a.toNat % 8 = 0 →
      exec (.jmp c w) s = .next (ctxSet (startIssue s c) c { runCtx x with pc := a }) ∧
      exec (.jal c w) s = .next (ctxSet (startIssue s c) c { setS (runCtx x) w.sd.toNat (x.pc + 8) with pc := a })) ∧
    (a.toNat % 8 ≠ 0 →
      exec (.jmp c w) s = .next (takeException (startIssue s c) c 1 none) ∧
      exec (.jal c w) s = .next (takeException (startIssue s c) c 1 none))) ∧
  (∀ (c : CtxId) (w : Ins64) (s : State) (x : Ctx) (a : Word) (k : Nat), x = ctxGet s c → Issues64 0 true c w s →
    a = (if privOf x = 1 then x.gateSt else x.gateOp) + BitVec.ofNat 64 (8 * (w.imm.toNat % 256)) → k = memKey (c / 8) a.toNat →
    (privOf x = 2 → exec (.call c w) s = .next (takeException (startIssue s c) c 2 none)) ∧
    (privOf x < 2 → a.toNat % 8 = 0 → ctxMemOk s c (privOf x + 1) false a.toNat 8 = false →
      exec (.call c w) s = .next (takeException (startIssue s c) c 3 (some a))) ∧
    (privOf x < 2 → a.toNat % 8 = 0 → ctxMemOk s c (privOf x + 1) false a.toNat 8 = true → poisoned s k 8 = false →
      exec (.call c w) s = .next (ctxSet (startIssue s c) c (withPriv
        (if privOf x = 1 then
          { runCtx x with epcSt := x.pc + 8, ecsSt := (runCtx x).cs, pc := BitVec.ofNat 64 (memNum s k 8) }
        else { runCtx x with epcOp := x.pc + 8, ecsOp := (runCtx x).cs, pc := BitVec.ofNat 64 (memNum s k 8) })
        (privOf x + 1))))) ∧
  (∀ (c : CtxId) (w : Ins64) (s : State) (x : Ctx), x = ctxGet s c → Issues64 0 true c w s →
    ∃ l, exec (.yield c w) s = .next (ctxSet (startIssue s c) c { withState (runCtx x) 1 with yieldFor := l, pc := x.pc + 8 }) ∧
      ∀ d, d ∈ l ↔ d / 8 = c.val / 8 ∧ d ≠ c.val ∧ (stateOf (ctxGet s d) = 1 ∨ stateOf (ctxGet s d) = 2) ∧
        prioOf x ≤ prioOf (ctxGet s d))

/-- CSTART starts an IDLE context of the issuer's partition: its entry, level, READY, the issuer's share, prio, ld, part and
ordonly, and the issuer's handles but those that the mask clears; else PROTECT, and no context starts. CSTOP ends a context of
the issuer's partition, its own too; CHALT halts one that is READY, RUN or in WAIT; CRESUME sets a halted one of a slot with a
core READY at its new pc; both do nothing to a slot that has no core. Where the named context is the issuer, its pc moves on all
the same. An operator-level start loads a program: the role it selects is taken up where its partition has none, else its change is
issued, and the roles it had go among those whose work is refused (R10, R11; which entry selects which role is the model's free
value, log entry 108; the registers that CSTART keeps, and CHALT and CRESUME of a context they do not fit, log entry 92). -/
def Obligations.Contexts : Prop :=
  (∀ (c : CtxId) (w : Ins64) (s : State) (x : Ctx) (n m : Nat), x = ctxGet s c → n = (getS x w.sa.toNat).toNat →
    m = getF w.imm 2 26 → Issues64 1 true c w s →
    (inPartition s c n = true → stateOf (ctxGet s n) = 0 → getF w.imm 0 2 ≠ 3 → getF w.imm 0 2 ≤ privOf x →
      ∃ y t, t = ctxSet (ctxSet (startIssue s c) n y) c { setS (runCtx x) w.sd.toNat 0 with pc := x.pc + 8 } ∧
        exec (.cstart c w) s = .next (if getF w.imm 0 2 = 1 then loadProgram t (partOf x).val (getS x w.sb.toNat) else t) ∧
        y.pc = getS x w.sb.toNat ∧ stateOf y = 1 ∧ privOf y = getF w.imm 0 2 ∧ prioOf y = prioOf x ∧ shareOf y = shareOf x ∧
        ldOf y = ldOf x ∧ partOf y = partOf x ∧ ordOnly y = ordOnly x ∧ y.s = (ctxGet s n).s ∧ y.p = (ctxGet s n).p ∧
        (∀ i, i < 16 → getQ y i = if m.testBit i then 0 else getQ x i) ∧
        (∀ i, i < 16 → getT y i = if i < 10 ∧ m.testBit (16 + i) then 0 else getT x i)) ∧
    ((inPartition s c n = false ∨ stateOf (ctxGet s n) ≠ 0 ∨ getF w.imm 0 2 = 3 ∨ privOf x < getF w.imm 0 2) →
      exec (.cstart c w) s = .next (ctxSet (startIssue s c) c { setS (runCtx x) w.sd.toNat 7 with pc := x.pc + 8 }))) ∧
  (∀ (s t : State) (p : Nat) (entry : Word) (r : RoleSt), p < 2 → r = roleOfPart s p → t = loadProgram s p entry →
    (Config.roleOf p entry = none → t = s) ∧
    (∀ n, Config.roleOf p entry = some n →
      (r.cur = none ∨ r.cur = some (roleOfNum n) → (roleOfPart t p).cur = some (roleOfNum n) ∧ (roleOfPart t p).next = none) ∧
      (r.cur ≠ none → r.cur ≠ some (roleOfNum n) → (roleOfPart t p).cur = r.cur ∧ (roleOfPart t p).next = some (roleOfNum n)) ∧
      (∀ y, y ∈ (roleOfPart t p).past ↔ (y ∈ r.past ∨ r.cur = some y) ∧ y ≠ roleOfNum n) ∧
      roleOfPart t (1 - p) = roleOfPart s (1 - p) ∧ t = { s with plan := { s.plan with role0 := t.plan.role0, role1 := t.plan.role1 } })) ∧
  (∀ (c : CtxId) (w : Ins64) (s : State) (x : Ctx) (n : Nat) (y : Ctx), x = ctxGet s c → n = (getS x w.sa.toNat).toNat →
    y = ctxGet (startIssue s c) n →
    (Issues64 1 true c w s → inPartition s c n = true → n ≠ c.val →
      exec (.cstop c w) s = .next (ctxSet (ctxSet (startIssue s c) n { withState y 0 with wait := .none, yieldFor := [] }) c
        { setS (runCtx x) w.sd.toNat 0 with pc := x.pc + 8 })) ∧
    (Issues64 1 true c w s → inPartition s c n = true → n = c.val →
      exec (.cstop c w) s = .next (ctxSet (startIssue s c) c
        { setS { withState (runCtx x) 0 with wait := .none } w.sd.toNat 0 with pc := x.pc + 8 })) ∧
    (Issues64 1 true c w s → inPartition s c n = false →
      exec (.cstop c w) s = .next (ctxSet (startIssue s c) c { setS (runCtx x) w.sd.toNat 7 with pc := x.pc + 8 })) ∧
    (Issues64 2 true c w s → n < 128 → stateOf y ∈ [1, 2, 3] → n ≠ c.val → (coreOf s (n / 8)).isSome = true →
      exec (.chalt c w) s = .next (ctxSet (ctxSet (startIssue s c) n { withState y 4 with wait := .none, yieldFor := [] }) c
        { runCtx x with pc := x.pc + 8 })) ∧
    (Issues64 2 true c w s → (128 ≤ n ∨ coreOf s (n / 8) = none) → ∀ i ∈ [Instr.chalt, Instr.cresume],
      exec (i c w) s = .next (ctxSet (startIssue s c) c { runCtx x with pc := x.pc + 8 })) ∧
    (Issues64 2 true c w s → n = c.val →
      exec (.chalt c w) s = .next (ctxSet (startIssue s c) c { withState (runCtx x) 4 with wait := .none, pc := x.pc + 8 })) ∧
    (Issues64 2 true c w s → n ≠ c.val → (stateOf y ∉ [1, 2, 3] → exec (.chalt c w) s =
        .next (ctxSet (startIssue s c) c { runCtx x with pc := x.pc + 8 })) ∧
      (stateOf y ≠ 4 → exec (.cresume c w) s = .next (ctxSet (startIssue s c) c { runCtx x with pc := x.pc + 8 }))) ∧
    (Issues64 2 true c w s → n = c.val → exec (.cresume c w) s = .next (ctxSet (startIssue s c) c { runCtx x with pc := x.pc + 8 })) ∧
    (Issues64 2 true c w s → n < 128 → stateOf y = 4 → (coreOf s (n / 8)).isSome = true →
      exec (.cresume c w) s = .next (ctxSet (ctxSet (startIssue s c) n { withState y 1 with pc := getS x w.sb.toNat }) c
        { runCtx x with pc := x.pc + 8 })))

/-! ## Tallies, waits, handles and queues (R43, R57, R58, R65, R66, R70 to R73, R75, R90) -/

/-- A tally set reads as set, saturating where it is an addition; every other tally, and everything that does not test
tallies, stays; an armed arm in whose range it reaches the value has fired and is disarmed, its message due (R396); the head of a queue whose condition it meets takes cause 2
(R71, R72, R73). TSET, TADD and TREAD through a
bound handle; through an unbound or, of the first two, a read-only one they raise HANDLE. -/
def Obligations.Tallies : Prop :=
  (∀ (s : State) (i n : Nat) (v : Word),
    (∀ t, t = tallySet s i v → tally t i = v ∧ (∀ j, j ≠ i → tally t j = tally s j) ∧
      t = { s with tallies := t.tallies, ops := t.ops, ldg := t.ldg, arms := t.arms } ∧ t.ldg.entries = s.ldg.entries ∧
      (∀ k a l, a = tget {} s.arms k → l = tget {} s.cxd.lds (k / 64) →
        tget {} t.arms k = if a.armed = true ∧ a.tally.toNat = i ∧ l.tbase.toNat ≤ i ∧ i < l.tbase.toNat + l.tcount.toNat ∧
            a.value.toNat ≤ v.toNat then { a with armed := false, fired := true, due := true } else a) ∧
      (∀ q o, headOf s q = some o → o.trig = none → o.seenHead = true →
        condHolds { s with tallies := tset 0 s.tallies i v } o = true → headOf t q = some { o with trig := some 2 }) ∧
      (∀ q o, headOf s q = some o → o.trig = none → o.seenHead = true →
        condHolds { s with tallies := tset 0 s.tallies i v } o = false → headOf t q = some o)) ∧
    (tally (tallyAdd s i n) i).toNat = min ((tally s i).toNat + n) (2 ^ 64 - 1)) ∧
  (∀ (c : CtxId) (w : Ins64) (s : State) (x : Ctx) (h : Nat), x = ctxGet s c → h = (getT x w.sa.toNat).toNat →
    Issues64 0 (decide (w.sa.toNat < 16)) c w s →
    (h.testBit 31 = true → h.testBit 30 = false →
      exec (.tset c w) s = .next (ctxSet (tallySet (startIssue s c) (h % 4096) (opB x w)) c { runCtx x with pc := x.pc + 8 }) ∧
      exec (.tadd c w) s = .next (ctxSet (tallyAdd (startIssue s c) (h % 4096) (opB x w).toNat) c { runCtx x with pc := x.pc + 8 })) ∧
    (h.testBit 31 = true →
      exec (.tread c w) s = .next (ctxSet (startIssue s c) c
        { setS (runCtx x) w.sd.toNat (tally s (h % 4096)) with pc := x.pc + 8 })) ∧
    (h.testBit 31 = false ∨ h.testBit 30 = true →
      exec (.tset c w) s = .next (takeException (startIssue s c) c 5 none) ∧
      exec (.tadd c w) s = .next (takeException (startIssue s c) c 5 none)) ∧
    (h.testBit 31 = false → exec (.tread c w) s = .next (takeException (startIssue s c) c 5 none)))

/-- TWAIT, BWAIT and TWAITB complete at once where the condition holds, with COMPLETE, or TIMEOUT where only TWAITB's bell has
been reached, and else place the context in WAIT; on the bell no wait completes while the reference is lost. A waiting context
wakes when its condition holds, with its status, past its instruction; while it does not hold nothing changes. -/
def Obligations.Waits : Prop :=
  (∀ (c : CtxId) (w : Ins64) (s : State) (x : Ctx) (i : Nat) (v b : Word) (y : Byte → Ctx) (z : Wait → Ctx), x = ctxGet s c →
    i = (getT x w.sa.toNat).toNat % 4096 → v = getS x w.sb.toNat → b = getS x w.sd.toNat →
    (∀ st, y st = { setS (runCtx x) w.sd.toNat (st.setWidth 64) with pc := x.pc + 8 }) →
    (∀ wt, z wt = { withState (runCtx x) 3 with wait := wt }) →
    (Issues64 0 (decide (w.sa.toNat < 16)) c w s → (getT x w.sa.toNat).toNat.testBit 31 = true →
      (v.toNat ≤ (tally s i).toNat →
        exec (.twait c w) s = .next (ctxSet (startIssue s c) c (y 0)) ∧ exec (.twaitb c w) s = .next (ctxSet (startIssue s c) c (y 0))) ∧
      ((tally s i).toNat < v.toNat → exec (.twait c w) s = .next (ctxSet (startIssue s c) c (z (.tally i v w.sd)))) ∧
      ((tally s i).toNat < v.toNat → b.toNat ≤ s.clk.bell.toNat → s.clk.refPresent = true →
        exec (.twaitb c w) s = .next (ctxSet (startIssue s c) c (y 4))) ∧
      ((tally s i).toNat < v.toNat → (s.clk.bell.toNat < b.toNat ∨ s.clk.refPresent = false) →
        exec (.twaitb c w) s = .next (ctxSet (startIssue s c) c (z (.either i v b w.sd))))) ∧
    (Issues64 0 true c w s →
      (v.toNat ≤ s.clk.bell.toNat → s.clk.refPresent = true → exec (.bwait c w) s = .next (ctxSet (startIssue s c) c (y 0))) ∧
      ((s.clk.bell.toNat < v.toNat ∨ s.clk.refPresent = false) →
        exec (.bwait c w) s = .next (ctxSet (startIssue s c) c (z (.bell v w.sd)))))) ∧
  (∀ (c : CtxId) (s : State) (x : Ctx) (y : BitVec 6 → Byte → Ctx), x = ctxGet s c → s.phase = .running → stateOf x = 3 →
    (∀ sd st, y sd st = { withState (setS x sd.toNat (st.setWidth 64)) 1 with wait := .none, pc := x.pc + 8 }) →
    (∀ i v sd, x.wait = .tally i v sd →
      (v.toNat ≤ (tally s i).toNat → exec (.waitWake c) s = .next (ctxSet s c (y sd 0))) ∧
      ((tally s i).toNat < v.toNat → exec (.waitWake c) s = .next s)) ∧
    (∀ v sd, x.wait = .bell v sd →
      (v.toNat ≤ s.clk.bell.toNat ∧ s.clk.refPresent = true → exec (.waitWake c) s = .next (ctxSet s c (y sd 0))) ∧
      (s.clk.bell.toNat < v.toNat ∨ s.clk.refPresent = false → exec (.waitWake c) s = .next s)) ∧
    (∀ i v b sd, x.wait = .either i v b sd →
      (v.toNat ≤ (tally s i).toNat → exec (.waitWake c) s = .next (ctxSet s c (y sd 0))) ∧
      ((tally s i).toNat < v.toNat → b.toNat ≤ s.clk.bell.toNat → s.clk.refPresent = true →
        exec (.waitWake c) s = .next (ctxSet s c (y sd 4))) ∧
      ((tally s i).toNat < v.toNat → (s.clk.bell.toNat < b.toNat ∨ s.clk.refPresent = false) → exec (.waitWake c) s = .next s)))

/-- QBIND and TBIND bind a handle to a queue or tally of the context's partition: the bound bit, the number, the kind or the
read-only mark; a number outside the partition's quota is refused with PROTECT, the handle unchanged (R57, R58). -/
def Obligations.HandleBinding : Prop :=
  ∀ (c : CtxId) (w : Ins64) (s : State) (x : Ctx) (n : Nat), x = ctxGet s c → n = (getS x w.sb.toNat).toNat →
    Issues64 1 (decide (w.sd.toNat < 16)) c w s →
    (n < 1024 → holdsQueue s (partOf x) n = true →
      ∃ h, exec (.qbind c w) s = .next (ctxSet (startIssue s c) c
          { setS { runCtx x with q := tset 0 x.q w.sd.toNat h } w.sa.toNat 0 with pc := x.pc + 8 }) ∧
        h.toNat % 1024 = n ∧ h.toNat.testBit 31 = true ∧ getF h 16 8 = (queueGet s n).kind.toNat) ∧
    (n < 4096 → holdsTally s (partOf x) n = true →
      ∃ h, exec (.tbind c w) s = .next (ctxSet (startIssue s c) c
          { setS { runCtx x with t := tset 0 x.t w.sd.toNat h } w.sa.toNat 0 with pc := x.pc + 8 }) ∧
        h.toNat % 4096 = n ∧ h.toNat.testBit 31 = true ∧ h.toNat.testBit 30 = w.imm.toNat.testBit 0) ∧
    ((1024 ≤ n ∨ holdsQueue s (partOf x) n = false) →
      exec (.qbind c w) s = .next (ctxSet (startIssue s c) c { setS (runCtx x) w.sa.toNat 7 with pc := x.pc + 8 })) ∧
    ((4096 ≤ n ∨ holdsTally s (partOf x) n = false) →
      exec (.tbind c w) s = .next (ctxSet (startIssue s c) c { setS (runCtx x) w.sa.toNat 7 with pc := x.pc + 8 }))

/-- QFREE frees slots whose completion records are written, in ring order, up to b and to the tail, and answers how many; from
another partition it frees none. QDESC writes a descriptor of the issuer's partition: prio and share always, base, depth and
kind only while the queue is empty; a bad number or a head beyond the tail changes nothing; where a bank of its image is busy the context is in WAIT with it (R194). -/
def Obligations.QueueInstructions : Prop :=
  (∀ (c : CtxId) (w : Ins64) (s : State) (x : Ctx) (q : Nat) (d : QDesc), x = ctxGet s c → q = (getQ x w.sa.toNat).toNat % 1024 →
    (getQ x w.sa.toNat).toNat.testBit 31 = true → d = queueGet s q → Issues64 0 (decide (w.sa.toNat < 16)) c w s →
    (holdsQueue s (partOf x) q = true →
      ∃ t k, exec (.qfree c w) s = .next t ∧ k ≤ (opB x w).toNat ∧ k ≤ (d.tail - d.head).toNat ∧
        queueGet t q = { d with head := d.head + BitVec.ofNat 13 k } ∧ (∀ j, j ≠ q → queueGet t j = queueGet s j) ∧
        ctxGet t c = { setS (runCtx x) w.sd.toNat (BitVec.ofNat 64 k) with pc := x.pc + 8 } ∧ Say.others s t c ∧
        t = { s with ctxs := t.ctxs, queues := t.queues, ops := t.ops } ∧
        (∀ j, j < k → ∃ o ∈ s.ops, o.queue = q ∧ o.slot = d.head + BitVec.ofNat 13 j ∧ o.phase = .recorded) ∧
        (k < (opB x w).toNat → k < (d.tail - d.head).toNat →
          ∀ o ∈ s.ops, o.queue = q → o.slot = d.head + BitVec.ofNat 13 k → o.phase ≠ .recorded) ∧
        ∀ o, o ∈ t.ops ↔ o ∈ s.ops ∧ ¬∃ j, j < k ∧ o.queue = q ∧ o.slot = d.head + BitVec.ofNat 13 j ∧ o.phase = .recorded) ∧
    (holdsQueue s (partOf x) q = false →
      exec (.qfree c w) s = .next (ctxSet (startIssue s c) c { setS (runCtx x) w.sd.toNat 0 with pc := x.pc + 8 }))) ∧
  (∀ (c : CtxId) (w : Ins128) (s : State) (x : Ctx) (q img n : Nat) (d : QDesc), x = ctxGet s c → q = (getS x w.sa.toNat).toNat →
    ctxRead s c (getS x w.sb.toNat) 16 8 = .ok img → d = queueGet s q → n = (BitVec.ofNat 13 (bf img 40 13) - d.head).toNat →
    Issues128 1 c w s → s.mem.access = none →
    (bankHolds s false (getS x w.sb.toNat).toNat 16 = true →
      exec (.qdesc c w) s = .next (ctxSet (startIssue s c) c { withState (runCtx x) 3 with wait := .redo (.qdesc c w) })) ∧
    (bankHolds s false (getS x w.sb.toNat).toNat 16 = false → q < 1024 → holdsQueue s (partOf x) q = true → n ≤ (d.tail - d.head).toNat →
      ∃ t y, exec (.qdesc c w) s = .next t ∧ y = queueGet t q ∧ (∀ j, j ≠ q → queueGet t j = queueGet s j) ∧
        ctxGet t c = { setS (runCtx x) w.sd.toNat 0 with pc := x.pc + 16 } ∧ Say.others s t c ∧
        t = { s with ctxs := t.ctxs, queues := t.queues, ops := t.ops } ∧ y.tail = d.tail ∧ (y.head - d.head).toNat ≤ n ∧
        y.prio.toNat = bf img 32 4 ∧ y.share.toNat = bf img 16 8 ∧
        (d.tail ≠ d.head → y.base = d.base ∧ y.depth = d.depth ∧ y.kind = d.kind) ∧
        (d.tail = d.head → y.base.toNat = bf img 70 58 ∧ (4 ≤ bf img 36 4 → bf img 36 4 ≤ 12 → y.depth.toNat = bf img 36 4) ∧
          (1 ≤ bf img 24 8 → bf img 24 8 ≤ 10 → y.kind.toNat = bf img 24 8)) ∧
        (privOf x = 1 → y.part = d.part ∧ y.ld = d.ld) ∧
        (privOf x = 2 → y.part.val = bf img 4 1 ∧ y.ld.val = bf img 0 4)) ∧
    (bankHolds s false (getS x w.sb.toNat).toNat 16 = false → (1024 ≤ q ∨ holdsQueue s (partOf x) q = false ∨ (d.tail - d.head).toNat < n) →
      exec (.qdesc c w) s = .next (ctxSet (startIssue s c) c { setS (runCtx x) w.sd.toNat 7 with pc := x.pc + 16 })))

/-! ## Posts, tickets, launch, the record, aborts (R63, R64, R66 to R72, R77 to R79) -/

/-- The operation of a ticket has ended with a status after n steps, its record to be written. -/
def Sys2Proof.Say.done (t : State) (tk : Ticket) (st : Byte) (n : Nat) : Prop :=
  ∃ o, opGet t tk = some o ∧ o.phase = .ended ∧ o.status = st ∧ o.steps = min n 0xFFFF

/-- What a post makes of context x's instruction w of a class and op at queue q, from a manifest image and the bytes after it:
the ticket from the context and its post count, the fields that the device fills in, the launch condition. -/
def Sys2Proof.Say.made (s : State) (c : CtxId) (w : Ins128) (cls op q img : Nat) (o : Op) : Prop :=
  let x := ctxGet s c; let d := queueGet s q
  o.ticket.toNat = c.val * 2 ^ 25 + x.posts.toNat ∧ o.queue = q ∧ o.slot = d.tail ∧ o.level.toNat = privOf x ∧ o.part = d.part ∧
  o.ctxPart = partOf x ∧ o.ld = d.ld ∧ o.share = d.share ∧ o.prio.toNat = max (prioOf x) d.prio.toNat ∧ o.cls = cls ∧ o.op = op ∧
  o.request.toNat = bf img 64 32 ∧ o.edition.toNat = bf img 96 32 ∧ o.ord = (w.ord || ordOnly x) ∧ o.body.toNat = bf img 128 384 ∧
  o.phase = .queued ∧ o.whn = w.whn ∧ (w.whn ≠ 0 → w.whn ≠ 2 → o.bellAt = getS x w.sc.toNat) ∧
  (w.whn = 2 → o.tallyAt = getS x w.sc.toNat) ∧ (w.whn = 3 ∨ w.whn = 4 → o.tallyAt = getS x (w.sc.toNat + 1))

/-- A posted instruction whose image is 8-byte aligned, granted and clean, through a bound handle, to a queue that is not
full, makes its post: the manifest in the next slot, the ticket in s[sd], the tail and the context's post count one more. A
post that cannot be made: an unbound handle raises HANDLE, a refused, misaligned or poisoned image its exception, and a full
queue puts the context in WAIT with its post (R61, R63, R66, R80). A context's post that a full queue held: while the queue is
full nothing changes; once it is not, the post is made and the context is READY past its instruction. No bank of the image or of
the slot is busy: where one of the image's is, the context waits with its post as on a full queue (R194). -/
def Obligations.Posting : Prop :=
  (∀ (p : (Posted → Instr) × Nat × Nat × Nat × Bool) (c : CtxId) (w : Ins128) (s : State) (x : Ctx) (q img n : Nat),
    p ∈ Say.postedRows → x = ctxGet s c → Issues 16 p.2.2.2.1 (postFormatOk p.2.2.2.2 w) w.pred w.pneg c s →
    (getQ x w.q.toNat).toNat.testBit 31 = true → q = (getQ x w.q.toNat).toNat % 1024 →
    (2 ≤ w.whn.toNat → (getT x w.tl.toNat).toNat.testBit 31 = true) → n = (if p.2.1 = 3 ∧ p.2.2.1 = 0 then 80 else 64) →
    ctxRead s c (getS x w.sa.toNat) n 8 = .ok img → queueFull (queueGet s q) = false → Quiet s →
    ∃ t o l, exec (p.1 (.issue c w)) s = .next t ∧ Say.made s c w p.2.1 p.2.2.1 q img o ∧
      t.ops = settleOps s 2 [] (s.ops ++ [o]) ∧
      ctxGet t c = { setS (runCtx x) w.sd.toNat (o.ticket.setWidth 64) with posts := x.posts + 1, pc := x.pc + 16 } ∧
      Say.others s t c ∧ queueGet t q = { queueGet s q with tail := (queueGet s q).tail + 1 } ∧
      (∀ j, j ≠ q → queueGet t j = queueGet s j) ∧
      t = { memWrite s (ringAddr s q (queueGet s q).tail.toNat) l with ctxs := t.ctxs, queues := t.queues, ops := t.ops } ∧
      l.length = 64 ∧ l.drop 16 = leBytes 48 (bf img 128 384) ∧ bf (ofLe l) 0 16 = bf img 0 16 ∧ bf (ofLe l) 31 1 = 0 ∧
      bf (ofLe l) 40 8 = (queueGet s q).share.toNat ∧ bf (ofLe l) 36 4 = o.prio.toNat ∧ bf (ofLe l) 64 64 = bf img 64 64) ∧
  (∀ (p : (Posted → Instr) × Nat × Nat × Nat × Bool) (c : CtxId) (w : Ins128) (s : State) (x : Ctx) (q n : Nat),
    p ∈ Say.postedRows → x = ctxGet s c → Issues 16 p.2.2.2.1 (postFormatOk p.2.2.2.2 w) w.pred w.pneg c s →
    q = (getQ x w.q.toNat).toNat % 1024 → n = (if p.2.1 = 3 ∧ p.2.2.1 = 0 then 80 else 64) → s.mem.access = none →
    (((getQ x w.q.toNat).toNat.testBit 31 = false ∨ (2 ≤ w.whn.toNat ∧ (getT x w.tl.toNat).toNat.testBit 31 = false)) →
      exec (p.1 (.issue c w)) s = .next (takeException (startIssue s c) c 5 none)) ∧
    ((getQ x w.q.toNat).toNat.testBit 31 = true → (2 ≤ w.whn.toNat → (getT x w.tl.toNat).toNat.testBit 31 = true) →
      (∀ cause fa, ctxRead s c (getS x w.sa.toNat) n 8 = .error (cause, fa) →
        exec (p.1 (.issue c w)) s = .next (takeException (startIssue s c) c cause fa)) ∧
      (∀ img, ctxRead s c (getS x w.sa.toNat) n 8 = .ok img → (queueFull (queueGet s q) = true ∨ bankHolds s false (getS x w.sa.toNat).toNat n = true) →
        exec (p.1 (.issue c w)) s = .next (ctxSet (startIssue s c) c
          { withState (runCtx x) 3 with wait := .post p.2.1 p.2.2.1 w })))) ∧
  (∀ (c : CtxId) (w : Ins128) (s : State) (x : Ctx) (cls op q img n : Nat), x = ctxGet s c → s.phase = .running →
    stateOf x = 3 → x.wait = .post cls op w → (getQ x w.q.toNat).toNat.testBit 31 = true → q = (getQ x w.q.toNat).toNat % 1024 →
    (queueFull (queueGet s q) = true → exec (.postResume (.ctx c)) s = .next s) ∧
    (queueFull (queueGet s q) = false → (2 ≤ w.whn.toNat → (getT x w.tl.toNat).toNat.testBit 31 = true) →
      w.whn.toNat ≤ 4 → n = (if cls = 3 ∧ op = 0 then 80 else 64) → ctxRead s c (getS x w.sa.toNat) n 8 = .ok img → Quiet s →
      ∃ t o, exec (.postResume (.ctx c)) s = .next t ∧ Say.made s c w cls op q img o ∧ t.ops = settleOps s 2 [] (s.ops ++ [o]) ∧
        ctxGet t c = { setS (withState x 1) w.sd.toNat (o.ticket.setWidth 64) with
          wait := .none, posts := x.posts + 1, pc := x.pc + 16 } ∧
        (∀ d, d ≠ c.val → ctxGet t d = ctxGet s d) ∧ queueGet t q = { queueGet s q with tail := (queueGet s q).tail + 1 }))

/-- A ticket holds its context's number at bits 31:25 and the context's post count at bits 24:0; of two operations that two
contexts post, or that one context posts at different counts, the tickets differ (R64). -/
def Obligations.TicketsDiffer : Prop :=
  ∀ (s s' : State) (c c' : CtxId) (w w' : Ins128) (cls op cls' op' q q' img img' ex ex' : Nat),
    (opOfPost s c w cls op q img ex).ticket.toNat = c.val * 2 ^ 25 + (ctxGet s c).posts.toNat ∧
    ((opOfPost s c w cls op q img ex).ticket = (opOfPost s' c' w' cls' op' q' img' ex').ticket →
      c = c' ∧ (ctxGet s c).posts = (ctxGet s' c').posts)

/-! ## Synchronous ledger, page, power and security instructions (R93, R103 to R105, R112, R142, R356 to R365, R380) -/

/-- What an instruction of n bytes that only reads, or changes what is not a context's, leaves: u with the issuer's s[sd] a status
or value and its pc moved on. -/
def Sys2Proof.Say.gave (c : CtxId) (s u : State) (sd : BitVec 6) (v : Word) (n : Nat) : State :=
  ctxSet u c { setS (runCtx (ctxGet s c)) sd.toNat v with pc := (ctxGet s c).pc + BitVec.ofNat 64 n }

/-- PXLATE of a request that has a ledger entry in the issuer's partition completes: s[sd] and s[sd + 1] take the low and the high
half of the 16-byte page entry of the token in bits 19:0 of s[sb] at the layer in bits 27:20. On a look-aside hit that is the entry
held, with no walk, and nothing changes but the mark of its use; on a miss it is the walk's, whose table entries of 0 where poisoned
are the model's choice (log entry 15). Storage never changes. A request without an entry raises PROTECT; an odd sd raises ILLEGAL,
the model's choice (log entry 94). PINV completes: every look-aside entry of the request in all walkers is dropped, and every entry
of another request stays; that the token range of s[sb], which the spec gives no form, bounds nothing is the model's choice (log
entry 18). R93, R142. -/
def Obligations.TranslateAndInvalidate : Prop :=
  ∀ (c : CtxId) (w : Ins128) (s : State) (x : Ctx) (r layer tok : Nat), x = ctxGet s c → r = (getS x w.sa.toNat).toNat →
    layer = (getS x w.sb.toNat).toNat / 2 ^ 20 % 256 → tok = (getS x w.sb.toNat).toNat % 2 ^ 20 →
    (∀ e, Issues128 0 c w s → w.sd.toNat % 2 = 0 → r < 2 ^ 32 → entryIn s (partOf x) r = some e →
      ∃ t v, exec (.pxlate c w) s = .next t ∧ v = (translate (startIssue s c) r e layer tok).1 ∧
        ctxGet t c = { setS (setS (runCtx x) w.sd.toNat (BitVec.ofNat 64 v)) (w.sd.toNat + 1) (BitVec.ofNat 64 (v / 2 ^ 64)) with
          pc := x.pc + 16 } ∧
        Say.others s t c ∧ t = { s with ctxs := t.ctxs, wlk := { s.wlk with la := t.wlk.la } } ∧
        ∀ k h, walkerOf s r = some k → h ∈ tget [] s.wlk.la k → h.req.toNat = r → h.g = tok / 256 → h.layer = layer →
          ∃ h' ∈ tget [] s.wlk.la k, h'.req.toNat = r ∧ h'.g = tok / 256 ∧ h'.layer = layer ∧ v = h'.pte.toNat) ∧
    (Issues128 0 c w s → w.sd.toNat % 2 = 0 → (2 ^ 32 ≤ r ∨ entryIn s (partOf x) r = none) →
      exec (.pxlate c w) s = .next (takeException (startIssue s c) c 3 none)) ∧
    (Issues128 0 c w s → w.sd.toNat % 2 = 1 →
      exec (.pxlate c w) s = .next (takeException (startIssue s c) c 1 none)) ∧
    (Issues128 1 c w s →
      ∃ t, exec (.pinv c w) s = .next t ∧ t = { s with ctxs := t.ctxs, wlk := { s.wlk with la := t.wlk.la } } ∧ Say.others s t c ∧
        ctxGet t c = { runCtx x with pc := x.pc + 16 } ∧ (∀ y ∈ t.wlk.la, ∀ e ∈ y.2, e.req.toNat ≠ r) ∧
        ∀ k l e, (k, l) ∈ s.wlk.la → e ∈ l → e.req.toNat ≠ r → ∃ l', (k, l') ∈ t.wlk.la ∧ e ∈ l')

/-- The power instructions: PWREAD's telemetry; PWGATE gates and ungates clusters of the partition; PWHOLD holds and releases
launches of engine kinds; PWBUDGET sets a budget within the grant; PWENV the envelope, from 900 to 1850 W, partition 1's grant
lowered first; PWVSET the target voltage of a region in service (R362 to R365; a region that is none, log entry 77, the budget
that none was set for, log entry 47, and PWGATE with b above 1, log entry 48, are the model's choices). -/
def Obligations.PowerInstructions : Prop :=
  ∀ (c : CtxId) (w : Ins64) (s u : State) (x : Ctx) (p m : Nat), x = ctxGet s c → u = startIssue s c → p = (partOf x).val →
    m = (getS x w.sa.toNat).toNat →
    (Issues64 1 true c w s →
      exec (.pwread c w) s = .next (Say.gave c s u w.sd (telemetry s (getF w.imm 0 8)) 8) ∧
      (∃ b, b.toNat = min m (tget 0 s.pwr.grant p).toNat ∧
        exec (.pwbudget c w) s = .next (ctxSet { u with pwr := { s.pwr with budget := tset 0x7FF s.pwr.budget p b } } c
          { runCtx x with pc := x.pc + 8 })) ∧
      (∃ h, exec (.pwhold c w) s = .next (ctxSet { u with pwr := { s.pwr with pwhold := tset 0 s.pwr.pwhold p h } } c
          { runCtx x with pc := x.pc + 8 }) ∧
        ∀ i, h.toNat.testBit i = if 1 ≤ i ∧ i ≤ 10 ∧ m.testBit i ∧ (opB x w = 0 ∨ opB x w = 1) then decide (opB x w = 1)
          else (tget 0 s.pwr.pwhold p).toNat.testBit i)) ∧
    (Issues64 1 true c w s → m < 2 ^ 16 →
      (∀ i, i < 16 → m.testBit i = true → holdsCluster s (partOf x) i = true ∧ unitIn s (uid 2 i) = true) →
      (opB x w = 0 ∨ opB x w = 1 →
        ∃ g, exec (.pwgate c w) s = .next (Say.gave c s { u with units := { s.units with gated := g } } w.sd 0 8) ∧
          ∀ i, g.toNat.testBit i = if i < 16 ∧ m.testBit i then decide (opB x w = 0) else s.units.gated.toNat.testBit i) ∧
      (opB x w ≠ 0 → opB x w ≠ 1 → ∃ v, v.toNat < 12 ∧
        exec (.pwgate c w) s = .next (Say.gave c s { u with free := s.free + 1 } w.sd v 8))) ∧
    (Issues64 1 true c w s → (2 ^ 16 ≤ m ∨ ∃ i, i < 16 ∧ m.testBit i = true ∧
        (holdsCluster s (partOf x) i = false ∨ unitIn s (uid 2 i) = false)) →
      exec (.pwgate c w) s = .next (Say.gave c s u w.sd 7 8)) ∧
    (Issues64 2 true c w s → 900 ≤ m → m ≤ 1850 →
      ∃ t, exec (.pwenv c w) s = .next t ∧ t = { s with ctxs := t.ctxs, pwr := { s.pwr with env := t.pwr.env, grant := t.pwr.grant } } ∧
        ctxGet t c = { setS (runCtx x) w.sd.toNat 0 with pc := x.pc + 8 } ∧ Say.others s t c ∧ t.pwr.env.toNat = m ∧
        (grantOfPart s 0 + grantOfPart s 1 ≤ m → grantOfPart t 0 = grantOfPart s 0 ∧ grantOfPart t 1 = grantOfPart s 1) ∧
        (m < grantOfPart s 0 + grantOfPart s 1 → grantOfPart t 0 + grantOfPart t 1 = m ∧
          (grantOfPart t 0 < grantOfPart s 0 → grantOfPart t 1 = 0))) ∧
    (Issues64 2 true c w s → (m < 900 ∨ 1850 < m) → exec (.pwenv c w) s = .next (Say.gave c s u w.sd 7 8)) ∧
    (Issues64 2 true c w s → (83 ≤ m ∨ regionIn s m = false) →
      exec (.pwvset c w) s = .next (ctxSet u c { runCtx x with pc := x.pc + 8 })) ∧
    (Issues64 2 true c w s → m < 83 → regionIn s m = true →
      ∃ t, exec (.pwvset c w) s = .next t ∧ t = { s with ctxs := t.ctxs, pwr := { s.pwr with target := t.pwr.target, volt := t.pwr.volt } } ∧
        ctxGet t c = { runCtx x with pc := x.pc + 8 } ∧ Say.others s t c ∧
        (tget 0xFFFF t.pwr.target m).toNat = min (getS x w.sb.toNat).toNat 0xFFFE ∧
        (∀ j, j ≠ m → tget 0xFFFF t.pwr.target j = tget 0xFFFF s.pwr.target j) ∧
        ∀ j, j < 83 → tget 0 t.pwr.volt j = regionMv t j)

/-- PTWR writes an entry of the protection table, PTRD reads one to memory, PARTSET writes a partition descriptor, a change of
the floor plan that ends the writes of the row maps of its stacks; a number beyond the table or a record that breaks its rules
gives PROTECT and changes nothing (R32, R104, R190, R380; what a descriptor must keep beside that is the model's choice, log entries 71, 91
and 157). -/
def Obligations.ProtectionAndPartitions : Prop :=
  ∀ (c : CtxId) (w : Ins64) (s u : State) (x : Ctx) (i : Nat), x = ctxGet s c → u = startIssue s c →
    i = (getS x w.sa.toNat).toNat → Issues64 2 true c w s → Quiet s →
    (∀ v, ctxRead s c (getS x w.sb.toNat) 16 8 = .ok v → i < 4096 → protOk v = true →
      exec (.ptwr c w) s = .next (Say.gave c s
        { u with sec := { s.sec with prot := tset protReset s.sec.prot i (BitVec.ofNat 128 v) } } w.sd 0 8)) ∧
    (∀ v, ctxRead s c (getS x w.sb.toNat) 16 8 = .ok v → (4096 ≤ i ∨ protOk v = false) →
      exec (.ptwr c w) s = .next (Say.gave c s u w.sd 7 8)) ∧
    (∀ k, ctxAccess s c true (getS x w.sb.toNat) 16 8 = .ok k → i < 4096 →
      exec (.ptrd c w) s = .next (Say.gave c s (memWriteNum u k 16 (tget protReset s.sec.prot i).toNat) w.sd 0 8)) ∧
    (4096 ≤ i → exec (.ptrd c w) s = .next (Say.gave c s u w.sd 7 8)) ∧
    (∀ v, ctxRead s c (getS x w.sb.toNat) 64 64 = .ok v →
      (i = 0 → partsetOk u 0 v = true →
        exec (.partset c w) s = .next (Say.gave c s { u with
          plan := { s.plan with part0 := partOfBytes v, change := s.plan.change + 2 },
          mem := { s.mem with frozen := s.mem.frozen ||| (partOfBytes v).stackSet } } w.sd 0 8)) ∧
      (i = 1 → partsetOk u 1 v = true →
        exec (.partset c w) s = .next (Say.gave c s { u with
          plan := { s.plan with part1 := partOfBytes v, change := s.plan.change + 2 },
          mem := { s.mem with frozen := s.mem.frozen ||| (partOfBytes v).stackSet } } w.sd 0 8)) ∧
      ((1 < i ∨ (i = 0 ∧ partsetOk u 0 v = false) ∨ (i = 1 ∧ partsetOk u 1 v = false)) →
        exec (.partset c w) s = .next (Say.gave c s u w.sd 7 8)))

/-- SPAREIN binds a spare to a slot of its domain and retires the unit bound there; RETIRE takes a unit out of service; an
identifier that names no unit gives PROTECT, a unit that is no spare NO_SPARE (R103). PRESET begins a partial reset of a tile,
a cluster or a partition of the issuer's reach: the scope is under reset, its tiles' state is emptied; other scopes give
PROTECT. PARTIAL_RESET_END ends it, a partition's once its work and the records being taken of its host rings have ended (R356 to
R359, R395). The model's choices: which units are
spares (log entry 6), the order of SPAREIN's checks (log entry 13), when a reset empties what it resets (log entry 78). -/
def Obligations.SparingAndPartialReset : Prop :=
  (∀ (c : CtxId) (w : Ins64) (s : State) (x : Ctx) (u : UnitId) (v k : Nat), x = ctxGet s c → Issues64 2 true c w s →
    (v = (getS x w.sb.toNat).toNat → k = (getS x w.sa.toNat).toNat → u = BitVec.ofNat 32 v →
      (v < 2 ^ 32 → validUnit u = true → k < (domainSize (unitKind u)).2 → (fptGet s u).state = 1 →
        ∃ t, exec (.sparein c w) s = .next t ∧ ctxGet t c = { setS (runCtx x) w.sd.toNat 0 with pc := x.pc + 8 } ∧
          (fptGet t u).state = 0 ∧ (fptGet t u).slot.toNat = k ∧ (fptGet t u).origin = 2 ∧
          (∀ b, boundTo s (unitKind u) (unitIndex u) k = some b → (fptGet t b).state = 2 ∧ (fptGet t b).slot = 0xFFFF) ∧
          t.plan.change = s.plan.change + 2) ∧
      ((2 ^ 32 ≤ v ∨ validUnit u = false) → exec (.sparein c w) s = .next (Say.gave c s (startIssue s c) w.sd 7 8)) ∧
      (v < 2 ^ 32 → validUnit u = true → (domainSize (unitKind u)).1 = 0 →
        exec (.sparein c w) s = .next (Say.gave c s (startIssue s c) w.sd 11 8)) ∧
      (v < 2 ^ 32 → validUnit u = true → (domainSize (unitKind u)).1 ≠ 0 → k < (domainSize (unitKind u)).2 →
        (fptGet s u).state ≠ 1 → exec (.sparein c w) s = .next (Say.gave c s (startIssue s c) w.sd 11 8))) ∧
    (v = (getS x w.sa.toNat).toNat → u = BitVec.ofNat 32 v →
      (v < 2 ^ 32 → validUnit u = true → (fptGet s u).state ≠ 2 →
        ∃ t, exec (.retire c w) s = .next t ∧ getS (ctxGet t c) w.sd.toNat = 0 ∧ (fptGet t u).state = 2 ∧
          t.plan.change = s.plan.change + 2) ∧
      (v < 2 ^ 32 → validUnit u = true → (fptGet s u).state = 2 →
        exec (.retire c w) s = .next (Say.gave c s (startIssue s c) w.sd 0 8)) ∧
      ((2 ^ 32 ≤ v ∨ validUnit u = false) → exec (.retire c w) s = .next (Say.gave c s (startIssue s c) w.sd 7 8)))) ∧
  ((∀ (c : CtxId) (w : Ins64) (s : State) (x : Ctx) (v : Nat), x = ctxGet s c → v = (getS x w.sa.toNat).toNat → Issues64 2 true c w s →
    (∀ r, presetScope s (partOf x) v = some r →
      ∃ t, exec (.preset c w) s = .next t ∧ t.pwr.resets = s.pwr.resets ++ [r] ∧ t.plan = s.plan ∧
        ((∀ p, r ≠ .partition p) → getS (ctxGet t c) w.sd.toNat = 0 ∧
          ∀ i, i ∈ scopeSlots s r → t.units.tiles.all (fun y => y.1 ≠ i) = true) ∧
        ∀ p, r = .partition p → ∀ d, d < 128 → holdsCore s p (d / 8) = true → stateOf (ctxGet t d) = 0) ∧
    (presetScope s (partOf x) v = none → exec (.preset c w) s = .next (Say.gave c s (startIssue s c) w.sd 7 8))) ∧
  ∀ (r : ResetScope) (s : State), s.phase = .running → r ∈ s.pwr.resets →
    (∀ p, r = .partition p → (s.ops.any (fun o => o.part = p && o.phase ≠ .recorded) = true ∨ s.pwr.resets.any (resetIn s p) = true ∨
      s.mem.works.any (ringOf p) = true) → exec (.partialResetEnd r) s = .next s) ∧
    ((∀ p, r ≠ .partition p) → exec (.partialResetEnd r) s =
      .next { s with pwr := { s.pwr with resets := s.pwr.resets.filter fun x => x ≠ r } }) ∧
    (∀ p, r = .partition p → s.ops.any (fun o => o.part = p && o.phase ≠ .recorded) = false → s.pwr.resets.any (resetIn s p) = false →
      s.mem.works.any (ringOf p) = false →
      ∃ t, exec (.partialResetEnd r) s = .next t ∧ t.pwr.resets = s.pwr.resets.filter (fun x => x ≠ r) ∧
        (∀ i, holdsTally s p i = true → tally t i = 0) ∧ ∀ d, d < 128 → holdsCore s p (d / 8) = true → stateOf (ctxGet t d) = 0))

/-! ## The ledger (R105 to R132, R172, R394) -/

/-- An engine's work answers a next state in which its operation has ended with a status after n steps, contexts and the
queue are as they were, and what Q says holds. -/
def Sys2Proof.Say.ends (i : Instr) (s : State) (tk : Ticket) (st : Byte) (n : Nat) (Q : State → Prop) : Prop :=
  ∃ t, exec i s = .next t ∧ Say.done t tk st n ∧ t.ctxs = s.ctxs ∧ t.pending = s.pending ∧ Q t

/-- An engine's work leaves its operation waiting for n answers, in a phase that P says, with contexts and storage as they were. -/
def Sys2Proof.Say.awaits (i : Instr) (s : State) (tk : Ticket) (P : State → Op → Prop) (n : Nat) (Q : State → Prop) : Prop :=
  ∃ t o, exec i s = .next t ∧ opGet t tk = some o ∧ P t o ∧ o.await = n ∧ t.ctxs = s.ctxs ∧ t.mem.cells = s.mem.cells ∧ Q t

/-- An operation that its first packet commits: launched while no packet was transmitted, and committed by one of its own (R92, R265). -/
def Sys2Proof.Say.bySending (s t : State) (o : Op) : Prop :=
  (o.phase = .launched ∨ o.phase = .committed) ∧ (t.isf.wire = s.isf.wire → o.phase = .launched) ∧
  (s.isf.out = [] → s.isf.heldPkts = [] → t.isf.wire ≠ s.isf.wire → o.phase = .committed)

/-- An operation that its answer commits stays launched, unless a packet that it sent before leaves (R92, R254, R259). -/
def Sys2Proof.Say.byAnswer (s : State) (_ : State) (o : Op) : Prop :=
  (∀ r ∈ s.isf.out, commits r.owner ≠ some o.ticket) → o.phase = .launched

/-- The entries and records of a state are those of another. -/
def Sys2Proof.Say.entriesAre (t u : State) : Prop := t.ldg.entries = u.ldg.entries ∧ t.ldg.spilled = u.ldg.spilled

/-- LREAD writes the 64 bytes of a request's entry, LSET changes the fields that its mask names and no other entry; a request
that the partition does not hold gives PROTECT. An entry written where it lies reads as written and no other request's does,
where a request is not both in the table and in a record; that of a spilled request is written to its record in memory, 64 bytes
at its place from LDG_SPILL on (R130; the order of the places is the model's, log entry 116; the alignment of the operands, log entry 91). -/
def Obligations.LedgerEntries : Prop :=
  (∀ (c : CtxId) (w : Ins128) (s : State) (x : Ctx) (r : Nat), x = ctxGet s c → r = (getS x w.sa.toNat).toNat →
    Issues128 1 c w s → Quiet s →
    (∀ k e, ctxAccess s c true (getS x w.sb.toNat) 64 8 = .ok k → r < 2 ^ 32 → entryIn s (partOf x) r = some e →
      exec (.lread c w) s = .next (Say.gave c s (memWriteNum (startIssue s c) k 64 (entryNum e)) w.sd 0 16)) ∧
    (∀ k, ctxAccess s c true (getS x w.sb.toNat) 64 8 = .ok k → (2 ^ 32 ≤ r ∨ entryIn s (partOf x) r = none) →
      exec (.lread c w) s = .next (Say.gave c s (startIssue s c) w.sd 7 16)) ∧
    (∀ img, ctxRead s c (getS x w.sb.toNat) 64 8 = .ok img → (2 ^ 32 ≤ r ∨ entryIn s (partOf x) r = none) →
      exec (.lset c w) s = .next (Say.gave c s (startIssue s c) w.sd 7 16)) ∧
    (∀ img m e e', ctxRead s c (getS x w.sb.toNat) 64 8 = .ok img → r < 2 ^ 32 → entryIn s (partOf x) r = some e →
      m = w.imm64.toNat → m < 128 → (m.testBit 3 = true → bf img 240 16 ≤ 4095 ∨ bf img 240 16 = 0xFFFF) →
      e' = { e with prio := if m.testBit 0 then BitVec.ofNat 4 (bf img 36 4) else e.prio,
                    share := if m.testBit 1 then BitVec.ofNat 8 (bf img 40 8) else e.share,
                    deadline := if m.testBit 2 then BitVec.ofNat 48 (bf img 64 48) else e.deadline,
                    adapter := if m.testBit 3 then BitVec.ofNat 16 (bf img 240 16) else e.adapter,
                    gate := if m.testBit 4 then BitVec.ofNat 12 (bf img 148 12) else e.gate,
                    gateEn := if m.testBit 5 then img.testBit 147 else e.gateEn,
                    gval := if m.testBit 6 then BitVec.ofNat 32 (bf img 160 32) else e.gval } →
      ∃ t, exec (.lset c w) s = .next t ∧ t = { s with ctxs := t.ctxs, ldg := t.ldg, mem := t.mem } ∧ Say.others s t c ∧
        ((∀ y ∈ s.ldg.spilled, y.1 ≠ e.request.toNat) → t.mem = s.mem) ∧
        ctxGet t c = { setS (runCtx x) w.sd.toNat 0 with pc := x.pc + 16 } ∧
        t.ldg.entries = (entrySet s e.request.toNat e').ldg.entries ∧
        t.ldg.spilled = (entrySet s e.request.toNat e').ldg.spilled ∧ t.ldg.walks = s.ldg.walks)) ∧
  (∀ (s : State) (r : Nat) (e : LEntry),
    ((∀ y ∈ s.ldg.entries, y.1 = r → ∀ z ∈ s.ldg.spilled, z.1 ≠ r) → entryOf (entrySet s r e) r = e) ∧
    (∀ j, j ≠ r → entryOf (entrySet s r e) j = entryOf s j) ∧
    ((∀ y ∈ s.ldg.spilled, y.1 ≠ r) → entrySet s r e = { s with ldg := (entrySet s r e).ldg }) ∧
    (∀ k a, tget 0 s.ldg.spillAt r = k + 1 → a = s.ldg.spill.toNat * 2 ^ 28 + 64 * k → (∃ y ∈ s.ldg.spilled, y.1 = r) →
      ¬(a < 2 ^ 41 ∧ stackIn s (a / 2 ^ 36) = false) → memRead (entrySet s r e) a 64 = leBytes 64 (entryNum e) ∧
        (∀ b n, b + n ≤ a ∨ a + 64 ≤ b → memRead (entrySet s r e) b n = memRead s b n) ∧
        entrySet s r e = { s with ldg := (entrySet s r e).ldg, mem := (entrySet s r e).mem }))

/-- LPOST makes the entry of its image, ADMITTED or, where admission fails, REFUSED with TIMEOUT (R106, R108, R124). LEND
frees the entry of a request that is not live; LABORT ends an ADMITTED one with ABORTED, marks a RUNNING one in its batch step
and ends its queued tickets, and answers TOO_LATE where nothing was live at its launch or is live since (log entry 106); LSWAP moves
entries to and from their records (R108, R109, R131, R132; where the records lie is the model's choice, log entry 116). -/
def Obligations.LedgerOperations : Prop :=
  (∀ (tk : Ticket) (o : Op) (s : State) (e : LEntry) (r : Nat), Runs 3 0 tk o s → lpostBefore s o = false → lpostOk s o = true → r = bf (lpostImage o) 0 32 →
    isKnown s r = false →
    e = { withImage {} (lpostImage o) with part := o.part, ld := o.ld, posted := BitVec.ofNat 48 (s.clk.bell.toNat % 2 ^ 48) } →
    (admits s e = true → Say.ends (.lpost (.run tk)) s tk 0 1 fun t => Say.entriesAre t (entrySet s r { e with state := 1, status := 0 })) ∧
    (admits s e = false → Say.ends (.lpost (.run tk)) s tk 0 1 fun t => Say.entriesAre t (entrySet s r { e with state := 5, status := 4 }))) ∧
  ((∀ (tk : Ticket) (o : Op) (s : State), Runs 3 4 tk o s → lendOk s o = true →
    ∃ n, Say.ends (.lend (.run tk)) s tk 0 n fun t => Say.entriesAre t (entrySet s o.request.toNat {})) ∧
  (∀ (tk : Ticket) (o : Op) (s : State) (e : LEntry), Runs 3 5 tk o s → e = entryOf s o.request.toNat → e.part = o.part →
    (o.settled = true ∨ e.state.toNat ∉ [1, 2, 3] → Say.ends (.labort (.run tk)) s tk 2 0 fun t => Say.entriesAre t s) ∧
    (o.settled = false → e.state = 1 → e.request = o.request → (∀ y ∈ s.ops, y.request = o.request → y.ticket ≠ tk → y.phase = .recorded) →
      Say.ends (.labort (.run tk)) s tk 0 1 fun t => Say.entriesAre t (entrySet s o.request.toNat { e with state := 6, status := 1 })) ∧
    (o.settled = false → e.state.toNat ∈ [1, 2, 3] → ∀ y, opGet s y.ticket = some y → y.request = o.request → y.ticket ≠ tk → y.phase = .queued →
      ∃ t, exec (.labort (.run tk)) s = .next t ∧ Say.done t y.ticket 1 0) ∧
    (o.settled = false → e.state = 2 → (∀ y ∈ s.ops, y.request = o.request → y.ticket ≠ tk → y.phase = .recorded) → ∀ b, batchOf s e.part = some b →
      e.request = o.request → Say.ends (.labort (.run tk)) s tk 0 1 fun t => ∃ b', batchOf t e.part = some b' ∧
        ∀ y ∈ b'.items, y.request = o.request → y.aborted ≠ none)) ∧
  (∀ (tk : Ticket) (o : Op) (s : State) (ins outs : List Nat), Runs 3 6 tk o s → lswapOk s o = true →
    poisoned s (bodyF o 320 64) (4 * lsIn o) = false → poisoned s (bodyF o 256 64) (4 * lsOut o) = false →
    ins = lsList s (bodyF o 320 64) (lsIn o) → outs = lsList s (bodyF o 256 64) (lsOut o) →
    ∃ n, Say.ends (.lswap (.run tk)) s tk 0 n fun t =>
      (∀ r ∈ ins, r ∉ outs → tget {} t.ldg.entries r = tget {} s.ldg.spilled r ∧ ∀ y ∈ t.ldg.spilled, y.1 ≠ r) ∧
      (∀ r ∈ outs, r ∉ ins → tget {} t.ldg.spilled r = entryOf s r ∧ ∀ y ∈ t.ldg.entries, y.1 ≠ r) ∧
      ∀ r, r ∉ ins → r ∉ outs → entryOf t r = entryOf s r))

/-- A batch step: with no class to serve its build waits; a class with a selectable request is served, the round goes on from
the class after it, and a plan that posts nothing commits at its end with at most its bmax requests; a build that waits does
so too when it is tried again; where a step runs already, another waits (R117, R118, R119). A step that waited to post until no
request of its list was left does not run, and its build is tried again. A batch step ends when its plan is
posted and done: its batch is gone, its status that of the first operation in plan order that did not complete, an overrun of
its wcet recorded; a posting step that waited on a full queue goes on (R116, R119, R120). The model's choices: when the list is
written and that a plan that posts nothing commits at its end (log entry 58), what stops a plan (log entry 59), the requests that left
the list (log entry 145). -/
def Obligations.BatchSteps : Prop :=
  (∀ (tk : Ticket) (o : Op) (s : State) (i : Instr), Runs 3 3 tk o s →
    (i = .lstep (.run tk) ∧ batchOf s o.part = none ∨
      ∃ b, i = .lstepBuildRetry o.part ∧ batchOf s o.part = some b ∧ b.ticket = tk ∧ b.cls = none ∧ b.retry = true) →
    (nextClass s o.part = none → ∃ t b, exec i s = .next t ∧ batchOf t o.part = some b ∧ b.cls = none ∧ b.ticket = tk ∧
      b.retry = false ∧ t.ldg.entries = s.ldg.entries ∧ t.queues = s.queues ∧ t.ctxs = s.ctxs) ∧
    (∀ c v, nextClass s o.part = some c → classRec s o.part.val c = some v → crCount v = 0 →
      ∃ t b o', exec i s = .next t ∧ batchOf t o.part = some b ∧ b.cls = some c ∧ b.ticket = tk ∧ b.committed = some s.clk.bell ∧
        b.items.length ≤ crBmax v ∧ tget none t.ldg.loaded o.part.val = some c ∧ tget 0 t.ldg.round o.part.val = (c + 1) % 64 ∧
        opGet t tk = some o' ∧ o'.phase = .committed ∧ t.queues = s.queues ∧ t.ctxs = s.ctxs) ∧
    (∀ c v, nextClass s o.part = some c → classRec s o.part.val c = some v →
      ∃ t, exec i s = .next t ∧ tget 0 t.ldg.round o.part.val = (c + 1) % 64)) ∧
  (∀ (p : Part) (s : State), (batchOf s p = none → exec (.lstepComplete p) s = .next s ∧ exec (.lstepBuildRetry p) s = .next s ∧
      exec (.postResume (.plan p)) s = .next s) ∧
    ∀ b, batchOf s p = some b → ((b.cls.isSome = true ∨ b.retry = false) → exec (.lstepBuildRetry p) s = .next s) ∧
      (planDone s p b = false → exec (.lstepComplete p) s = .next s)) ∧
  ((∀ (p : Part) (s : State) (b : Batch) (o : Op), s.phase = .running → batchOf s p = some b → opGet s b.ticket = some o →
    planDone s p b = true →
    ∃ t, exec (.lstepComplete p) s = .next t ∧ batchOf t p = none ∧ t.ctxs = s.ctxs ∧ t.queues = s.queues ∧
      (∃ n, Say.done t b.ticket (stepStatus b) n) ∧
      (∀ x, b.committed = some x → b.wcet < (s.clk.bell - x).toNat → ∃ r ∈ t.ras.history, r.kind = 0x05 ∧ r.part.toNat = p.val)) ∧
  (∀ (p : Part) (s : State) (b : Batch) (o : Op) (a : Nat), s.phase = .running → batchOf s p = some b → opGet s b.ticket = some o →
    b.blocked = true → b.stopped = none → b.next < b.pcount → a = b.plan + 80 * b.next → Quiet s →
    (b.committed = none → b.items = [] →
      exec (.postResume (.plan p)) s = .next (batchSet s p (some { ticket := b.ticket, list := b.list, retry := true }))) ∧
    (b.committed.isSome = true →
    opMemOk s o.level.toNat o.ctxPart false a 80 = true → poisoned s a 80 = false →
    ((memNum s a 16).testBit 10 = true → b.swap = true) →
    (controlOk s p (memNum s a 16) = false →
      ∃ t, exec (.postResume (.plan p)) s = .next t ∧ batchOf t p = some { b with stopped := some 7 }) ∧
    (controlOk s p (memNum s a 16) = true → queueFull (queueGet s (bf (memNum s a 16) 0 10)) = false → b.pcount = b.next + 1 →
      ∃ t, exec (.postResume (.plan p)) s = .next t ∧ batchOf t p = some { b with next := b.next + 1, blocked := false } ∧
        (queueGet t (bf (memNum s a 16) 0 10)).tail = (queueGet s (bf (memNum s a 16) 0 10)).tail + 1 ∧
        (ctxGet t o.ctx).posts = (ctxGet s o.ctx).posts + 1 ∧
        ∃ x ∈ t.ops, x.planOf = some (p, b.next) ∧ x.phase = .queued ∧ x.queue = bf (memNum s a 16) 0 10 ∧ x.ctally ≠ none))))

/-- The record of a ring that lies at a and was at its head in s has completed in t after so many steps: head is past it, its
completion record stands in its first 16 bytes, or goes to the host, and no other byte of memory, ring or completion is another; where
the ring's irq is set vector 3 is raised (R69, R391, R394). -/
def Sys2Proof.Say.ringEnds (s t : State) (ld : LdId) (a steps : Nat) (st : Byte) : Prop :=
  let r := ringGet s ld
  let i := r.head.toNat % 2 ^ r.depth.toNat
  let bs := leBytes 16 (i * 2 ^ 96 + s.clk.bell.toNat % 2 ^ 48 * 2 ^ 48 + steps * 2 ^ 32 + 2 ^ 31 + st.toNat)
  (ringGet t ld).head = r.head + 1 ∧ (∀ n : LdId, n ≠ ld → ringGet t n = ringGet s n) ∧
  (r.host = true → t.mem = s.mem ∧ tget [] t.ldg.hostRecs (ld.val * 4096 + i) = bs ∧
    ∀ n, n ≠ ld.val * 4096 + i → tget [] t.ldg.hostRecs n = tget [] s.ldg.hostRecs n) ∧
  (r.host = false → t.ldg.hostRecs = s.ldg.hostRecs ∧ Say.only s t [(a, 16)] ∧ (Say.keeps s a → memRead t a 16 = bs)) ∧
  (r.irq = false → t.cxd = s.cxd) ∧
  (r.irq = true → (maskedOf s ld).toNat.testBit 3 = false → t.cxd.hostOut = s.cxd.hostOut ++ [.msix ld 3])

/-- A running context of tenant level: its accesses to the register window raise PROTECT (R387). -/
def Sys2Proof.Say.tenant (s : State) (a : Agent) (c : CtxId) : Prop :=
  a = .core c ∧ s.phase = .running ∧ stateOf (ctxGet s c) = 2 ∧ privOf (ctxGet s c) = 0

/-- Events of the ledger: a deadline reached marks a live entry late once, with its record; a walk raises or lowers live once
it runs, and with no walk waiting the row does nothing; LDG_CTL.mode changes while every entry is FREE; a doorbell sets the ring's tail,
or ovf; of a tenant's running context both raise PROTECT (R111, R130, R172, R387, R394). A
host-ring record: a read that fails stops the ring; a poisoned record completes with POISON and makes no LPOST; one that is an LPOST is
posted as by operator code and completes with COMPLETE; any other completes with PROTECT. Head moves past each as its completion is
written over its first 16 bytes, and no other byte changes; no record is taken on a stopped ring (R69, R394, R395). What a record may be, the level
its memory is checked at and what stops a ring are the model's choices (log entry 106). -/
def Obligations.LedgerEventsAndRings : Prop :=
  ((∀ (r : W32) (s : State) (e : LEntry), e = entryOf s r.toNat → e.deadline ≠ 0 → e.late = false → liveState e = true →
    reached48 s e.deadline.toNat = true → Quiet s →
    exec (.deadlineReached r) s =
      .next (raise (entrySet s r.toNat { e with late := true }) 0x04 e.part.val 0 r.toNat e.deadline.toNat)) ∧
  (∀ (r : W32) (s : State) (e : LEntry), e = entryOf s r.toNat →
    (e.late = true ∨ e.deadline = 0 ∨ liveState e = false ∨ reached48 s e.deadline.toNat = false) →
    exec (.deadlineReached r) s = .next s) ∧
  (∀ (r : W32) (s : State) (w : W32 × Bool), (s.ldg.walks.find? fun w => w.1 = r) = some w → Quiet s →
    exec (.liveWalk r) s = .next (noAccess (liveWalk
      { s with ldg := { s.ldg with walks := s.ldg.walks.erase w }, mem := { s.mem with access := some [] } } r.toNat w.2))) ∧
  (∀ (r : W32) (s : State), (s.ldg.walks.find? fun w => w.1 = r) = none → exec (.liveWalk r) s = .next s) ∧
  (∀ (a : Agent) (v : Word) (s : State), s.phase = .running → stewardAgent s a = true → s.ldg.entries = [] → s.ldg.spilled = [] →
    exec (.ledgerModeWrite a v) s = .next { s with ldg := { s.ldg with mode := v.toNat.testBit 0 } }) ∧
  (∀ (a : Agent) (v : Word) (s : State), (∀ c, ¬Say.tenant s a c) →
    (s.phase ≠ .running ∨ stewardAgent s a = false ∨ s.ldg.entries ≠ [] ∨ s.ldg.spilled ≠ []) →
    exec (.ledgerModeWrite a v) s = .next s) ∧
  (∀ (a : Agent) (ld : LdId) (v : Word) (s : State) (c : CtxId), Say.tenant s a c →
    exec (.ledgerModeWrite a v) s = .next (takeException s c 3 (some (BitVec.ofNat 64 (0x400_0000_0000 + 0x50_0000)))) ∧
    exec (.hostRingDoorbell a ld v) s =
      .next (takeException s c 3 (some (BitVec.ofNat 64 (0x400_0000_0000 + 0x50_1008 + 0x40 * ld.val))))) ∧
  (∀ (a : Agent) (ld : LdId) (v : Word) (s : State), (∀ c, ¬Say.tenant s a c) → (s.phase ≠ .running ∨ ringAgent s ld a = false) →
    exec (.hostRingDoorbell a ld v) s = .next s) ∧
  (∀ (a : Agent) (ld : LdId) (v : Word) (s : State) (r : Ring), r = ringGet s ld → s.phase = .running → ringAgent s ld a = true →
    (((v.setWidth 16 : Half) - r.head).toNat ≤ 2 ^ r.depth.toNat →
      exec (.hostRingDoorbell a ld v) s = .next (ringSet s ld { r with tail := v.setWidth 16 })) ∧
    (2 ^ r.depth.toNat < ((v.setWidth 16 : Half) - r.head).toNat →
      exec (.hostRingDoorbell a ld v) s = .next (ringSet s ld { r with ovf := true })))) ∧
  (∀ (ld : LdId) (x : RingRead) (s : State) (r : Ring) (a : Nat), r = ringGet s ld →
    a = r.base.toNat * 4096 + 128 * (r.head.toNat % 2 ^ r.depth.toNat) →
    (s.phase = .running → r.en = true → r.head ≠ r.tail → (tget {} s.cxd.lds ld.val).state ≠ 1 → ringBusy s ld.val = false →
      (ringFails s r a x = true → exec (.hostRingRecord ld x) s = .next (ringSet s ld { r with rdfail := true, en := false })) ∧
      (ringFails s r a x = false → ringBytes s r a x = some none → Quiet s →
        ∃ t, exec (.hostRingRecord ld x) s = .next t ∧ Say.ringEnds s t ld a 0 3 ∧
          ringGet t ld = { r with rdfail := true, head := r.head + 1 } ∧
          t.ldg.entries = s.ldg.entries ∧ t.ctxs = s.ctxs ∧ t.ops = s.ops) ∧
      (∀ b v i, ringFails s r a x = false → ringBytes s r a x = some (some b) → Quiet s → v = ofLe b → i = bf v 128 512 →
        ((bf v 0 16 ≠ 9 ∨ hdrResvBits v = true ∨ bf v 640 384 ≠ 0 ∨ imageOk s r.part i = false) →
          ∃ t, exec (.hostRingRecord ld x) s = .next t ∧ Say.ringEnds s t ld a 0 7 ∧ ringGet t ld = { r with head := r.head + 1 } ∧
            t.ldg.entries = s.ldg.entries ∧ t.ldg.walks = s.ldg.walks ∧ t.ctxs = s.ctxs ∧ t.ops = s.ops) ∧
        (bf v 0 16 = 9 → hdrResvBits v = false → bf v 640 384 = 0 → imageOk s r.part i = true →
          (∀ y ∈ s.ldg.spilled, y.1 ≠ bf i 0 32) →
          ∃ t, exec (.hostRingRecord ld x) s = .next t ∧ Say.ringEnds s t ld a 1 0 ∧ ringGet t ld = { r with head := r.head + 1 } ∧
            t.ldg.entries = (postEntry s r.part ld i).ldg.entries ∧ t.ldg.walks = (postEntry s r.part ld i).ldg.walks ∧
            t.ctxs = s.ctxs ∧ t.ops = s.ops))) ∧
    ((s.phase ≠ .running ∨ r.en = false ∨ r.head = r.tail ∨ (tget {} s.cxd.lds ld.val).state = 1 ∨ ringBusy s ld.val = true) →
      exec (.hostRingRecord ld x) s = .next s))

/-! ## Pages (R145 to R159, R168 to R173, R177, R178, R182) -/

/-- The bytes of a group record of a partition. -/
def Sys2Proof.Say.record (s : State) (p : Part) (n : Nat) : Nat × Nat := (recAddr s p n, 16)

/-- PMAP OPEN maps a new group in its vat: the root entry names its table, nothing but the root entry, the group record and
the table is written, and its region is named (R145). PMAP TAKE writes the words of the regions it takes, GIVE returns regions
to the pool, PLACE sets the place of a group, RETURN enrols the pages that are away (R168, R177, R178, R182). The model's choices: which free granules and record are taken (log
entry 16), what each form refuses beside the rules' words (log entries 94 and 146). -/
def Obligations.PageMaps : Prop :=
  (∀ (tk : Ticket) (o : Op) (s : State) (e : LEntry) (n geom gt g : Nat), Runs 4 2 tk o s → bodyF o 0 4 = 1 → walkWaits s o = false →
    openOk s o = true → activeEntry s o = some e → findRec s o.part = some n → geom = rootGeom s (rootAddr e) →
    gt = bodyF o 70 58 * 64 → g = bodyF o 31 12 →
    Say.ends (.pmapOpen (.run tk)) s tk 0 2 fun t =>
      Say.only s t [(rootAddr e + 64 + 8 * g, 8), Say.record s o.part n, (gt, 64 + 24 * geLayers geom)] ∧
      (Say.keeps s (rootAddr e + 64 + 8 * g) → memNum t (rootAddr e + 64 + 8 * g) 8 = gt + 1) ∧
      t.wlk.regions = (nameGrans s (bodyF o 43 5) (bodyF o 48 22) (geLayers geom * geGran geom)).wlk.regions) ∧
  (∀ (tk : Ticket) (o : Op) (s : State) (e : LEntry) (geom : Nat), Runs 4 2 tk o s → walkWaits s o = false →
    activeEntry s o = some e → geom = rootGeom s (rootAddr e) →
    (bodyF o 0 4 = 3 → takeOk s o = true → ∀ rs u, takeRegions s o.part geom (bodyF o 8 2 = 1)
        (if o.body.toNat.testBit 107 then some (bodyF o 108 20) else none) (takeStacks s o) (pmCount o) = some (rs, u) →
      Say.ends (.pmapTake (.run tk)) s tk 0 (mapSteps (pmCount o)) fun t => t.wlk.regions = u.wlk.regions ∧
        Say.only s t [(pmA0 o, 8 * rs.length)] ∧
        (Say.keeps s (pmA0 o) → memRead t (pmA0 o) (8 * rs.length) = rs.flatMap fun r => leBytes 8 (regionWord r))) ∧
    (bodyF o 0 4 = 3 → takeOk s o = true → takeRegions s o.part geom (bodyF o 8 2 = 1)
        (if o.body.toNat.testBit 107 then some (bodyF o 108 20) else none) (takeStacks s o) (pmCount o) = none →
      Say.ends (.pmapTake (.run tk)) s tk 7 0 fun t => t.wlk = s.wlk ∧ t.mem.cells = s.mem.cells) ∧
    (bodyF o 0 4 = 6 → giveOk s o = true → poisoned s (pmA0 o) (8 * pmCount o) = false →
      Say.ends (.pmapGive (.run tk)) s tk 0 (mapSteps (pmCount o)) fun t => t.mem.cells = s.mem.cells ∧
        t.wlk.regions = s.wlk.regions.filter fun r => !(r.part = o.part && (giveWords s o).contains (regionWord r))) ∧
    (bodyF o 0 4 = 4 → placeOk s o = true →
      Say.ends (.pmapPlace (.run tk)) s tk 0 (mapSteps (pmCount o)) fun t =>
        (∀ a, (∀ n, a < recAddr s o.part n ∨ recAddr s o.part n + 16 ≤ a) → memRead t a 1 = memRead s a 1) ∧
        ∀ gt n v, pmCount o = 1 → rootEntry s (rootAddr e) (pmPos o) = some gt → n = hdGroup (gtHeader s gt) → v = getRec s o.part n →
          Say.keeps s (recAddr s o.part n) →
          memNum t (recAddr s o.part n) 16 = mkRec (rcGt v) (rcIndexed v) (bodyF o 8 2) (rcLive v) (rcRefs v) % 2 ^ 128) ∧
    (bodyF o 0 4 = 5 → returnOk s o = true → ∀ rs u, takeRegions s o.part geom false none (poolStacks s o.part)
        (returning s o.part (rootAddr e)).length = some (rs, u) →
      ∃ n, Say.ends (.pmapReturn (.run tk)) s tk 0 n fun t => ∃ q,
        tget [] t.wlk.enrolled o.part.val = tget [] s.wlk.enrolled o.part.val ++ [q] ∧ q.request = o.request ∧ q.ticket = tk ∧
        q.ltally = bodyF o 16 12 ∧ q.layer = 0 ∧ (q.pages.map fun x => (x.gt, x.layer)) <+: returning s o.part (rootAddr e)))

/-- PMAP SHARE of one position: it is mapped where the table is this device's, sealed, of the digest and geometry; else the
stop code is written; a table of another node is read first, and ends it with TIMEOUT where that node is excluded. PUNMAP clears the
root entry and drops its look-aside entries (R169 to R171). PDIGEST writes the chained digests of its positions; PAPPEND moves the rows
of its operand, with their poison, behind those of a vat page and advances its fill; PPRESS writes the vat's rows in compute layout and
their sketches into the open rows, the checksum and the entry into the group table, raises its sealed count and makes it SEALED with the
last page; PVERIFY writes whether a page's checksum holds; each writes nothing else (R146, R147, R149 to R152, R155, R157). The model's choices: poisoned operands (log entry 19), the reads of a remote table (log entry 43), the widths of results and
the bounds of positions (log entry 94). -/
def Obligations.PageOperations : Prop :=
  ((∀ (tk : Ticket) (o : Op) (s : State) (e : LEntry) (a d : Nat), Runs 4 2 tk o s → bodyF o 0 4 = 2 → walkWaits s o = false →
    o.await = 0 → shareOk s o = true → activeEntry s o = some e → pmCount o = 1 → poisoned s (pmA0 o) 8 = false →
    poisoned s (bodyF o 128 64) 16 = false → a = memNum s (pmA0 o) 8 / 64 * 64 → d = memNum s (bodyF o 128 64) 16 →
    ((rootCap s (rootAddr e) < pmPos o ∨ (rootEntry s (rootAddr e) (pmPos o)).isSome = true) →
      Say.ends (.pmapShare (.run tk)) s tk 0 2 fun t => Say.only s t [(bodyF o 64 64, 8)] ∧
        (Say.keeps s (bodyF o 64 64) → memNum t (bodyF o 64 64) 8 = 2 ^ 16)) ∧
    (pmPos o ≤ rootCap s (rootAddr e) → rootEntry s (rootAddr e) (pmPos o) = none → a / 2 ^ 50 = (ownNode s).toNat →
      (∀ c, shareLocal s o e 0 (a % 2 ^ 50) d = .error c → Say.ends (.pmapShare (.run tk)) s tk 0 2 fun t =>
        Say.only s t [(bodyF o 64 64, 8)] ∧ (Say.keeps s (bodyF o 64 64) → memNum t (bodyF o 64 64) 8 = c * 2 ^ 16)) ∧
      (∀ u, shareLocal s o e 0 (a % 2 ^ 50) d = .ok u → Say.ends (.pmapShare (.run tk)) s tk 0 2 fun t =>
        Say.only u t [(bodyF o 64 64, 8)] ∧ (Say.keeps s (bodyF o 64 64) → memNum t (bodyF o 64 64) 8 = 1))) ∧
    (pmPos o ≤ rootCap s (rootAddr e) → rootEntry s (rootAddr e) (pmPos o) = none → a / 2 ^ 50 ≠ (ownNode s).toNat →
      missingBlocks s o a (gtBytes (rootGeom s (rootAddr e))) ≠ [] →
      (excluded s (BitVec.ofNat 14 (a / 2 ^ 50)) = false →
        ∃ t o', exec (.pmapShare (.run tk)) s = .next t ∧ opGet t tk = some o' ∧ Say.byAnswer s t o' ∧
          o'.await = (missingBlocks s o a (gtBytes (rootGeom s (rootAddr e)))).length ∧ t.mem.cells = s.mem.cells ∧ t.ctxs = s.ctxs) ∧
      (excluded s (BitVec.ofNat 14 (a / 2 ^ 50)) = true → Say.ends (.pmapShare (.run tk)) s tk 4 2 fun t =>
        Say.only s t [(bodyF o 64 64, 8)] ∧ (Say.keeps s (bodyF o 64 64) → memNum t (bodyF o 64 64) 8 = 5 * 2 ^ 16)))) ∧
  (∀ (tk : Ticket) (o : Op) (s : State) (e : LEntry), Runs 4 3 tk o s → punmapOk s o = true → entryIn s o.part o.request.toNat = some e →
    Say.ends (.punmap (.run tk)) s tk 0 (mapSteps (pmCount o)) fun t => pmCount o = 1 →
      (∀ y ∈ t.wlk.la, ∀ x ∈ y.2, ¬(x.req = o.request ∧ x.g = pmPos o)) ∧
      ∀ gt n v, rootEntry s (rootAddr e) (pmPos o) = some gt → n = hdGroup (gtHeader s gt) → v = getRec s o.part n →
      (1 < rcRefs v → Say.only s t [(rootAddr e + 64 + 8 * pmPos o, 8), Say.record s o.part n] ∧
        (Say.keeps s (rootAddr e + 64 + 8 * pmPos o) →
          (rootAddr e + 72 + 8 * pmPos o ≤ recAddr s o.part n ∨ recAddr s o.part n + 16 ≤ rootAddr e + 64 + 8 * pmPos o) →
          memNum t (rootAddr e + 64 + 8 * pmPos o) 8 = 0)))) ∧
  ((∀ (tk : Ticket) (o : Op) (s : State) (n : Nat), Runs 4 6 tk o s → pdigestOk s o = true → n = bodyF o 44 12 + 1 →
    poisoned s (bodyF o 192 64) (1024 * n) = false →
    Say.ends (.pdigest (.run tk)) s tk 0 (ceilDiv n 8) fun t => Say.only s t [(bodyF o 128 64, 16 * n)] ∧
      (Say.keeps s (bodyF o 128 64) → ∀ k, k < n → memRead t (bodyF o 128 64 + 16 * k) 16 =
        (sha384 ((if k = 0 then leBytes 16 (if bodyF o 56 12 = 0 then 0 else bodyF o 256 128)
            else memRead t (bodyF o 128 64 + 16 * (k - 1)) 16) ++ leBytes 2 (bodyF o 68 12) ++ leBytes 2 (bodyF o 80 16) ++
          leBytes 4 (bodyF o 96 32) ++ memRead s (bodyF o 192 64 + 1024 * k) 1024)).take 16)) ∧
  (∀ (tk : Ticket) (o : Op) (s : State) (e : LEntry) (gt l v row n : Nat), Runs 4 7 tk o s → earlierAppend s o = false →
    pappendOk s o = true → activeEntry s o = some e → l = bodyF o 36 8 → vatPage s e (bodyF o 52 12) l = some gt →
    v = getPte s gt l → row = geRow (hdGeom (gtHeader s gt)) → n = paRows o * row →
    Say.ends (.pappend (.run tk)) s tk (if poisoned s (bodyF o 64 64) n then 3 else 0) 1 fun t =>
      Say.only s t [(pageAddr (peStack v) (peGran v) + peFill v * row, n), (pteAddr gt l, 16)] ∧
      (Say.keeps s (pteAddr gt l) → memNum t (pteAddr gt l) 16 = (v + paRows o * 2 ^ 87) % 2 ^ 128) ∧
      (∀ a, a = pageAddr (peStack v) (peGran v) + peFill v * row → Say.keeps s a → Say.apart (a, n) (pteAddr gt l, 16) →
        memRead t a n = memRead s (bodyF o 64 64) n ∧
        ∀ i, i < n → poisoned s (bodyF o 64 64 + i) 1 = true → poisoned t (a + i) 1 = true) ∧
      ∀ i, o.ctally = some i → (tally t i).toNat = min ((tally s i).toNat + n) (2 ^ 64 - 1)) ∧
  (∀ (tk : Ticket) (o : Op) (s : State) (e : LEntry) (gt l v : Nat), Runs 4 8 tk o s → ppressOk s o = true →
    activeEntry s o = some e → l = bodyF o 44 8 → vatPage s e (bodyF o 52 12) l = some gt → v = getPte s gt l →
    poisoned s (pageAddr (peStack v) (peGran v)) (256 * geRow (hdGeom (gtHeader s gt))) = false →
    ∀ (h geom pa : Nat) (page : List Byte) (seg : Nat → Nat → Nat × Nat), h = gtHeader s gt → geom = hdGeom h →
    pa = pageAddr (bodyF o 101 5) (bodyF o 106 22) →
    page = computeLayout geom (memRead s (pageAddr (peStack v) (peGran v)) (256 * geRow geom)) →
    (∀ i j, seg i j = (rowAddr (bodyF o 101 5) (bodyF o 81 20 + i) j + 32 * bodyF o 76 5, 32)) →
    Say.ends (.ppress (.run tk)) s tk 0 (2 * ceilDiv (gePage geom) 65536 + 2) fun t =>
      Say.only s t ([(pa, page.length), (gt, 64), (pteAddr gt l, 16), (sumAddr gt (geLayers geom) l, 8)] ++
        (List.range (geHeads geom)).flatMap fun i => (List.range (geDim geom)).map fun j => seg i j) ∧
      (Say.keepsAll s (gt, 64 + 24 * geLayers geom) →
        (∃ y, y = memNum t (pteAddr gt l) 16 ∧ peKind y = 2 ∧ peCv y = true ∧ peStack y = bodyF o 101 5 ∧ peGran y = bodyF o 106 22 ∧
          bf y 71 20 = bodyF o 81 20 ∧ bf y 91 5 = bodyF o 76 5 ∧ peGroup y = peGroup v ∧ bf y 120 8 = 0) ∧
        memNum t (sumAddr gt (geLayers geom) l) 8 = pageSum page (sketchOf geom page) ∧
        memNum t gt 64 = mkHeader (hdDigest h) (hdGroup h) geom (hdSealed h + 1)
          (if hdSealed h + 1 = geLayers geom then 2 else 1) % 2 ^ 512) ∧
      (Say.keepsAll s (pa, page.length) → Say.apart (pa, page.length) (gt, 64 + 24 * geLayers geom) →
        (∀ i j, i < geHeads geom → j < geDim geom → Say.apart (pa, page.length) (seg i j)) → memRead t pa page.length = page) ∧
      ∀ i j, i < geHeads geom → j < geDim geom → Say.keeps s (seg i j).1 → Say.apart (seg i j) (gt, 64 + 24 * geLayers geom) →
        (∀ i' j', i' < geHeads geom → j' < geDim geom → (i', j') ≠ (i, j) → Say.apart (seg i' j') (seg i j)) →
        memRead t (seg i j).1 32 = sketchSegment geom page i j) ∧
  (∀ (tk : Ticket) (o : Op) (s : State) (gt geom l pt : Nat), Runs 4 9 tk o s → pverifyOk s o = true →
    recordPage s o = some (gt, geom) → l = bodyF o 96 8 → pt = getPte s gt l → Say.keeps s (bodyF o 32 64) →
    ∃ n, (peKind pt = 2 → peCv pt = true → verifyPage s gt l = true →
        Say.ends (.pverify (.run tk)) s tk 0 n fun t => memNum t (bodyF o 32 64) 1 = 0 ∧ Say.only s t [(bodyF o 32 64, 1)]) ∧
      (peKind pt = 2 → peCv pt = true → verifyPage s gt l = false →
        Say.ends (.pverify (.run tk)) s tk 10 n fun t => memNum t (bodyF o 32 64) 1 = 1) ∧
      ((peKind pt ≠ 2 ∨ peCv pt = false) →
        Say.ends (.pverify (.run tk)) s tk 0 n fun t => memNum t (bodyF o 32 64) 1 = 2 ∧ Say.only s t [(bodyF o 32 64, 1)])))

/-! ## The prefix index (R160 to R166) -/

/-- A packet was handed to the ports: it is on the wire, a hand-off record with the time left as it left, or waits for credits. -/
def Sys2Proof.Say.sent (t : State) (o : OutPkt) : Prop := leaving t o ∈ t.isf.wire ∨ o ∈ t.isf.heldPkts

/-- The shard of a digest cannot be reached: no node serves it, its node is excluded, or it is this device's own and lost. -/
def Sys2Proof.Say.noShard (s : State) (o : Op) (d : Nat) : Prop :=
  shardOf s d = none ∨ (∃ n, shardOf s d = some n ∧ n ≠ ownNode s ∧ excluded s n = true) ∨
  (shardOf s d = some (ownNode s) ∧ editionServed s o.edition = true ∧ shardAlive s d = false)

/-- PLOOK of one digest at this device's own shard, with no claim: a hit of the same geometry, or a miss; a digest whose shard
cannot be reached ends it with TIMEOUT; at another node's shard it waits for the answer. PINDEX of one digest writes its
outcome byte; INSERTED, ADDED and HELD enter the digest into a header that has none and set the record's indexed bit (R163, R165). What an index message meets at a shard: one with a Resv bit set is dropped and counted, an insertion that
was applied is answered as before; a source with no level is refused, an edition that is not served is told the current one, a
lost shard does not answer, and else the answer of the shard is sent, an insertion's once only (R161 to R166, R245, R247). The
model's choices: a digest without a node is unreached and the status of a refusal (log entry 98), the shard of two partitions (log
entry 17). -/
def Obligations.IndexRequests : Prop :=
  ((∀ (tk : Ticket) (o : Op) (s : State) (d : Nat), Runs 4 4 tk o s → ixWork s tk = none → plookOk s o = true → plN o = 1 →
    poisoned s (ixSrc o) 16 = false → o.body.toNat.testBit 211 = false → d = ixDigestAt s o 0 → Say.keeps s (ixDst o) →
    (Say.noShard s o d → Say.ends (.plook (.run tk)) s tk 4 1 fun t => bf (memNum t (ixDst o) 16) 0 16 = 5 ∧
      bf (memNum t (ixDst o) 16) 16 16 = 0 ∧ Say.only s t [(ixDst o, 24)]) ∧
    (shardOf s d = some (ownNode s) → editionServed s o.edition = true → shardAlive s d = true → ∀ u x,
      shardLookup s (indexMsg s o.edition d (opGeom s o) 0) = (u, x) →
      (x = .absent → Say.ends (.plook (.run tk)) s tk 0 1 fun t => bf (memNum t (ixDst o) 16) 0 16 = 1 ∧
        bf (memNum t (ixDst o) 16) 16 16 = 0) ∧
      (∀ g hs, x = .valid g hs → g.toNat = opGeom s o → Say.ends (.plook (.run tk)) s tk 0 1 fun t =>
        bf (memNum t (ixDst o) 16) 0 16 = 0 ∧ bf (memNum t (ixDst o) 16) 16 16 = 1 ∧
        memNum t (ixDst o + 16) 8 = (plHolder s hs).toNat)) ∧
    (∀ n, shardOf s d = some n → n ≠ ownNode s → excluded s n = false → ∃ t w, exec (.plook (.run tk)) s = .next t ∧ ixWork t tk = some w ∧ w.n = 1 ∧
      w.answers = [] ∧ t.mem.cells = s.mem.cells ∧ t.ctxs = s.ctxs ∧
      ∃ r ∈ t.isf.out, r.owner = .index tk 0 ∧ r.pkt.pkt.dst = n ∧ Say.sent t r.pkt)) ∧
  (∀ (tk : Ticket) (o : Op) (s : State) (d : Nat), Runs 4 5 tk o s → pindexOk s o = true → piN o = 1 →
    poisoned s (ixSrc o) 16 = false → d = ixDigestAt s o 0 → Say.keeps s (ixDst o) →
    (Say.noShard s o d → Say.ends (.pindex (.run tk)) s tk 4 1 fun t => memNum t (ixDst o) 1 = 6 ∧ Say.only s t [(ixDst o, 1)]) ∧
    (shardOf s d = some (ownNode s) → editionServed s o.edition = true → shardAlive s d = true → ∀ u c gt h n v,
      gt = (piTable s o 0).getD 0 → h = gtHeader u gt → n = hdGroup h → v = getRec u o.part n →
      shardInsert s (indexMsg s o.edition d (opGeom s o) (fabricOf s gt)) = (u, .outcome c) →
      Say.apart (ixDst o, 1) (gt, 64) → Say.apart (ixDst o, 1) (Say.record s o.part n) → Say.apart (gt, 64) (Say.record s o.part n) →
      Say.ends (.pindex (.run tk)) s tk 0 1 fun t => memNum t (ixDst o) 1 = c.toNat ∧
        (2 < c.toNat → Say.only u t [(ixDst o, 1)]) ∧
        (c.toNat ≤ 2 → gt ≠ 0 → rcGt v = gt → Say.only u t [(ixDst o, 1), (gt, 64), Say.record s o.part n] ∧
          (hdDigest h = 0 → Say.keepsAll s (gt, 64) → memNum t gt 64 = h + d * 2 ^ 384) ∧
          (hdDigest h ≠ 0 → memRead t gt 64 = memRead u gt 64) ∧
          (Say.keeps s (recAddr s o.part n) →
            memNum t (recAddr s o.part n) 16 = mkRec (rcGt v) true (rcPlace v) (rcLive v) (rcRefs v) % 2 ^ 128))) ∧
    (∀ n, shardOf s d = some n → n ≠ ownNode s → excluded s n = false → ∃ t o', exec (.pindex (.run tk)) s = .next t ∧ opGet t tk = some o' ∧
      o'.phase = .committed ∧ t.mem.cells = s.mem.cells ∧ ∃ r ∈ t.isf.out, r.owner = .index tk 0 ∧ r.pkt.pkt.dst = n))) ∧
  (∀ (m : IndexMsg) (p : Instr × IndexBody × Bool) (s u : State), fabricUp s = true → u = arrive s 0 m.tag 32 →
    (p = (.indexLookup m, .lookup m, false) ∨ (∃ c, p = (.indexClaim m c, .claim m c, false)) ∨ p = (.indexInsert m, .insert m, true) ∨
      p = (.indexRemoval m, .removal m, false)) →
    (m.resv ≠ 0 → exec p.1 s = .next (dropPacket u)) ∧
    (∀ r, m.resv = 0 → p.2.2 = true → remembered u m.src m.tag = some r →
      ∃ t, exec p.1 s = .next t ∧ t.mem = s.mem ∧ Say.sent t r) ∧
    (m.resv = 0 → (p.2.2 = true → remembered u m.src m.tag = none) →
      (inLevel u m.src = none → ∃ t, exec p.1 s = .next t ∧ Say.sent t (indexReply u m 7 (some (.answer .refused))) ∧ t.mem = s.mem) ∧
      ((inLevel u m.src).isSome = true → editionServed u m.edition = false → ∃ t, exec p.1 s = .next t ∧ t.mem = s.mem ∧
        Say.sent t (indexReply u m 5 (some (.answer (.moved s.isf.map.edition))))) ∧
      ((inLevel u m.src).isSome = true → editionServed u m.edition = true → shardAlive u m.digest.toNat = false →
        exec p.1 s = .next u) ∧
      ((inLevel u m.src).isSome = true → editionServed u m.edition = true → shardAlive u m.digest.toNat = true → Quiet s →
        ∃ t v x, exec p.1 s = .next t ∧ shardServe u p.2.1 = (v, x) ∧ t.mem = v.mem ∧ t.ctxs = s.ctxs ∧
          Say.sent t (indexReply v m 0 (some (.answer x))))))

/-- What a claim and an insertion make of a free way: CLAIMED by the asker until its time, VALID with the holder; a removal of
the last holder leaves EMPTY (R162, R164 to R166). The answer to an index request that waits is noted with its operation; one
whose tag nothing waits on, or with a Resv bit set, is dropped and counted; one that is MOVED to an edition not newer than the
request's has the request sent again later (R163, R245, R262). That a claim holds geometry 0 (log entry 97)
and keeps the way of its digest (log entry 147) are the model's choices. -/
def Obligations.IndexShards : Prop :=
  (∀ (s : State) (m : IndexMsg) (d : Nat), d = m.digest.toNat → shardS s ≠ 0 →
    (∀ c w, wayOf s d = none → wayForClaim s d = some w → Say.keeps s (wayAddr s d w) →
      ∃ t, shardClaim s m c = (t, .claimMade) ∧ ixState (wayGet t d w) = 1 ∧ ixDigest (wayGet t d w) = d ∧
        ixCnode (wayGet t d w) = m.src.toNat ∧ Say.only s t [(wayAddr s d w, 64)]) ∧
    (∀ w, wayOf s d = none → wayForInsert s d = w → Say.keeps s (wayAddr s d w) →
      ∃ t, shardInsert s m = (t, .outcome 0) ∧ ixState (wayGet t d w) = 2 ∧ ixDigest (wayGet t d w) = d ∧
        ixGeom (wayGet t d w) = m.geometry.toNat ∧ Say.only s t [(wayAddr s d w, 64)]) ∧
    (∀ w, wayOf s d = some w → ixState (wayGet s d w) = 2 → (∀ h ∈ ixHolders (wayGet s d w), h = m.holder.toNat / 64 * 64) →
      Say.keeps s (wayAddr s d w) → ∃ t x, shardRemove s m = (t, x) ∧ wayGet t d w = 0 ∧ Say.only s t [(wayAddr s d w, 64)])) ∧
  (∀ (tag : W32) (y : IndexReply) (x : IndexAnswer) (s u : State), x = y.answer → fabricUp s = true → u = arrive s 1 tag 32 →
    (y.resv ≠ 0 → exec (.indexResponse tag y) s = .next (dropPacket u)) ∧
    (Quiet s → y.resv = 0 →
      (outReq u tag = none → exec (.indexResponse tag y) s = .next (dropPacket u)) ∧
      (∀ r tk k, outReq u tag = some r → r.owner = .index tk k →
        ((∀ e, x ≠ .moved e) ∨ ∃ e, x = .moved e ∧ editionNewer e r.pkt.pkt.edition = true) →
        exec (.indexResponse tag y) s = .next (noAccess
          (indexAnswered (outDel { u with mem := { u.mem with access := some [] } } tag) tk k (some x)))) ∧
      (∀ r tk k e, outReq u tag = some r → r.owner = .index tk k → x = .moved e → editionNewer e r.pkt.pkt.edition = false →
        exec (.indexResponse tag y) s = .next (holdResend u tag true)) ∧
      (∀ r b, outReq u tag = some r → r.owner = .removal b → (∀ e, x ≠ .moved e) →
        exec (.indexResponse tag y) s = .next (outDel u tag))))

/-! ## The engines (R94 to R101, R185 to R212, R225 to R262, R266 to R285, R322 to R328) -/

/-- Values stand in memory from an address on, in BF16 or FP32; each poisoned one lies in poison. -/
def Sys2Proof.Say.vals (t : State) (f32 : Bool) (a : Nat) (vs : List (Option W32)) : Prop :=
  ∀ i v, vs[i]? = some v → memRead t (a + valBytes f32 * i) (valBytes f32) = encVal f32 (v.getD 0) ∧
    (v = none → poisoned t (a + valBytes f32 * i) (valBytes f32) = true)

/-- A posted instruction whose checks fail at its first step ends with PROTECT, with no step and no other effect (R86). -/
def Obligations.ChecksFail : Prop :=
  ∀ (tk : Ticket) (o : Op) (s : State) (p : (Posted → Instr) × Nat × Nat × (State → Op → Bool)),
    p ∈ [(.hmv, 6, 0, hmvOk), (.hqk, 6, 1, qkOk false), (.hpv, 6, 2, qkOk true), (.hswap, 6, 8, hswapOk), (.tjob, 7, 0, tjobOk),
         (.tgather, 7, 1, tgatherOk), (.tswap, 7, 2, tswapOk), (.idfrd, 0xB, 6, idfrdOk), (.idfwr, 0xB, 7, idfwrOk),
         (.pdigest, 4, 6, pdigestOk), (.ppress, 4, 8, ppressOk), (.pverify, 4, 9, pverifyOk),
         (.pindex, 4, 5, pindexOk), (.lpost, 3, 0, lpostOk), (.lend, 3, 4, lendOk), (.lswap, 3, 6, lswapOk)] →
    Runs p.2.1 p.2.2.1 tk o s → p.2.2.2 s o = false → (p.2.1 = 3 → p.2.2.1 = 0 → lpostBefore s o = false) →
    Say.ends (p.1 (.run tk)) s tk 7 0 fun t => t.mem.cells = s.mem.cells ∧ t.ldg = s.ldg ∧ t.units = s.units ∧ t.isf = s.isf

/-- In-bank row operations: in every named subarray the destination row is the function of its source rows as they stood, bit
by bit, and its lines are poisoned where a source's are; nothing else is written (R94, R193, R198). RSCORE writes, in every
named subarray, a row of 32 scores, each 128 times the best similarity of its 256 columns plus how many columns have it;
RSELECT writes for each group the forced positions and the best candidates, ascending (R94, R199 to R202). -/
def Obligations.InBankOperations : Prop :=
  (∀ (tk : Ticket) (o : Op) (s : State) (p : (Posted → Instr) × Nat × List Nat × (List Bool → Bool) × Nat) (row : Nat → Nat → Nat),
    p ∈ [(.rcopy, 0, [167], fun l => l == [true], 2), (.rzero, 1, [], fun _ => false, 2), (.rnot, 2, [167], fun l => l == [false], 2),
         (.rand, 3, [167, 158], fun l => l == [true, true], 3), (.ror, 4, [167, 158], fun l => l != [false, false], 3),
         (.rxor, 5, [167, 158], fun l => l == [true, false] || l == [false, true], 4),
         (.rmaj, 6, [167, 158, 149], fun l => decide (2 ≤ l.count true), 4)] →
    Runs 5 p.2.1 tk o s → rowOpOk s o = true → (∀ b lo, row b lo = rowAddr (bodyF o 176 5) b (bodyF o lo 9)) →
    Say.ends (p.1 (.run tk)) s tk 0 p.2.2.2.2 fun t =>
      Say.only s t ((namedSubs o).map fun b => (row b 140, 1024)) ∧
      ∀ b ∈ namedSubs o,
        (∀ i, i < 8192 → (memNum t (row b 140) 1024).testBit i =
          p.2.2.2.1 (p.2.2.1.map fun lo => (memNum s (row b lo) 1024).testBit i)) ∧
        ∀ j, j < 16 → (row b 140 / 64 + j ∈ t.mem.poison ↔ ∃ lo ∈ p.2.2.1, linePoison s (row b lo / 64 + j) = true)) ∧
  ((∀ (tk : Ticket) (o : Op) (s : State), Runs 5 7 tk o s → rscoreOk s o = true →
    Say.ends (.rscore (.run tk)) s tk 0 (scoreDim o + 6) fun t =>
      Say.only s t ((namedSubs o).map fun b => (rowAddr (bodyF o 176 5) b (bodyF o 140 9), 1024)) ∧
      ∀ n b k (sim : Nat → Nat), (namedSubs o)[n]? = some b → k < 32 →
        (∀ c, sim c = ((List.range (scoreDim o)).filter fun j => (memNum s (rowAddr (bodyF o 176 5) b j) 1024).testBit c ==
          (memNum s (bodyF o 320 64 + 32 * (n % (bodyF o 131 6 + 1))) 32).testBit j).length) →
        ∃ m, (∃ c, 256 * k ≤ c ∧ c < 256 * k + 256 ∧ sim c = m) ∧ (∀ c, 256 * k ≤ c → c < 256 * k + 256 → sim c ≤ m) ∧
          bf (memNum t (rowAddr (bodyF o 176 5) b (bodyF o 140 9)) 1024) (16 * k) 16 =
            128 * m + min ((List.range 256).filter fun i => sim (256 * k + i) == m).length 127) ∧
  ∀ (tk : Ticket) (o : Op) (s : State), Runs 5 8 tk o s → rselectOk s o = true →
    Say.ends (.rselect (.run tk)) s tk 0 ((namedSubs o).length + 5) fun t =>
      Say.only s t [(bodyF o 320 64, rselGroups o * rselArea o)] ∧
      ∀ g a (forced : Nat → Prop) (cand : Nat → Nat → Prop), g < rselGroups o → a = bodyF o 320 64 + g * rselArea o →
        (∀ i, i < rselGroups o → Say.keeps s (bodyF o 320 64 + i * rselArea o)) →
        (∀ p, forced p ↔ ∃ v, (2, p, v) ∈ groupSlots s o g) →
        (∀ p v, cand p v ↔ ¬forced p ∧ (1, p, v) ∈ groupSlots s o g) →
        ∃ ps : List Nat, memNum t a 8 = ps.length ∧ memRead t (a + 8) (2 * ps.length) = ps.flatMap (leBytes 2) ∧
          ps.Pairwise (· < ·) ∧ (∀ p, forced p → p ∈ ps) ∧ (∀ p ∈ ps, forced p ∨ ∃ v, cand p v) ∧
          (∃ n, n ≤ bodyF o 159 8 ∧ (n < bodyF o 159 8 → ∀ p v, cand p v → p ∈ ps) ∧
            ∃ fs : List Nat, fs.Nodup ∧ (∀ p, p ∈ fs ↔ forced p) ∧ ps.length = fs.length + n) ∧
          ∀ p ∈ ps, ¬forced p → ∀ q v, cand q v → q ∉ ps → ∃ w, cand p w ∧ v ≤ w ∧
            (o.ord = true → (∀ x, cand p x → x ≤ v) → p < q))

/-- A job of the softmax and element-wise unit passes its checks: its fields, its hub's unit, its addresses (R25, R203). -/
def Sys2Proof.Say.softReady (named : State → Op → Named) (hub : Nat) (s : State) (o : Op) : Prop :=
  hubUnitOk s o hub (softUnit hub) = true ∧ hubNamesOk s hub (named s o) = true

/-- HADD, HACT, HNORM and HROPE: their outputs element by element, row by row or head by head, and nothing else; a poisoned
operand poisons what it enters and gives POISON (R209, R211). HSOFT: FOLD writes each row's probabilities and its new maximum,
sum and rescale, FINISH divides each row by its sum, MERGE folds the partial triples of its areas in order, with a rescale of
1 (R209; the order of the operations of HACT's formulas and their constants in FP32 are the model's, log entry 124). -/
def Obligations.HubVectors : Prop :=
  (∀ (tk : Ticket) (o : Op) (s : State) (n : Nat),
    (∀ vs, Runs 6 7 tk o s → Say.softReady namedHadd (bodyF o 153 4) s o → n = bodyF o 160 32 + 1 →
      vs = List.zipWith (lift2 add32) (readVals s (fmtBit o 159) (bodyF o 320 64) n) (readVals s (fmtBit o 158) (bodyF o 256 64) n) →
      Say.ends (.hadd (.run tk)) s tk (if none ∈ vs then 3 else 0) (hubSteps (ceilDiv n 256) (readsOf (namedHadd s o))) fun t =>
        Say.only s t [(bodyF o 192 64, valBytes (fmtBit o 157) * n)] ∧
        (Say.keeps s (bodyF o 192 64) → Say.vals t (fmtBit o 157) (bodyF o 192 64) vs)) ∧
    (∀ vs, Runs 6 5 tk o s → Say.softReady namedHact (bodyF o 153 4) s o → n = rowsF o * widthF o →
      vs = List.zipWith (lift2 fun a b => mul32 (if fmtBit o 159 then gelu32 a else silu32 a) b)
        (readVals s (fmtBit o 158) (bodyF o 320 64) n) (readVals s (fmtBit o 158) (bodyF o 256 64) n) →
      Say.ends (.hact (.run tk)) s tk (if none ∈ vs then 3 else 0) (hubSteps (ceilDiv n 256) (readsOf (namedHact s o))) fun t =>
        Say.only s t [(bodyF o 192 64, valBytes (fmtBit o 157) * n)] ∧
        (Say.keeps s (bodyF o 192 64) → Say.vals t (fmtBit o 157) (bodyF o 192 64) vs)) ∧
    (Runs 6 4 tk o s → Say.softReady namedHnorm (bodyF o 154 4) s o → n = widthF o →
      ∃ st, Say.ends (.hnorm (.run tk)) s tk st (hubSteps (ceilDiv (rowsF o * n) 256) (readsOf (namedHnorm s o))) fun t =>
        Say.only s t [(bodyF o 256 64, valBytes (fmtBit o 158) * n * rowsF o)] ∧
        (Say.keepsAll s (bodyF o 256 64, valBytes (fmtBit o 158) * n * rowsF o) →
          Say.apart (bodyF o 256 64, valBytes (fmtBit o 158) * n * rowsF o) (bodyF o 320 64, valBytes (fmtBit o 159) * n * rowsF o) →
          Say.apart (bodyF o 256 64, valBytes (fmtBit o 158) * n * rowsF o) (bodyF o 192 64, 4 * n) →
          ∀ i g xs, i < rowsF o → readVals s true (bodyF o 192 64) n = g.map some →
            readVals s (fmtBit o 159) (bodyF o 320 64 + valBytes (fmtBit o 159) * n * i) n = xs.map some →
            Say.vals t (fmtBit o 158) (bodyF o 256 64 + valBytes (fmtBit o 158) * n * i)
              ((normRow (BitVec.ofNat 32 (hubConst s (bodyF o 154 4) 0 4)) g xs).map some))) ∧
    (∀ theta : Nat → W32, Runs 6 6 tk o s → hropeOk o = true → Say.softReady namedHrope (bodyF o 89 4) s o →
      n = hrHeads o * hrDim o → (∀ j, theta j = BitVec.ofNat 32 (hubConst s (bodyF o 89 4) (16 + 4 * j) 4)) →
      ∃ st, Say.ends (.hrope (.run tk)) s tk st (hubSteps (ceilDiv (hrRows o * n) 256) (readsOf (namedHrope s o))) fun t =>
        Say.only s t [(bodyF o 256 64, valBytes (fmtBit o 99) * n * hrRows o),
          (bodyF o 128 64, if bodyF o 128 64 = 0 then 0 else 32 * hrRows o * hrKv o)] ∧
        (bodyF o 128 64 = 0 → Say.keepsAll s (bodyF o 256 64, valBytes (fmtBit o 99) * n * hrRows o) →
          Say.apart (bodyF o 256 64, valBytes (fmtBit o 99) * n * hrRows o) (bodyF o 320 64, valBytes (fmtBit o 100) * n * hrRows o) →
          Say.apart (bodyF o 256 64, valBytes (fmtBit o 99) * n * hrRows o) (bodyF o 192 64, 4 * hrRows o) →
          ∀ i, i < hrRows o → poisoned s (bodyF o 192 64 + 4 * i) 4 = false →
            Say.vals t (fmtBit o 99) (bodyF o 256 64 + valBytes (fmtBit o 99) * n * i)
              ((cutEvery (hrDim o) (hrHeads o) (readVals s (fmtBit o 100) (bodyF o 320 64 + valBytes (fmtBit o 100) * n * i) n)).flatMap
                (ropeHead theta (natF32 (memNum s (bodyF o 192 64 + 4 * i) 4)))))
        ∧ (bodyF o 128 64 ≠ 0 → hrRows o = 1 → Say.keepsAll s (bodyF o 128 64, 32 * hrKv o) → poisoned s (bodyF o 192 64) 4 = false →
          ∀ k q, k < hrKv o → querySketch (hrKv o) ((cutEvery (hrDim o) (hrHeads o)
              (readVals s (fmtBit o 100) (bodyF o 320 64) n)).map (ropeHead theta (natF32 (memNum s (bodyF o 192 64) 4)))) k (hrDim o) = some q →
            memNum t (bodyF o 128 64 + 32 * k) 32 = q % 2 ^ 256))) ∧
  (∀ (tk : Ticket) (o : Op) (s : State) (c n x y r : Nat), Runs 6 3 tk o s → hsoftOk o = true → Say.softReady namedHsoft (hsHub o) s o →
    c = hsCols o → n = hsRows o → x = bodyF o 320 64 → y = bodyF o 256 64 → r = bodyF o 192 64 →
    (hsMode 0 o = true → ∃ st, Say.ends (.hsoftFold (.run tk)) s tk st (hubSteps (ceilDiv (n * c) 256) (readsOf (namedHsoft s o))) fun t =>
      Say.only s t [(y, 4 * c * n), (r, 16 * n)] ∧
      (Say.keepsAll s (y, 4 * c * n) → Say.keepsAll s (r, 16 * n) → (x = y ∨ Say.apart (x, 4 * c * n) (y, 4 * c * n)) →
        Say.apart (x, 4 * c * n) (r, 16 * n) → Say.apart (y, 4 * c * n) (r, 16 * n) →
        (∀ j, j < n → none ∉ readVals s true (r + 16 * j) 2 ∧ none ∉ readVals s true (x + 4 * c * j) c) →
        st = 0 ∧ ∀ (i : Nat) (m sum : W32) (xs : List W32) (m' sum' r' : W32) (ps : List W32), i < n → readVals s true (r + 16 * i) 2 = [some m, some sum] →
          readVals s true (x + 4 * c * i) c = xs.map some → m' = xs.foldl max32 m → ps = xs.map (fun v => expDiff v m') →
          r' = expDiff m m' → sum' = add32 (mul32 sum r') (Config.np3Sum ps) →
          Say.vals t true (y + 4 * c * i) (ps.map some) ∧ Say.vals t true (r + 16 * i) [some m', some sum', some r', some 0])) ∧
    (hsMode 1 o = true → ∃ st, Say.ends (.hsoftFinish (.run tk)) s tk st (hubSteps (ceilDiv (n * c) 256) (readsOf (namedHsoft s o))) fun t =>
      Say.only s t [(y, valBytes (fmtBit o 154) * c * n)] ∧
      (Say.keepsAll s (y, valBytes (fmtBit o 154) * c * n) → Say.apart (x, 4 * c * n) (y, valBytes (fmtBit o 154) * c * n) →
        Say.apart (r, 16 * n) (y, valBytes (fmtBit o 154) * c * n) →
        ∀ i sum, i < n → readVals s true (r + 16 * i + 4) 1 = [sum] →
          Say.vals t (fmtBit o 154) (y + valBytes (fmtBit o 154) * c * i)
            ((readVals s true (x + 4 * c * i) c).map fun v => lift2 Config.np3Div v sum))) ∧
    (hsMode 2 o = true → ∃ st, Say.ends (.hsoftMerge (.run tk)) s tk st (hubSteps (ceilDiv (n * c * hsAreas o) 256) (readsOf (namedHsoft s o))) fun t =>
      Say.only s t [(y, hsArea o)] ∧
      (Say.keepsAll s (y, hsArea o) → ∀ i, i < n →
        ∀ (p : W32 × W32 × List W32) (ps : List (W32 × W32 × List W32)) (m a : W32) (v : List W32),
          ((List.range (hsAreas o)).map fun k => mergePart s o k i) = some p :: ps.map some →
          ps.foldl mergeRow p = (m, a, v) →
          Say.vals t true (y + 16 * i) [some m, some a, some 0x3F80_0000, some 0] ∧
          Say.vals t true (y + 16 * n + 4 * c * i) (v.map some))))

/-- One output vector of HMV or TJOB stands in memory: values in BF16 or FP32, or whole head vectors of a geometry (R206). -/
def Sys2Proof.Say.out (t : State) (geom : Option Nat) (yfmt a : Nat) (vs : List (Option W32)) : Prop :=
  (yfmt = 0 → Say.vals t false a vs) ∧ (yfmt = 1 → Say.vals t true a vs) ∧
  ∀ g i v bs, 2 ≤ yfmt → geom = some g → (cutEvery (geDim g) (ceilDiv vs.length (geDim g)) vs)[i]? = some v →
    bs = encHead (geFmt g) (geDim g) (v.map fun x => dec32 (x.getD 0)) → bs.length ≤ geVec g →
    memRead t (a + geVec g * i) bs.length = bs

/-- HMV writes for each vector the dot products of the slice's rows with it, with its adapter's term, poison where its descriptor or
its list of adapters is (log entry 127); HQK the scores of its
pages' keys; HPV the accumulator rescaled plus the weighted values; HSWAP saves and loads a hub's constants and buffers (R205
to R208, R212, R227, R237). -/
def Obligations.HubMatrix : Prop :=
  (∀ (tk : Ticket) (o : Op) (s : State) (d : SliceDesc) (g : Option Nat) (y dst : Nat) (bad : Bool)
      (kept : List (Option W32) → List (Option W32)), Runs 6 0 tk o s → hmvOk s o = true →
    d = readDesc s (bodyF o 320 64) → g = mvGeom s o → y = bodyF o 104 2 → dst = bodyF o 192 64 →
    bad = (poisoned s (bodyF o 320 64) 128 || (bodyF o 128 64 != 0 && poisoned s (bodyF o 128 64) (2 * mvVecs o))) →
    (∀ vs, kept vs = if bad then vs.map fun _ => none else vs) →
    ∃ st n, Say.ends (.hmv (.run tk)) s tk st n fun t => (st = 0 ∨ st = 3) ∧
      Say.only s t [(dst, outStride g y d.nrows * (mvVecs o - 1) + outBytes g y d.nrows)] ∧
      (Say.keepsAll s (dst, outStride g y d.nrows * (mvVecs o - 1) + outBytes g y d.nrows) → (y < 2 ∨ mvVecs o = 1) →
        ∀ v xs rows, v < mvVecs o → xs = readVals s false (bodyF o 256 64 + 2 * (32 * d.kblk) * v) (32 * d.kblk) →
          rows = sliceRows d (readBlock s d) →
          ((mvAdapter s o v).bind (adapterEntry s d.atab) = none →
            Say.out t g y (dst + outStride g y d.nrows * v) (kept (rows.map fun r => dot (valGroups ((elemOf d.wfmt).getD .e4m3) xs) r))) ∧
          ∀ e, (mvAdapter s o v).bind (adapterEntry s d.atab) = some e →
            Say.out t g y (dst + outStride g y d.nrows * v) (kept (List.zipWith
              (fun r b => accumulate (dot (valGroups ((elemOf d.wfmt).getD .e4m3) xs) r)
                (valGroups .e4m3 (adapterU s (32 * d.kblk) e (valGroups .e4m3 xs))) b)
              rows (factorRows s e.2.1 d.nrows e.2.2.2))))) ∧
  (∀ (tk : Ticket) (o : Op) (s u : State) (e : LEntry) (geom d hq : Nat) (ps rows : List Nat) (us : List (Option PageUse)),
    o.cls = 6 → entryIn s o.part o.request.toNat = some e → geom = reqGeom s o → d = geDim geom → ps = qkPositions s o →
    rows = qkRows s o → hq = hubConst s (qkHub o) 4 2 →
    lookPages o e (qkLayer o) (some (qkHub o)) (qkHeads o = geHeads geom) ps s = (us, u) →
    (Runs 6 1 tk o s → qkOk false s o = true →
      ∃ st n, Say.ends (.hqk (.run tk)) s tk st n fun t => (some .absent ∈ us → st = 10) ∧
        Say.only u t [(bodyF o 256 64, 1024 * ps.length * rows.length)] ∧
        (Say.keepsAll s (bodyF o 256 64, 1024 * ps.length * rows.length) → ∀ i q, rows[i]? = some q →
          Say.vals t true (bodyF o 256 64 + 1024 * ps.length * i) (us.flatMap fun x => (List.range 256).map fun tok =>
            tokenScore geom (queryGroups (readVals u false (bodyF o 320 64 + 2 * d * i) d))
              (useVec u geom false (kvHead (geHeads geom) hq q) tok x)))) ∧
    (Runs 6 2 tk o s → qkOk true s o = true →
      ∃ st n, Say.ends (.hpv (.run tk)) s tk st n fun t => (some .absent ∈ us → st = 10) ∧
        Say.only u t [(bodyF o 256 64, 4 * d * rows.length)] ∧
        (Say.keepsAll s (bodyF o 256 64, 4 * d * rows.length) → ∀ i q r, rows[i]? = some q →
          readVals u true (bodyF o 320 64 + 16 * i + 8) 1 = [r] →
          Say.vals t true (bodyF o 256 64 + 4 * d * i) (List.zipWith (lift2 add32)
            ((readVals u true (bodyF o 256 64 + 4 * d * i) d).map fun x => lift2 mul32 x r)
            (weightedSum false .e4m3 geom (readVals u true (bodyF o 320 64 + 16 * rows.length + 1024 * ps.length * i) (256 * ps.length))
              (us.flatMap fun x => (List.range 256).map fun tok =>
                valueVec geom (useVec u geom true (kvHead (geHeads geom) hq q) tok x))))))) ∧
  ∀ (tk : Ticket) (o : Op) (s : State) (h sv ld : Nat), Runs 6 8 tk o s → hswapOk s o = true → h = swHub o → sv = bodyF o 320 64 →
    ld = bodyF o 256 64 →
    ∃ st n, Say.ends (.hswap (.run tk)) s tk st n fun t => (st = 0 ∨ st = 3) ∧
      Say.only s t ((if sv = 0 then [] else [(sv, swBytes o)]) ++ if ld = 0 then [] else swParts o) ∧
      (ld = 0 → t.units = s.units) ∧
      (sv ≠ 0 → Say.keepsAll s (sv, swBytes o) → Say.apart (sv, swBytes o) (hubWin h, 35 * 2 ^ 20) →
        memRead t sv 4096 = ((List.range 4096).map fun i => (tget [] s.units.hubConst h).getD i 0) ∧
        ∀ i x n, (swParts o)[i]? = some (x, n) →
          memRead t (sv + 4096 + (((swParts o).take i).map Prod.snd).sum) n = memRead s x n) ∧
      (ld ≠ 0 → (sv = 0 ∨ Say.apart (sv, swBytes o) (ld, swBytes o)) → Say.apart (ld, swBytes o) (hubWin h, 35 * 2 ^ 20) →
        tget [] t.units.hubConst h = memRead s ld 4096 ∧
        ∀ i x n, (swParts o)[i]? = some (x, n) →
          memRead t x n = memRead s (ld + 4096 + (((swParts o).take i).map Prod.snd).sum) n)

/-- What a tile job computes, by its kind, from the state v in which it reads: a row of outputs for each held row (R228); all of them
poison where its list of descriptors is (log entry 127). -/
def Sys2Proof.Say.job (s v : State) (o : Op) (outs : List (List (Option W32))) : Prop :=
  (∃ vs, (tjKind o = 0 ∧ vs = tjWeights v o ∨ tjKind o = 3 ∧ vs = tjDown v o) ∧ v = cacheDescs s o (descAddrs s o (bodyF o 320 64)) ∧
    outs = if descPoison s o (bodyF o 320 64) then vs.map (fun l => l.map fun _ => none) else vs) ∨
  ∃ e us, activeEntry s o = some e ∧
    lookPages o e (bodyF o 71 8) none true ((List.range (tjPos o)).map fun i => bodyF o 53 12 + i) s = (us, v) ∧
    (tjKind o = 1 ∧ outs = tjScores v o us (headsPerToken v o) ∨ tjKind o = 2 ∧ outs = tjValues v o us)

/-- TJOB writes its output rows; TGATHER its directory, and into every named slot the gathered factors; TSWAP saves and loads
the configuration and pinned parts of the named slots (R228 to R238). -/
def Obligations.TileJobs : Prop :=
  (∀ (tk : Ticket) (o : Op) (s v : State) (outs : List (List (Option W32))) (stride len : Nat), Runs 7 0 tk o s → tjobOk s o = true →
    Say.job s v o outs → stride = tjOutStride v o →
    ∃ st n, Say.ends (.tjob (.run tk)) s tk st n fun t =>
      (fmtBit o 83 = false → Say.keepsAll s (tjDst o, stride * outs.length) → ∀ i vs, outs[i]? = some vs → vs.length ≤ tjN v o →
        (tjKind o = 3 → Say.vals t false (tjDst o + stride * i) vs) ∧
        (tjKind o ≠ 3 → tjCfmt o = 0 → Say.vals t false (tjDst o + stride * i) vs) ∧
        (tjKind o ≠ 3 → tjCfmt o = 1 → Say.vals t true (tjDst o + stride * i) vs) ∧
        (tjKind o ≠ 3 → tjCfmt o = 2 → tjRows o = 1 → Say.out t (tjGeom v o) 2 (tjDst o) vs) ∧
        (tjKind o ≠ 3 → tjCfmt o = 3 → ∀ j g, (cutEvery 32 (ceilDiv vs.length 32) vs)[j]? = some g → g.length = len →
          memRead t (tjDst o + stride * i + 33 * j) (len + 1) =
            BitVec.ofNat 8 (toMxCodes .e4m3 (g.map fun x => dec32 (x.getD 0))).1 ::
              (toMxCodes .e4m3 (g.map fun x => dec32 (x.getD 0))).2.map (BitVec.ofNat 8))) ∧
      (fmtBit o 83 = true → Say.keepsAll s (tjDst o, stride * outs.length) → tjKind o ≠ 3 → (∀ vs ∈ outs, none ∉ vs) →
        ∀ i vs, outs[i]? = some vs → vs.length ≤ tjN v o → (∀ j, j < outs.length → none ∉ readVals v true (tjDst o + stride * j) vs.length) →
          Say.vals t true (tjDst o + stride * i)
            (List.zipWith (lift2 add32) vs (readVals v true (tjDst o + stride * i) vs.length)))) ∧
  (∀ (tk : Ticket) (o : Op) (s : State), Runs 7 1 tk o s → tgatherOk s o = true →
    ∃ st n, Say.ends (.tgather (.run tk)) s tk st n fun t => (st = 0 ∨ st = 3) ∧
      Say.only s t [(bodyF o 256 64, 16 + 16 * (tgAdapters s o).length)] ∧
      (Say.keeps s (bodyF o 256 64) →
        memNum t (bodyF o 256 64) 16 = (tgDir s o).length + tgRank s o * 2 ^ 16 ∧
        ∀ i a off r, (tgDir s o)[i]? = some (a, off, r) → a < 2 ^ 16 → off < 2 ^ 16 → r < 2 ^ 16 →
          memNum t (bodyF o 256 64 + 16 + 16 * i) 16 = a + off * 2 ^ 16 + r * 2 ^ 32) ∧
      ∀ i ∈ tjNamed o, ∃ g, (tileGet t i).gather = some g ∧ g.rows = tjRows o ∧ g.split = fmtBit o 75 ∧ g.cmask.toNat = tjC o ∧
        g.smask.toNat = tjS o ∧ g.rank = tgRank s o ∧ g.dir = tgDir s o ∧
        g.rowAdapters = (tgList s o).flatMap fun x => List.replicate x.2 (tgAdapter s o x.1)) ∧
  ∀ (tk : Ticket) (o : Op) (s : State) (sv ld n : Nat), Runs 7 2 tk o s → tswapOk s o = true →
    (∀ i ∈ tjNamed o, (cfgBytes (tileGet s i)).length = 4096) → sv = bodyF o 320 64 →
    ld = bodyF o 256 64 → n = 4096 + twPin o * 65536 →
    ∃ st m, Say.ends (.tswap (.run tk)) s tk st m fun t => (st = 0 ∨ st = 3) ∧
      Say.only s t (if sv = 0 then [] else [(sv, twSave s o)]) ∧ (ld = 0 → t.units = s.units) ∧
      (sv ≠ 0 → Say.keepsAll s (sv, twSave s o) → ∀ k i, (tjNamed o)[k]? = some i →
        memRead t (sv + (((tjNamed o).take k).map fun j => 4096 + (tileGet s j).pin * 65536).sum) (4096 + (tileGet s i).pin * 65536) =
          cfgBytes (tileGet s i) ++ pinBytes (tileGet s i)) ∧
      (ld ≠ 0 → (sv = 0 ∨ Say.apart (sv, twSave s o) (ld, twLoad o)) → ∀ k i, (tjNamed o)[k]? = some i →
        tileGet t i = { tileGet s i with
          cfg := memRead s (ld + n * k) 4096, cache := [], pin := twPin o, pinned := memRead s (ld + n * k + 4096) (twPin o * 65536),
          bad := below (n / 64) fun j => poisoned s (ld + n * k + 64 * j) 64 })

/-- A request of this device to a node waits for its answer, sent or held for credits. -/
def Sys2Proof.Say.asked (t : State) (owner : Owner) (op : Byte) (node : Node) (off arg : Nat) (data : List Byte) : Prop :=
  ∃ r ∈ t.isf.out, r.owner = owner ∧ r.pkt.pkt.op = op ∧ r.pkt.pkt.dst = node ∧ r.pkt.pkt.off.toNat = off % 2 ^ 50 ∧
    r.pkt.pkt.arg.toNat = arg % 2 ^ 64 ∧ r.pkt.pkt.data = data ∧ Say.sent t r.pkt

/-- No request waits on a node that the live set excludes. -/
def Sys2Proof.Say.linked (s : State) : Prop := ∀ r ∈ s.isf.out, excluded s r.pkt.pkt.dst = false

/-- FCOPY within the device copies, or ends REVOKED; to another node it sends a WRITE, and from one a READ, for each piece
within 4 KiB; FMCAST sends each member its pieces, and to its own node it copies them where its launch found the place to be its
own; FRED sends contributions (R100, R153, R254, R256, R258). FATOM adds operand a to 8 bytes, replaces them by a, or where they
equal operand b by a, or adds a to a tally, and writes the old value back, or asks the target's node; FINV asks the holders that its
launch checked to drop a block, or ends with POISON where it could not read their list; FHAND offers an entry to its destination, and one to its own node ends with PROTECT (R246, R252, R259). A WRITE, an ATOMIC, a REDUCE and an INVAL commit their operation when the first of
them is transmitted (R92, R265). To an excluded node nothing is sent, and the operation ends with TIMEOUT (R253). The model's choices: a copy that overlaps itself (log
entry 33), poisoned source lines (log entry 34), that a request to an excluded node ends at once (log entry 96), a hand-off to
the own node (log entry 97), FATOM on poison and FINV at the own node (log entry 99), REVOKED for an own-node destination (log
entry 100), the byte counts in the steps of FATOM, FINV and FHAND (log entry 139). -/
def Obligations.FerryOperations : Prop :=
  ((∀ (tk : Ticket) (o : Op) (s : State) (a b n : Nat) (st : Byte), Runs 8 0 tk o s → Say.linked s → o.await = 0 → fcLen o ≠ 0 →
    n = fcLen o → pagesIn s a n = [] → st = (if poisoned s a n then 3 else 0) → (fcSrc s o).2 = a → (fcDst s o).2 = b →
    ((fcSrc s o).1 = none → (fcDst s o).1 = none → fcDfab o = true → revoked s b n = true →
      Say.ends (.fcopy (.run tk)) s tk 6 (ceilDiv n 65536 + 1) fun t => t.mem.cells = s.mem.cells) ∧
    ((fcSrc s o).1 = none → (fcDst s o).1 = none → (fcDfab o = false ∨ revoked s b n = false) →
      Say.ends (.fcopy (.run tk)) s tk st (ceilDiv n 65536 + 1) fun t => Say.only s t [(b, n)] ∧
        (Say.keeps s b → (a = b ∨ a + n ≤ b ∨ b + n ≤ a) → memRead t b n = memRead s a n) ∧
        (∀ i, o.ctally = some i → fcRt o = none → (tally t i).toNat = min ((tally s i).toNat + n) (2 ^ 64 - 1)) ∧
        (∀ i, fcRt o = some i → o.ctally = none → (tally t i).toNat = min ((tally s i).toNat + n) (2 ^ 64 - 1))) ∧
    (∀ node, (fcSrc s o).1 = none → (fcDst s o).1 = some node → excluded s node = true →
      Say.ends (.fcopy (.run tk)) s tk (if st = 0 then 4 else st) (ceilDiv n 65536 + 1) fun t => t.mem.cells = s.mem.cells) ∧
    (∀ node, (fcSrc s o).1 = some node → excluded s node = true →
      Say.ends (.fcopy (.run tk)) s tk 4 (ceilDiv n 65536 + 1) fun t =>
        if (fcDst s o).1 = none then Say.only s t [(b, n)] else t.mem.cells = s.mem.cells) ∧
    (∀ node, (fcSrc s o).1 = none → (fcDst s o).1 = some node → excluded s node = false →
      Say.awaits (.fcopy (.run tk)) s tk (Say.bySending s) (cutPieces b (0, n)).length fun t => ∀ x m, (x, m) ∈ cutPieces b (0, n) →
        Say.asked t (.ferryWrite tk m 0) 3 node (b + x) (poisonMask s (a + x) m) (memRead s (a + x) m)) ∧
    (∀ node, (fcSrc s o).1 = some node → excluded s node = false →
      Say.awaits (.fcopy (.run tk)) s tk (Say.byAnswer s) (cutPieces b (0, n)).length fun t => ∀ x m, (x, m) ∈ cutPieces b (0, n) → ∃ f,
        ((fcDst s o).1 = none → f = none) ∧ Say.asked t (.ferryRead tk (b + x) f) 1 node (a + x) (ceilDiv m 64 * 64) [])) ∧
  (∀ (tk : Ticket) (o : Op) (s : State) (src n : Nat), Runs 8 2 tk o s → Say.linked s → o.await = 0 → fmcastOk s o = true → src = bodyF o 320 64 →
    n = fmLen o → pagesIn s src n = [] →
    ((∀ k ∈ fmMembers s o, slotNode s k = none) →
      Say.ends (.fmcast (.run tk)) s tk (if fmMembers s o = [] then (if poisoned s src n then 3 else 0) else 7)
        (ceilDiv (n * (fmMembers s o).length) 65536 + 1) fun t => Say.only s t [(bodyF o 256 64, 32)] ∧
        (Say.keeps s (bodyF o 256 64) → ∀ k, k < 32 → memNum t (bodyF o 256 64 + k) 1 = if k ∈ fmMembers s o then 7 else 0xFF)) ∧
    (n ≠ 0 → (∀ k ∈ fmMembers s o, slotNode s k ≠ some (ownNode s)) → (∃ k ∈ fmMembers s o, (slotNode s k).isSome = true) →
      (∀ k ∈ fmMembers s o, ∀ node, slotNode s k = some node → excluded s node = false) → Say.awaits (.fmcast (.run tk)) s tk (Say.bySending s)
          (((fmMembers s o).filter fun k => (slotNode s k).isSome).length * (cutPieces (fmOff o) (0, n)).length) fun t =>
        ∀ k node x m, k ∈ fmMembers s o → slotNode s k = some node → (x, m) ∈ cutPieces (fmOff o) (0, n) →
          Say.asked t (.ferryWrite tk m k) 3 node (fmOff o + x) (poisonMask s (src + x) m) (memRead s (src + x) m)) ∧
    (∀ k st, k < 32 → fmMembers s o = [k] → slotNode s k = some (ownNode s) → o.buf = [] →
      st = (if o.settled = false then 7 else if revoked s (fmOff o) n = true then 6 else if poisoned s src n = true then 3 else 0) →
      Say.ends (.fmcast (.run tk)) s tk st (ceilDiv n 65536 + 1) fun t =>
        ((o.settled = false ∨ revoked s (fmOff o) n = true) → Say.only s t [(bodyF o 256 64, 32)]) ∧
        (o.settled = true → revoked s (fmOff o) n = false → Say.only s t [(bodyF o 256 64, 32), (fmOff o, n)] ∧
          (Say.keeps s (fmOff o) → (src = fmOff o ∨ src + n ≤ fmOff o ∨ fmOff o + n ≤ src) →
            (fmOff o + n ≤ bodyF o 256 64 ∨ bodyF o 256 64 + 32 ≤ fmOff o) → memRead t (fmOff o) n = memRead s src n)))) ∧
  ∀ (tk : Ticket) (o : Op) (s : State) (src dst n : Nat) (node : Node), Runs 8 1 tk o s → Say.linked s → o.await = 0 →
    rdLen o ≠ 0 → rdLen o % 64 = 0 → bodyF o 256 64 % 64 = 0 → bodyF o 177 2 ≠ 3 → bodyF o 175 2 ≠ 3 →
    (node = ownNode s → fabricPlace s dst n = true) → src = bodyF o 320 64 → dst = fabOff (bodyF o 256 64) → node = fabNode (bodyF o 256 64) → n = rdLen o → pagesIn s src n = [] →
    (node ≠ ownNode s → excluded s node = true → Say.ends (.fred (.run tk)) s tk (if poisoned s src n then 3 else 4)
      (ceilDiv n 65536 + 1) fun t => t.mem.cells = s.mem.cells) ∧
    (node ≠ ownNode s → excluded s node = false → Say.awaits (.fred (.run tk)) s tk (Say.bySending s) (cutPieces dst (0, n)).length fun t =>
      ∀ x m, (x, m) ∈ cutPieces dst (0, n) → ∃ bs, bs.length = m ∧ (poisoned s (src + x) m = false → bs = memRead s (src + x) m) ∧
        Say.asked t (.reduce tk) 7 node (dst + x) (rdArg o) bs) ∧
    (node = ownNode s → poisoned s src n = false → dst % 4096 + n ≤ 4096 → s.isf.segments = [] → Config.reduceRecords ≠ 0 → o.ord = false →
      outReq s s.isf.nextTag = none → Say.keeps s dst → ∀ w, w = (if bodyF o 175 2 = 1 then 2 else 4) →
      ∃ t, exec (.fred (.run tk)) s = .next t ∧ Say.done t tk 0 (ceilDiv n 65536 + 1) ∧ t.ctxs = s.ctxs ∧ Say.only s t [(dst, n)] ∧
        ∀ i, i < n / w → memNum t (dst + w * i) w =
          combineElem (bodyF o 177 2) (bodyF o 175 2) (memNum s (dst + w * i) w) (memNum s (src + w * i) w) % 2 ^ (8 * w))) ∧
  ((∀ (tk : Ticket) (o : Op) (s : State) (a r : Nat), Runs 8 3 tk o s → Say.linked s → o.await = 0 → faOp o ≠ 3 → faTarget o % 8 = 0 →
      a = fabOff (faTarget o) → r = bodyF o 256 64 →
    (fabNode (faTarget o) = ownNode s → faTally s o = none → revoked s a 8 = false → poisoned s a 8 = false →
      Say.ends (.fatom (.run tk)) s tk 0 2 fun t => Say.only s t [(a, 8), (r, 8)] ∧
        (Say.keeps s a → (a + 8 ≤ r ∨ r + 8 ≤ a) → memNum t a 8 = (if faOp o = 0 then (memNum s a 8 + bodyF o 192 64) % 2 ^ 64
          else if faOp o = 1 then bodyF o 192 64 else if memNum s a 8 = bodyF o 128 64 then bodyF o 192 64 else memNum s a 8)) ∧
        (Say.keeps s r → memNum t r 8 = memNum s a 8)) ∧
    (∀ i, fabNode (faTarget o) = ownNode s → faTally s o = some i →
      Say.ends (.fatom (.run tk)) s tk 0 2 fun t => Say.only s t [(r, 8)] ∧ (Say.keeps s r → memNum t r 8 = (tally s i).toNat) ∧
        (tally t i).toNat = min ((tally s i).toNat + bodyF o 192 64) (2 ^ 64 - 1)) ∧
    (fabNode (faTarget o) = ownNode s → faTally s o = none → revoked s a 8 = false → poisoned s a 8 = true →
      Say.ends (.fatom (.run tk)) s tk 3 2 fun t => t.mem.cells = s.mem.cells) ∧
    (fabNode (faTarget o) = ownNode s → faTally s o = none → revoked s a 8 = true →
      Say.ends (.fatom (.run tk)) s tk 6 2 fun t => t.mem.cells = s.mem.cells) ∧
    (fabNode (faTarget o) ≠ ownNode s → excluded s (fabNode (faTarget o)) = true →
      Say.ends (.fatom (.run tk)) s tk 4 2 fun t => t.mem.cells = s.mem.cells) ∧
    (fabNode (faTarget o) ≠ ownNode s → excluded s (fabNode (faTarget o)) = false → Say.awaits (.fatom (.run tk)) s tk (Say.bySending s) 1 fun t =>
      Say.asked t (.atomic tk r) 5 (fabNode (faTarget o)) a (faOp o) (leBytes 8 (bodyF o 192 64) ++ leBytes 8 (bodyF o 128 64)))) ∧
  (∀ (tk : Ticket) (o : Op) (s : State), Runs 8 4 tk o s → o.await = 0 → Say.linked s → o.nodes = none →
    Say.ends (.finv (.run tk)) s tk 3 0 fun t => t.isf = s.isf ∧ t.mem.cells = s.mem.cells) ∧
  (∀ (tk : Ticket) (o : Op) (s : State) (ns : List Node), Runs 8 4 tk o s → Say.linked s → o.await = 0 → o.nodes = some ns →
    ((∀ n ∈ ns, n = ownNode s) → Say.ends (.finv (.run tk)) s tk 0 1 fun t => t.mem.cells = s.mem.cells ∧
      (ownNode s ∈ ns → ∀ x ∈ t.isf.lcache, ¬(x.1 * 4096 % 2 ^ 50 < fabOff (bodyF o 320 64) + fiLen o ∧
        fabOff (bodyF o 320 64) < x.1 * 4096 % 2 ^ 50 + 4096))) ∧
    ((∃ n ∈ ns, n ≠ ownNode s) → (∀ n ∈ ns, excluded s n = false) → Say.awaits (.finv (.run tk)) s tk
        (fun t y => if ownNode s ∈ ns then y.phase = .committed else Say.bySending s t y) (ns.filter fun n => n ≠ ownNode s).length fun t =>
      ∀ n ∈ ns, n ≠ ownNode s → Say.asked t (.inval tk) 8 n (fabOff (bodyF o 320 64)) (fiLen o) [])) ∧
  ∀ (tk : Ticket) (o : Op) (s : State) (e : LEntry), Runs 8 5 tk o s → Say.linked s → o.await = 0 → e = entryOf s o.request.toNat →
    (fhNode o ≠ ownNode s → excluded s (fhNode o) = true → Say.ends (.fhand (.run tk)) s tk 4 2 fun t =>
      e.state ≠ 3 → Say.entriesAre t s ∧ t.mem.cells = s.mem.cells) ∧
    (fhNode o ≠ ownNode s → excluded s (fhNode o) = false → Say.awaits (.fhand (.run tk)) s tk (Say.byAnswer s) 1 fun t =>
      Say.asked t (.hand tk) 0xA (fhNode o) 0 (bodyF o 369 1)
        (leBytes 64 (entryNum (fhEntry o e)) ++ leBytes 8 (nsLeft s e.deadline.toNat) ++ leBytes 4 (bodyF o 320 32) ++ leBytes 4 0)) ∧
    (fhNode o = ownNode s → Say.ends (.fhand (.run tk)) s tk 7 2 fun t =>
      e.state ≠ 3 → Say.entriesAre t s ∧ t.mem.cells = s.mem.cells))

/-- A QPCTL runs on its queue pair's context: its checks pass, the context is resident where it is not RESET, its state field is no
reserved one, its image is clean. -/
def Sys2Proof.Say.qpRuns (tk : Ticket) (o : Op) (s : State) (cop : Nat) (n : Nat) (c : QpCtx) : Prop :=
  Runs 8 7 tk o s ∧ qcOp o = cop ∧ qpctlOk s o = true ∧ n = opQpn o ∧ c = qpGet s n ∧
  (c.state = 0 ∨ qpResident s n = true) ∧ qcState o < 5 ∧ (∀ x ∈ namedQpctl s o, x.1 = false → poisoned s x.2.1 x.2.2 = false)

/-- QPSEND takes its message to be sent, or ends with PROTECT or FLUSHED by the pair's state; what each of the eight
operations of QPCTL makes of its queue pair; a CREATE that finds no cached context it may evict waits (R268, R270, R275, R276,
R278, R280, R281). What a QPCTL image may hold and the level of the engine's memory accesses are the model's choices (log entries
86, 87), as are the contexts that sending pins (log entry 130). -/
def Obligations.QueuePairOperations : Prop :=
  (∀ (tk : Ticket) (o : Op) (s : State) (n : Nat) (c : QpCtx) (a : Nat), Runs 8 6 tk o s → n = opQpn o →
    c = qpGet s n → a = bodyF o 320 64 → (∀ m ∈ s.qpe.msgs, m.ticket ≠ tk) → (∀ x ∈ s.qpe.sendWait, x.2.1 ≠ tk) →
    ((holdsQp s o.ctxPart n = false ∨ c.state.toNat ≤ 1) → Say.ends (.qpsend (.run tk)) s tk 7 0 fun t =>
      (c.state.toNat ≤ 1 ∨ ∀ m ∈ s.qpe.msgs, m.qpn.toNat ≠ n) → t.qpe = s.qpe) ∧
    (holdsQp s o.ctxPart n = true → c.state = 4 → Say.ends (.qpsend (.run tk)) s tk 8 0 fun t => t.qpe = s.qpe) ∧
    (holdsQp s o.ctxPart n = true → (c.state = 2 ∨ c.state = 3) → qpResident s n = true → qpsendReg o = false →
      opMemOk s o.level.toNat o.ctxPart false a (qpsendLen o) = true → poisoned s a (qpsendLen o) = false →
      ∃ t, exec (.qpsend (.run tk)) s = .next t ∧ t.ctxs = s.ctxs ∧ t.mem.cells = s.mem.cells ∧
        ∃ m ∈ t.qpe.msgs, m.ticket = tk ∧ m.qpn.toNat = n ∧ m.data = memRead s a (qpsendLen o))) ∧
  (∀ (tk : Ticket) (o : Op) (s : State) (c : QpCtx) (p : (Posted → Instr) × Nat × List Nat),
    p ∈ [(.qpctlCreate, 0, [0]), (.qpctlModify, 1, [1, 2, 3]), (.qpctlQuery, 2, [0, 1, 2, 3, 4]), (.qpctlDestroy, 3, [0, 1, 2, 3, 4]),
         (.qpctlKeyset, 4, [1, 2, 3]), (.qpctlKeyflip, 5, [2, 3]), (.qpctlRecv, 6, [1, 2, 3]), (.qpctlResume, 7, [0, 1, 2, 3, 4])] →
    Runs 8 7 tk o s → qcOp o = p.2.1 → c = qpGet s (opQpn o) →
    (qpctlOk s o = false → Say.ends (p.1 (.run tk)) s tk 7 0 fun t => t.qpe = s.qpe) ∧
    (qpctlOk s o = true → c.state = 4 → p.2.1 ≠ 2 → p.2.1 ≠ 3 → Say.ends (p.1 (.run tk)) s tk 8 0 fun t => t.qpe = s.qpe) ∧
    (qpctlOk s o = true → (c.state ≠ 4 ∨ p.2.1 = 2 ∨ p.2.1 = 3) → (c.state.toNat ∉ p.2.2 ∨ 5 ≤ qcState o) →
      Say.ends (p.1 (.run tk)) s tk 7 0 fun t => t.qpe = s.qpe)) ∧
  (∀ (tk : Ticket) (o : Op) (s : State) (n : Nat) (c : QpCtx) (x : Nat), x = memNum s (qcAddr o) 256 →
    (Say.qpRuns tk o s 0 n c → c.state = 0 → qpImageResv x = true → bf x 111 14 = n → qpFieldsOk (qpFresh x) = true →
      (qcState o = 1 ∨ qcState o = 2) → (qpRoom s).isSome = true →
      Say.ends (.qpctlCreate (.run tk)) s tk 0 1 fun t => qpResident t n = true ∧
        (excluded s (qpFresh x).rnode = false →
          qpGet t n = { qpFresh x with part := o.ctxPart, ld := o.ld, state := BitVec.ofNat 3 (qcState o) }) ∧
        (excluded s (qpFresh x).rnode = true → (qpGet t n).state = 4 ∧ (qpGet t n).ecause = 4)) ∧
    (Say.qpRuns tk o s 0 n c → c.state = 0 → qpImageResv x = true → bf x 111 14 = n → qpFieldsOk (qpFresh x) = true →
      (qcState o = 1 ∨ qcState o = 2) → (qpRoom s).isSome = false →
      ∃ t o', exec (.qpctlCreate (.run tk)) s = .next t ∧ opGet t tk = some o' ∧ o'.phase = o.phase ∧ t.qpe = s.qpe ∧ t.ctxs = s.ctxs) ∧
    (Say.qpRuns tk o s 1 n c → qpMove c.state.toNat (qcState o) = true → qcCount o < 64 → qpImageResv x = true →
      qpFieldsOk (qpModify c x (qcCount o)) = true →
      (qcState o ≠ 4 → (∀ m ∈ s.qpe.msgs, m.qpn.toNat ≠ n) → (∀ x ∈ s.qpe.shWait, x.2.1 ≠ n) → Say.ends (.qpctlModify (.run tk)) s tk 0 1 fun t =>
        qpGet t n = { qpModify c x (qcCount o) with state := BitVec.ofNat 3 (qcState o) } ∧ ∀ j, j ≠ n → qpGet t j = qpGet s j) ∧
      (qcState o = 4 → c.state.toNat ∈ [1, 2, 3] → Say.ends (.qpctlModify (.run tk)) s tk 0 1 fun t => (qpGet t n).state = 4 ∧ (qpGet t n).ecause = 8 ∧
        ∀ y, opGet s y.ticket = some y → y.cls = 8 → y.op = 6 → opQpn y = n → y.phase = .queued →
          (∀ z ∈ s.ops, z.ticket = y.ticket → z = y) → Say.done t y.ticket 8 0)) ∧
    (Say.qpRuns tk o s 2 n c → c.state.toNat ≤ 4 → Say.ends (.qpctlQuery (.run tk)) s tk 0 1 fun t =>
      Say.only s t [(qcAddr o, 256)] ∧ (Say.keeps s (qcAddr o) → memNum t (qcAddr o) 256 = qpNum n false c % 2 ^ 2048) ∧
      t.qpe = { s.qpe with cached := t.qpe.cached } ∧ ∀ m, m ∈ t.qpe.cached ↔ m ∈ s.qpe.cached) ∧
    (Say.qpRuns tk o s 3 n c → c.state ≠ 0 → c.state.toNat ≤ 4 → Say.ends (.qpctlDestroy (.run tk)) s tk 0 1 fun t =>
      (qpGet t n).state = 0 ∧ (qpGet t n).kvalid = 0 ∧ (qpGet t n).key = [] ∧ (qpGet t n).salt = [] ∧ qpResident t n = false) ∧
    (Say.qpRuns tk o s 3 n c → c.state = 0 →
      (n ∈ s.qpe.corrupt → Say.ends (.qpctlDestroy (.run tk)) s tk 0 1 fun t => n ∉ t.qpe.corrupt) ∧
      (n ∉ s.qpe.corrupt → Say.ends (.qpctlDestroy (.run tk)) s tk 7 0 fun t => t.qpe = s.qpe)) ∧
    (Say.qpRuns tk o s 4 n c → c.state.toNat ∈ [1, 2, 3] → ∀ sl, sl = boolNat (qcSlot o) →
      ((c.state = 1 ∨ qcSlot o ≠ c.sphase) → (qcSlot o = c.sphase ∨ c.oldout = 0) → Say.ends (.qpctlKeyset (.run tk)) s tk 0 1 fun t =>
        (tget 0 (qpGet t n).key sl).toNat = memNum s (qcAddr o) 32 ∧ (tget 0 (qpGet t n).salt sl).toNat = memNum s (qcAddr o + 32) 4 ∧
        (qpGet t n).kvalid.toNat.testBit sl = true ∧ tget 0 (qpGet t n).txc sl = 0) ∧
      ((c.state ≠ 1 ∧ qcSlot o = c.sphase ∨ qcSlot o ≠ c.sphase ∧ c.oldout ≠ 0) →
        Say.ends (.qpctlKeyset (.run tk)) s tk 7 0 fun t => t.qpe = s.qpe)) ∧
    (Say.qpRuns tk o s 5 n c → (c.state = 2 ∨ c.state = 3) → (∀ m ∈ s.qpe.msgs, m.qpn.toNat ≠ n) → (∀ x ∈ s.qpe.worn, x.1 ≠ n) →
      (c.kvalid.toNat.testBit (boolNat (qcSlot o)) = true → Say.ends (.qpctlKeyflip (.run tk)) s tk 0 1 fun t =>
        ∃ k, qpGet t n = { c with sphase := qcSlot o, oldout := k }) ∧
      (c.kvalid.toNat.testBit (boolNat (qcSlot o)) = false → Say.ends (.qpctlKeyflip (.run tk)) s tk 7 0 fun t => t.qpe = s.qpe)) ∧
    (Say.qpRuns tk o s 6 n c → c.state.toNat ∈ [1, 2, 3] →
      (qpPosted c + qcCount o ≤ 2 ^ c.rdepth.toNat → Say.ends (.qpctlRecv (.run tk)) s tk 0 1 fun t =>
        (qpGet t n).rtail = c.rtail + BitVec.ofNat 16 (qcCount o)) ∧
      (2 ^ c.rdepth.toNat < qpPosted c + qcCount o → Say.ends (.qpctlRecv (.run tk)) s tk 7 0 fun t => t.qpe = s.qpe)) ∧
    (Say.qpRuns tk o s 7 n c → c.state.toNat ≤ 3 → (∀ p ∈ s.qpe.parked, waitsPage (bodyF o 274 8) (bodyF o 254 20) p.2.1 = false) →
      Say.ends (.qpctlResume (.run tk)) s tk 0 1 fun t => t.qpe.parked = s.qpe.parked ∧ t.qpe.ctxs = s.qpe.ctxs ∧
        t.qpe.sendWait = s.qpe.sendWait.filter fun x => (x.2.2.1, x.2.2.2.1) ≠ (bodyF o 274 8, bodyF o 254 20)))

/-- The cave: CREAD brings a run back as a verified DRAM page, its bytes, its sketch and its entry, with the run's map entries freed, or ends with CHECKSUM, and with PROTECT where its launch refused it or
its page was freed; CWRITE evicts a page, passes over a live group, and waits for slots; CDISC drops mappings; CGC collects; CSYNC
writes the journal, whole or not at all; CCAL sets a channel's taps. IDFRD reads the identity flash, IDFWR hands a record over (R49,
R314, R315, R318, R321, R323, R379). The model's choices: the body of CCAL (log entry 38), that CDISC takes one step (log entry 41),
the steps of IDFRD (log entry 73), the slots that CWRITE waits for (log entries 89 and 152), a journal without room (log entry 153). -/
def Obligations.CaveAndIdentity : Prop :=
  (∀ (tk : Ticket) (o : Op) (s u v : State) (gt geom l : Nat) (r : Region) (page : List Byte) (ok : Bool), Runs 9 0 tk o s →
    (o.settled = true → Say.ends (.cread (.run tk)) s tk 7 0 fun t => t.mem.cells = s.mem.cells ∧ t.fls = s.fls ∧ t.wlk = s.wlk) ∧
    (o.settled = false → recordPage s o = some (gt, geom) → l = bodyF o 96 8 → creadRegion s o geom = some r →
      (peKind (getPte s gt l) ≠ 3 → Say.ends (.cread (.run tk)) s tk 7 (r.len + 1) fun t => t.mem.cells = s.mem.cells ∧ t.fls = s.fls) ∧
      (peKind (getPte s gt l) = 3 → granulesFrom s (peCaddr (getPte s gt l)) (geGran geom) = (page, u) →
        bringPage u gt l r page (granulesWhole s (peCaddr (getPte s gt l)) (geGran geom)) = (ok, v) →
        ∀ (pa : Nat) (pt mp st : Nat × Nat) (seg : Nat → Nat → Nat × Nat), pa = pageAddr r.stack r.gran → pt = (pteAddr gt l, 16) →
        mp = (mapAddr s (peCaddr (getPte s gt l)), 8 * geGran geom) → st = (s.fls.stage.toNat * 2 ^ 22, if s.fls.stage = 0 then 0 else 2 ^ 22) →
        (∀ i j, seg i j = (rowAddr r.stack (r.sub + i) j + 32 * r.slot, 32)) →
        Say.ends (.cread (.run tk)) s tk (if ok then 0 else 10) (geGran geom + 1) fun t =>
          (ok = false → t.mem.cells = v.mem.cells ∧ t.fls = v.fls ∧
            Say.only s t ((pa, page.length) :: (List.range (geHeads geom)).flatMap fun i => (List.range (geDim geom)).map fun j => seg i j)) ∧
          (ok = true → t.wlk = v.wlk ∧ t.fls = (freeRun v (peCaddr (getPte s gt l)) (geGran geom)).fls ∧
            Say.only s t ([(pa, page.length), pt, mp, st] ++
              (List.range (geHeads geom)).flatMap fun i => (List.range (geDim geom)).map fun j => seg i j) ∧
            (Say.keepsAll s pt → Say.apart pt mp → Say.apart pt st → memNum t pt.1 16 =
              mkPte 2 true geom (whereDram r.slot r.sub r.stack r.gran) (peGroup (getPte s gt l)) 0 % 2 ^ 128) ∧
            (Say.keepsAll s (pa, page.length) → Say.apart (pa, page.length) pt → Say.apart (pa, page.length) mp →
              Say.apart (pa, page.length) st → (∀ i j, i < geHeads geom → j < geDim geom → Say.apart (pa, page.length) (seg i j)) →
              memRead t pa page.length = page) ∧
            ∀ i j, i < geHeads geom → j < geDim geom → Say.keepsAll s (seg i j) → Say.apart (seg i j) pt → Say.apart (seg i j) mp →
              Say.apart (seg i j) st →
              (∀ i' j', i' < geHeads geom → j' < geDim geom → (i', j') ≠ (i, j) → Say.apart (seg i' j') (seg i j)) →
              memRead t (seg i j).1 32 = sketchSegment geom page i j)))) ∧
  (∀ (tk : Ticket) (o : Op) (s : State) (gt geom l g m : Nat), Runs 9 1 tk o s → cwriteOk s o = true →
    recordPage s o = some (gt, geom) → bodyF o 88 8 = 0 → l = bodyF o 96 8 → g = geGran geom → m = min (s.fls.wmax.toNat * 64) g →
    (cwTakes s gt l = false → Say.ends (.cwrite (.run tk)) s tk 0 1 fun t => Say.only s t [(bodyF o 24 64, 1)] ∧
      (Say.keeps s (bodyF o 24 64) → memNum t (bodyF o 24 64) 1 = 2)) ∧
    (cwTakes s gt l = true → poisoned s (pageAddr (peStack (getPte s gt l)) (peGran (getPte s gt l))) (g * 16384) = false →
      (∀ u, rcLive (getRec s o.part (bodyF o 104 24)) ≠ 0 → evictPage s o.part gt l = some u →
        Say.ends (.cwrite (.run tk)) s tk 0 (g + 1) fun t => t.fls = s.fls ∧ Say.only s t [(bodyF o 24 64, 1)] ∧ (Say.keeps s (bodyF o 24 64) → memNum t (bodyF o 24 64) 1 = 1)) ∧
      (∀ u, rcLive (getRec s o.part (bodyF o 104 24)) = 0 → evictPage s o.part gt l = some u → (freeSlotsOf s m).length < m →
        ∃ t, exec (.cwrite (.run tk)) s = .next t ∧ t.ops = s.ops ∧ t.fls = s.fls ∧ t.mem.cells = s.mem.cells) ∧
      (∀ u, rcLive (getRec s o.part (bodyF o 104 24)) = 0 → m ≤ (freeSlotsOf s m).length → evictPage s o.part gt l = some u →
        Say.ends (.cwrite (.run tk)) s tk 0 (g + 1) fun t => t.fls = u.fls ∧ Say.only u t [(bodyF o 24 64, 1)] ∧
          (Say.keeps s (bodyF o 24 64) → memNum t (bodyF o 24 64) 1 = 0)) ∧
      (evictPage s o.part gt l = none →
        Say.ends (.cwrite (.run tk)) s tk 0 1 fun t => t.fls = s.fls ∧
          (Say.keeps s (bodyF o 24 64) → memNum t (bodyF o 24 64) 1 = 3)))) ∧
  (∀ (tk : Ticket) (o : Op) (s : State), Runs 9 2 tk o s → cdiscOk s o = true →
    Say.ends (.cdisc (.run tk)) s tk 0 (ceilDiv (bodyF o 40 40) 4096) fun t => bodyF o 40 40 = 1 → s.fls.journal.length < 2 ^ 18 →
      (entValid (mapEntry s (bodyF o 80 48)) = false → t.fls = s.fls ∧ t.mem.cells = s.mem.cells) ∧
      (entValid (mapEntry s (bodyF o 80 48)) = true → (∃ j, t.fls.journal = s.fls.journal ++ [j] ∧ j.lgran.toNat = bodyF o 80 48 ∧ j.entry = 0) ∧
        (entBuf (mapEntry s (bodyF o 80 48)) = true → ∀ w ∈ t.fls.wbuf, w.lgran ≠ bodyF o 80 48) ∧
        (s.fls.stage = 0 → Say.keeps s (mapAddr s (bodyF o 80 48)) → mapEntry t (bodyF o 80 48) = 0))) ∧
  (∀ (tk : Ticket) (o : Op) (s : State), Runs 9 3 tk o s → cgcOk s o = true →
    ∃ n, Say.ends (.cgc (.run tk)) s tk 0 n fun t => (bodyF o 112 16 = 0 → n = 0 ∧ t.fls = s.fls) ∧
      ∀ k u, bodyF o 112 16 = 1 → bodyF o 96 8 < 0x80 → targetIn s (bodyF o 96 8) = true →
        (pickBlock s (bodyF o 96 8)).bind (collectBlock s) = some (k, u) → n = k + 1 ∧ t.fls = u.fls) ∧
  (∀ (tk : Ticket) (o : Op) (s : State), Runs 9 4 tk o s →
    (csyncOk s o = true →
      Say.ends (.csync (.run tk)) s tk 0 (ceilDiv s.fls.journal.length 1024) fun t => t.fls.journal = [] ∧ t.mem.cells = s.mem.cells) ∧
    (csyncOk s o = false → Say.ends (.csync (.run tk)) s tk 7 0 fun t => t.fls = s.fls ∧ t.mem.cells = s.mem.cells)) ∧
  (∀ (tk : Ticket) (o : Op) (s : State) (c : Nat), Runs 9 5 tk o s → c = Config.ccalChannel o.body % 16 →
    (unitIn s (uid 14 c) = false → Say.ends (.ccal (.run tk)) s tk 7 0 fun t => t.fls = s.fls) ∧
    (unitIn s (uid 14 c) = true → Say.ends (.ccal (.run tk)) s tk 0 1 fun t => (∀ j, j ≠ c → chGet t j = chGet s j) ∧
      (Config.ccalTaps o.body < 128 → (chGet t c).taps.toNat = Config.ccalTaps o.body ∧ (chGet t c).failed = (chGet s c).failed) ∧
      (128 ≤ Config.ccalTaps o.body → (chGet t c).failed = true))) ∧
  (∀ (tk : Ticket) (o : Op) (s : State), Runs 0xB 6 tk o s → idfrdOk s o = true →
    Say.ends (.idfrd (.run tk)) s tk 0 (1 + 5 * ceilDiv (idLen o) 256) fun t => Say.only s t [(idAddr o, idLen o)] ∧
      (Say.keeps s (idAddr o) → memRead t (idAddr o) (idLen o) = idBytes s (idOff o) (idLen o)) ∧ t.sec = s.sec) ∧
  ∀ (tk : Ticket) (o : Op) (s : State), Runs 0xB 7 tk o s → idfwrOk s o = true → o.await = 0 →
    (poisoned s (idAddr o) (idLen o) = true → Say.ends (.idfwr (.run tk)) s tk 3 0 fun t => t.sec = s.sec) ∧
    (poisoned s (idAddr o) (idLen o) = false →
      (parseRec (idSeal o) (memRead s (idAddr o) (idLen o)) = none → Say.ends (.idfwr (.run tk)) s tk 7 0 fun t => t.sec = s.sec) ∧
      ∀ r, parseRec (idSeal o) (memRead s (idAddr o) (idLen o)) = some r →
        (mayAppend s (sealRec s r) = true → (idSeal o = true ∨ r.auth ≠ 2) →
          Say.awaits (.idfwr (.run tk)) s tk (fun _ y => y.phase = .launched) 1 fun t => t.sec.toAppend = s.sec.toAppend ++ [(r, some tk)]) ∧
        ((mayAppend s (sealRec s r) = false ∨ (idSeal o = false ∧ r.auth = 2)) →
          Say.ends (.idfwr (.run tk)) s tk 7 0 fun t => t.sec = s.sec))

/-! ## Launch, steps and ends of operations (R40, R54, R67 to R74, R77 to R79, R194, R195, R262, R331 to R335, R378) -/

/-- ABORT of a ticket: a queued operation, or one before its commit step, ends ABORTED; one that is committed, has written, has ended
or is not there gives TOO_LATE; one that the context may not abort gives PROTECT (R77 to R79). MANIFEST_LAUNCH takes the head of a
queue whose condition held: refused it ends with PROTECT, routed by an old edition with MOVED, else it launches, an FINV with the holders that it
names; a tile job behind an exchange of its slots waits to be checked. OPERATION_COMPLETE writes the record over its slot and adds 1 to its tally (R67 to
R74). The model's choices: which step commits (log entry 55), what is checked at launch (log entries 64 and 90), where MOVED ends an
operation (log entry 65), that a job waits for an earlier exchange (log entry 127), what waits for the service to start (log
entry 142). -/
def Obligations.LaunchAbortRecord : Prop :=
  (∀ (c : CtxId) (w : Ins64) (s : State) (x : Ctx) (v : Word), x = ctxGet s c → v = getS x w.sa.toNat → Issues64 0 true c w s →
    ((2 ^ 32 ≤ v.toNat ∨ opGet s (v.setWidth 32) = none) → exec (.abort c w) s = .next (Say.gave c s (startIssue s c) w.sd 2 8)) ∧
    (∀ o, v.toNat < 2 ^ 32 → opGet s (v.setWidth 32) = some o →
      (mayAbort x c o = false → exec (.abort c w) s = .next (Say.gave c s (startIssue s c) w.sd 7 8)) ∧
      (mayAbort x c o = true → (o.phase = .committed ∨ o.phase = .ended) →
        exec (.abort c w) s = .next (Say.gave c s (startIssue s c) w.sd 2 8)) ∧
      (mayAbort x c o = true → o.phase = .launched → hasWritten o = true →
        exec (.abort c w) s = .next (Say.gave c s (startIssue s c) w.sd 2 8)) ∧
      (mayAbort x c o = true → (o.phase = .queued ∨ (o.phase = .launched ∧ hasWritten o = false ∧ o.held = none ∧ ¬(o.cls = 8 ∧ o.op = 5))) →
        ∃ t, exec (.abort c w) s = .next t ∧ Say.done t o.ticket 1 (if o.phase = .queued then 0 else o.ran) ∧
          ctxGet t c = { setS (runCtx x) w.sd.toNat 1 with pc := x.pc + 8 } ∧ Say.others s t c ∧ t.mem.cells = s.mem.cells)) ∧
    (mayAbort x c = fun o => if privOf x = 2 then true else if privOf x = 1 then decide (o.part = partOf x)
      else decide (o.ticket.toNat / 2 ^ 25 = c.val))) ∧
  ((∀ (q : QIdx) (s : State) (o : Op) (cause : BitVec 2), headOf s q = some o → opGet s o.ticket = some o → s.phase = .running →
    (o.trig = none → exec (.manifestLaunch q) s = .next s) ∧
    (o.trig = some cause → launchHeld s o = true → exec (.manifestLaunch q) s = .next s) ∧
    (o.trig = some cause → launchHeld s o = false → tileBusy s o = true → exec (.manifestLaunch q) s = .next (settle s 2)) ∧
    (o.trig = some cause → launchHeld s o = false → tileBusy s o = false →
      (launchRefused s o = true → ∃ t, exec (.manifestLaunch q) s = .next t ∧ Say.done t o.ticket 7 0 ∧ t.ctxs = s.ctxs ∧ t.mem = s.mem) ∧
      (launchRefused s o = false → launchMoved s o = true → ∃ t, exec (.manifestLaunch q) s = .next t ∧ Say.done t o.ticket 5 0 ∧
        t.ctxs = s.ctxs ∧ t.mem = s.mem) ∧
      (launchRefused s o = false → launchMoved s o = false → launchWaits s o = true →
        exec (.manifestLaunch q) s = .next (settle s 2)) ∧
      (launchRefused s o = false → launchMoved s o = false → launchWaits s o = false →
        ∃ t o', exec (.manifestLaunch q) s = .next t ∧ opGet t o.ticket = some o' ∧ o'.phase = .launched ∧ o'.cause = cause ∧
          (∀ x ∈ s.ops, x.launchNo < o'.launchNo) ∧ t.ctxs = s.ctxs ∧
          (o.cls = 8 → o.op = 4 → o'.nodes = if fiListed s o then some ((fiHolders s o).filterMap id) else none) ∧
          ((o.cls = 8 → o.op = 5 → s.ldg.spilled = []) → t.mem = s.mem)))) ∧
  ∀ (tk : Ticket) (o : Op) (s : State), opGet s tk = some o → s.phase = .running →
    (o.phase ≠ .ended → exec (.operationComplete tk) s = .next s) ∧
    (o.phase = .ended → Unshared s → s.mem.selfRefresh = 0 → (∀ x ∈ s.ops.erase o, inBankOn x = false) →
      (o.cls = 5 → s.mem.waiting = [] ∧ s.mem.works = [] ∧ ∀ x ∈ s.ctxs, stateOf x.2 ≠ 3) →
      ∃ t, exec (.operationComplete tk) s = .next t ∧ t.ctxs = s.ctxs ∧ (∃ x ∈ t.ops, x.ticket = tk ∧ x.phase = .recorded) ∧
        Say.only s t [(ringAddr s o.queue o.slot.toNat, 16)] ∧
        (Say.keeps s (ringAddr s o.queue o.slot.toNat) → memNum t (ringAddr s o.queue o.slot.toNat) 16 =
          tk.toNat * 2 ^ 96 + s.clk.bell.toNat % 2 ^ 48 * 2 ^ 48 + o.steps % 2 ^ 16 * 2 ^ 32 + 2 ^ 31 + o.cause.toNat * 2 ^ 18 +
            boolNat o.replayed * 2 ^ 17 + o.status.toNat) ∧
        ∀ i, o.ctally = some i → movesData o = false →
          (tally t i).toNat = if o.status = 1 ∨ o.status = 11 then (tally s i).toNat else min ((tally s i).toNat + 1) (2 ^ 64 - 1)))

/-- The end of a step: one that passes its checks counts, runs the operation where it is its commit step, and writes what is due by
then, the last one ending the operation; one that fails in an engine without a floor-plan unit is replayed likewise (log entry
166); one that fails them the first time at a unit other than a stack channel
or a lane group is replayed where the register says so, and else its unit is declared failed; the last step end
of an in-bank operation commits its rows, and each serves the refresh due; a unit not decided upon in time is
retired; a record is appended to the identity flash, given up, or cut short by a loss of power (R40, R82, R194, R195, R331 to R335,
R378). The model's choices: the commit step of each operation (log entry 55), the work of agents at a bank boundary (log entry 61),
a core's failed check outside an operation (log entries 62 and 144), which groups of an operation's writes a step ends (log entry 143),
the core whose contexts halt (log entry 72), what an append makes (log entry 73). -/
def Obligations.StepEnds : Prop :=
  (∀ (tk : Ticket) (o : Op) (s : State), opGet s tk = some o → opLive s o = true →
    (o.cls ≠ 5 → o.due = none → badTiles s o = [] → (o.ran + 1 < commitStepOf s o ∨ (o.cls = 3 ∧ o.op = 3) ∨ (o.cls = 8 ∧ o.op = 5)) →
      exec (.engineStepEnd tk .pass) s = .next (stepOver (opUpd s tk fun x => { x with ran := x.ran + 1, held := none }) tk)) ∧
    (∀ d u, o.cls ≠ 5 → o.due = some d → badTiles s o = [] → Quiet s → d.counts = false → u = opUpd s tk (fun x => { x with ran := x.ran + 1, held := none }) →
      ∃ t, exec (.engineStepEnd tk .pass) s = .next t ∧ t.ctxs = s.ctxs ∧
        t.mem.cells = (((d.groups.take (d.total * (o.ran + 1) / d.steps - (d.total - d.groups.length))).flatMap id).foldl writePiece u).mem.cells ∧
        (d.groups.length ≤ d.total * (o.ran + 1) / d.steps - (d.total - d.groups.length) → Say.done t tk d.status d.steps) ∧
        (d.total * (o.ran + 1) / d.steps - (d.total - d.groups.length) < d.groups.length → ∃ o' d', opGet t tk = some o' ∧
          o'.phase = .launched ∧ o'.due = some d' ∧ d'.groups = d.groups.drop (d.total * (o.ran + 1) / d.steps - (d.total - d.groups.length)))) ∧
    (∀ p : (Posted → Instr) × Nat × Nat × Nat, p ∈ [(.lend, 3, 4, 1), (.pindex, 4, 5, 1), (.tgather, 7, 1, 1), (.cdisc, 9, 2, 1), (.ccal, 9, 5, 1)] →
      o.cls = p.2.1 → o.op = p.2.2.1 → o.ran = 0 → o.due = none → Quiet s → ∀ u, u = opUpd s tk (fun x => { x with ran := 1, held := none }) →
      s.clk.refPresent = true → s.clk.slow = [] → s.pwr.limiter = 0 → s.pwr.partHeld = [] → s.pwr.tripped = [] → tileTurn s o = true →
      ∃ t v, exec (p.1 (.run tk)) u = .next v ∧ exec (.engineStepEnd tk .pass) s = .next t ∧ t.ops = v.ops ∧ t.mem.cells = v.mem.cells ∧
        t.ctxs = v.ctxs ∧ t.ldg = v.ldg ∧ t.isf = v.isf ∧ t.fls = v.fls ∧ t.units = v.units) ∧
    (o.cls = 5 → o.due = none → s.clk.refPresent = true → (∀ x ∈ s.ctxs, stateOf x.2 ≠ 3) → s.mem.waiting = [] → s.mem.works = [] →
      (o.ran + 1 < ibSteps o → exec (.inBankStepEnd tk .pass) s =
        .next { stepOver (opUpd s tk fun x => { x with ran := x.ran + 1, held := none }) tk with
          mem := { s.mem with window := none, refreshDue := setF s.mem.refreshDue (ibStack o) 1 0 } }) ∧
      ∀ p : (Posted → Instr) × Nat, p ∈ [(.rcopy, 0), (.rzero, 1), (.rnot, 2), (.rand, 3), (.ror, 4), (.rxor, 5), (.rmaj, 6),
          (.rscore, 7), (.rselect, 8)] → o.op = p.2 → o.ran + 1 = ibSteps o → Unshared s → s.clk.slow = [] → s.pwr.limiter = 0 →
        s.pwr.partHeld = [] → s.pwr.tripped = [] → ∀ u, u = opUpd s tk (fun x => { x with ran := x.ran + 1, held := none }) →
        ∃ t v, exec (p.1 (.run tk)) u = .next v ∧ exec (.inBankStepEnd tk .pass) s = .next t ∧ t.ops = v.ops ∧
          t.mem.cells = v.mem.cells ∧ t.mem.poison = v.mem.poison ∧ t.ctxs = v.ctxs) ∧
    (o.cls ≠ 5 → unlisted o = true → o.held = none → s.ras.retry = true → exec (.engineStepEnd tk (.fail [])) s =
      .next (stepOver (opUpd (raise s 0x24 o.part.val 0 tk.toNat (o.ran + 1)) tk
        fun x => { x with held := some { units := [], fails := 1, declared := false }, replayed := true }) tk)) ∧
    (∀ u, o.cls ≠ 5 → validUnit u = true → unitIn s u = true → unitKind u ≠ 10 → unitKind u ≠ 11 →
      (o.held = none → s.ras.retry = true → exec (.engineStepEnd tk (.fail [u])) s =
        .next (stepOver (opUpd (raise s 0x24 (recPart s u) u tk.toNat (o.ran + 1)) tk
          fun x => { x with held := some { units := [u], fails := 1, declared := false }, replayed := true }) tk)) ∧
      (s.ras.retry = false → s.ras.auto = false → (∀ x ∈ s.ras.failed, x.1 ≠ u) →
        ∃ t o', exec (.engineStepEnd tk (.fail [u])) s = .next t ∧ opGet t tk = some o' ∧
          (o'.held.any fun h => h.declared && h.units == [u]) = true ∧
          (∃ x ∈ t.ras.failed, x.1 = u) ∧ ((unitKind u = 3 → (lowestSpare s u).isSome = true) → t.ctxs = s.ctxs) ∧
          (unitKind u = 3 → (fptGet s u).state = 0 → lowestSpare s u = none →
            ∀ c, c / 8 = (fptGet s u).slot.toNat → stateOf (ctxGet t c) = 4) ∧
          ∃ r, t.ras.history.head? = some r ∧ r.kind = 0x25 ∧ r.unit = u ∧ r.a = tk))) ∧
  (∀ (tk : Ticket) (s : State), opGet s tk = none → s.phase = .running →
    exec (.engineStepEnd tk .pass) s =
      .next { s with ras := { s.ras with coreHeld := s.ras.coreHeld.filter fun u => coreOf s (tk.toNat / 2 ^ 28) ≠ some u } } ∧
    ∀ u, unitKind u = 3 → unitIn s u = true → coreSteps s u = true → s.ras.retry = true → u ∉ s.ras.coreHeld →
      ∃ t, exec (.engineStepEnd tk (.fail [u])) s = .next t ∧ t.ras.coreHeld = s.ras.coreHeld ++ [u] ∧ t.ctxs = s.ctxs ∧
        ∃ r, t.ras.history.head? = some r ∧ r.kind = 0x24 ∧ r.unit = u) ∧
  (∀ (st : StackId) (s : State), s.phase = .running → stackIn s st = true →
    (stackReady s st = true → ibRunning s st ≠ [] →
      exec (.refreshDue st) s = .next { s with mem := { s.mem with refreshDue := setF s.mem.refreshDue st.val 1 1 } }) ∧
    (∀ c : Int, 95 < c → exec (.stackHotChange st c) s = .next { s with mem := { s.mem with hot := setF s.mem.hot st.val 1 1 } }) ∧
    (∀ c : Int, c < 92 → exec (.stackHotChange st c) s = .next { s with mem := { s.mem with hot := setF s.mem.hot st.val 1 0 } }) ∧
    (∀ c : Int, 92 ≤ c → c ≤ 95 → exec (.stackHotChange st c) s = .next s)) ∧
  (∀ (u : UnitId) (s : State) (due : Word), s.phase = .running → (u, due) ∈ s.ras.failed → due.toNat ≤ s.clk.bell.toNat →
    (fptGet s u).state ≠ 2 →
    ∃ t, exec (.spareDecisionTimeout u) s = .next t ∧ (fptGet t u).state = 2 ∧ t.plan.change = s.plan.change + 2 ∧
      ∀ x ∈ t.ras.failed, x.1 ≠ u) ∧
  ∀ (x : FlashResult) (s : State) (r : IdRec) (tk : Option Ticket) (rest : List (IdRec × Option Ticket)), s.phase = .running → s.clk.refPresent = true →
    s.sec.toAppend = (r, tk) :: rest →
    ∃ t, exec (.recordAppend x) s = .next t ∧ t.sec.toAppend = rest ∧ t.ctxs = s.ctxs ∧
      (x = .powerLost → t.phase = .stopped ∧ t.ops = s.ops ∧ t.sec.activeB = s.sec.activeB ∧
        ∀ l, l = (if s.sec.activeB then s.sec.halfB else s.sec.halfA) → areaSize l + recSize (sealRec s r) ≤ 131072 →
          (if s.sec.activeB then t.sec.halfB else t.sec.halfA) = l ++ [{ sealRec s r with tag := List.replicate 96 0xFF }]) ∧
      (x ≠ .powerLost → (x ≠ .done ∨ mayAppend s (sealRec s r) = false ∨ (appendRec s (sealRec s r)).isSome = false) →
        t.sec.halfA = s.sec.halfA ∧ t.sec.halfB = s.sec.halfB ∧ ∀ y o, tk = some y → opGet s y = some o → Say.done t y 7 0) ∧
      ∀ u, x = .done → mayAppend s (sealRec s r) = true → appendRec s (sealRec s r) = some u →
        t.sec.halfA = u.sec.halfA ∧ t.sec.halfB = u.sec.halfB ∧ t.sec.activeB = u.sec.activeB ∧
        ∀ y o, tk = some y → opGet s y = some o → ∃ n, 1 ≤ n ∧ Say.done t y 0 n

/-! ## Clock, pace and the registers (R39 to R48, R73, R190, R251, R261, R282, R283, R285, R299, R300, R371, R383 to R396) -/

/-- The newest fault record of t is one of this kind, unit and values, numbered on from those of s, and the older ones stand
behind it. -/
def Sys2Proof.Say.noted (s t : State) (kind : Byte) (unit : UnitId) (a b : Nat) : Prop :=
  ∃ r, t.ras.history = r :: s.ras.history.take 1023 ∧ r.kind = kind ∧ r.unit = unit ∧ r.a = BitVec.ofNat 32 a ∧
    r.b = BitVec.ofNat 64 b ∧ r.seq = s.ras.seq ∧ t.ras.seq = s.ras.seq + 1

/-- The bell counts at each edge of a running, locked clock, refills the buckets and tests launch conditions; a loss of the
reference holds it, ends a measurement, takes the ports and the host link down, lets the steps under way end and puts the other
stacks into self-refresh, and the return records the gap and serves what waited (R41 to R48, R282). What agents write of the clock, and how a measurement
runs and ends; a pace below 768 holds its region's launches, recorded once, until 100 µs at 768 or above (R39, R42, R48, R386). The
model's choices: what a held region still ends (log entry 53), the count after a measurement that timed out (log entry 84), when the
bell counts (log entry 85), that there are no readings without a reference (log entry 111). -/
def Obligations.Clock : Prop :=
  (∀ (s : State),
    ((s.phase = .inReset ∨ s.clk.run = false ∨ s.clk.refPresent = false ∨ s.clk.locked = false) → exec .bellEdge s = .next s) ∧
    (s.phase ≠ .inReset → s.clk.run = true → s.clk.refPresent = true → s.clk.locked = true →
      ∃ t, exec .bellEdge s = .next t ∧ t.clk = { s.clk with bell := s.clk.bell + 1 } ∧ t.ctxs = s.ctxs ∧ t.mem = s.mem ∧
        t.tallies = s.tallies ∧ t.ops.map (fun o => o.ticket) = s.ops.map (fun o => o.ticket) ∧
        t.qpe.shapeOvhOn = s.qpe.shapeOvh ∧ t.qpe.polOvhOn = s.qpe.polOvh ∧
        ∀ i, i < 64 →
          tget 0 t.qpe.shapeB i = min (tget 0 s.qpe.shapeB i + (tget 0 s.qpe.shapeRate i).toNat)
            (256 * (tget 0x2000 s.qpe.shapeBurst i).toNat) ∧
          tget 0 t.qpe.polB i = min (tget 0 s.qpe.polB i + (tget 0 s.qpe.polRate i).toNat)
            (256 * (tget 0x2000 s.qpe.polBurst i).toNat)) ∧
    (s.phase ≠ .inReset → s.clk.refPresent = true →
      ∃ t, exec .refclkLoss s = .next t ∧ t.clk.lost = true ∧ t.clk.locked = false ∧ t.clk.refPresent = false ∧
        t.clk.bell = s.clk.bell ∧ t.clk.fmcRun = false ∧
        (s.clk.fmcRun = true → t.clk.fmcDone = true ∧ t.clk.fmcStatus = 4 ∧ t.clk.fmcCount = s.clk.fmcCount) ∧
        t.cxd.up = false ∧ (∀ i, (tget {} t.isf.ports i).up = false) ∧
        (∀ k, k ∈ t.clk.underWay ↔ ∃ o ∈ s.ops, o.ticket = k ∧ opStepping s o = true) ∧
        ∀ st, st < 32 → stackReady s st = true → stackIn s st = true →
          (∀ o ∈ s.ops, o.cls = 5 → ibStack o = st → ∀ y ∈ s.ops, y.ticket = o.ticket → opStepping s y = false) →
          t.mem.selfRefresh.toNat.testBit st = true) ∧
    (∀ g, s.phase ≠ .inReset → s.clk.away = true →
      ∃ u, exec (.refclkReturn g) s = .next (grantLoads (serveAll u)) ∧ u.ctxs = s.ctxs ∧ u.mem = { s.mem with selfRefresh := 0 } ∧ u.ops = s.ops ∧
        u.clk = { s.clk with locked := true, refPresent := true, away := false, underWay := [], gapUs := BitVec.ofNat 16 (min g 0xFFFF) } ∧
        Say.noted s u 0x02 2 (min g 0xFFFF) 0)) ∧
  (∀ (s : State), (s.phase = .running ∨ s.phase = .waitImage) →
    (∀ a (v : W32), stewardAgent s a = true → exec (.bellStart a v) s = .next (if s.clk.run then s else
      { s with clk := { s.clk with div := if 2 ≤ (v.setWidth 16 : Half).toNat then v.setWidth 16 else s.clk.div, run := v.toNat.testBit 31 } })) ∧
    (∀ a high, readAgent s a = true → exec (.bellCountHalfRead a high) s =
      .next { s with clk := { s.clk with latch := if high then s.clk.latch else BitVec.ofNat 32 (s.clk.bell.toNat / 2 ^ 32) },
                     cxd := { s.cxd with busRead := if high then s.clk.latch.setWidth 64 else BitVec.ofNat 64 (s.clk.bell.toNat % 2 ^ 32) } }) ∧
    (∀ a v, stewardAgent s a = true → s.clk.fmcRun = true → exec (.fmcStart a v) s = .next s) ∧
    (∀ a (v : W32), stewardAgent s a = true → s.clk.fmcRun = false →
      ∃ t, exec (.fmcStart a v) s = .next t ∧ t = { s with clk := t.clk } ∧ t.clk.fmcRun = v.toNat.testBit 31 ∧
        (v.toNat.testBit 31 = true → t.clk.fmcDone = false) ∧ t.clk.bell = s.clk.bell ∧ t.clk.fmcCount = s.clk.fmcCount ∧
        (bf v.toNat 20 4 < 12 → t.clk.fmcMeas.toNat = bf v.toNat 20 4) ∧ (12 ≤ bf v.toNat 20 4 → t.clk.fmcMeas = s.clk.fmcMeas) ∧
        (bf v.toNat 16 4 < 12 → t.clk.fmcBase.toNat = bf v.toNat 16 4) ∧ (12 ≤ bf v.toNat 16 4 → t.clk.fmcBase = s.clk.fmcBase) ∧
        (4 ≤ bf v.toNat 0 5 → bf v.toNat 0 5 ≤ 24 → t.clk.fmcK.toNat = bf v.toNat 0 5)) ∧
    (∀ n, s.clk.fmcRun = true →
      (s.clk.refPresent = true → exec (.fmcDone n) s = .next { s with clk := { s.clk with
        fmcRun := false, fmcDone := true, fmcStatus := 0, fmcCount := if n < 2 ^ 32 then BitVec.ofNat 32 n else 0xFFFF_FFFF } }) ∧
      exec .fmcTimeout s = .next { s with clk := { s.clk with fmcRun := false, fmcDone := true, fmcStatus := 4 } }) ∧
    (∀ (i : Fin 83) r u, s.phase = .running → s.clk.refPresent = true → u = (regionUnit i.val).getD 0 → regionIn s i.val = true →
      (768 ≤ r.toNat → exec (.paceReading i r) s = .next { s with clk := { s.clk with pace := Machine.tset 0 s.clk.pace i.val r } }) ∧
      (r.toNat < 768 → ∃ t, exec (.paceReading i r) s = .next t ∧ tget 0 t.clk.pace i.val = r ∧ i.val ∈ t.clk.slow ∧
        (∀ j, j ≠ i.val → (tget 0 t.clk.pace j = tget 0 s.clk.pace j ∧ (j ∈ t.clk.slow ↔ j ∈ s.clk.slow))) ∧
        t.ctxs = s.ctxs ∧ t.mem = s.mem ∧ t.ops = s.ops ∧ (i.val ∉ s.clk.slow → Say.noted s t 0x01 u i.val r.toNat))) ∧
    (∀ i : Fin 83, s.phase = .running → 768 ≤ (tget 0 s.clk.pace i.val).toNat →
      ∃ t, exec (.paceResume i) s = .next t ∧ t = { s with clk := { s.clk with slow := t.clk.slow } } ∧
        ∀ j, j ∈ t.clk.slow ↔ j ∈ s.clk.slow ∧ j ≠ i.val))

/-- A register access of an agent raises no exception: it is a host's, or its context does not run, or its load and store checks pass. -/
def Sys2Proof.Say.bus (s : State) (a : Agent) (off n : Nat) : Prop :=
  ∀ c, a = .core c → stateOf (ctxGet s c) = 2 → ∃ r, ctxRoute s c true (BitVec.ofNat 64 (regBase + off)) n = .ok r

/-- Registers that an agent which reaches them writes: tallies, host arms, and the register window by its offset and width; an
access that its agent may not make, of a size that the window has not, or that names a unit out of service has no effect, or is the
exception of its instruction where a context runs. An arm whose tally has had its value since it was armed fires, and is disarmed
(R25, R73, R122, R386, R387, R396). The model's choices: reserved words and what a denied access reads (log entry 66), half writes
(log entry 67), units out of service (log entry 68). The register window lets a context of
operator level write what is its partition's and not the steward's, a steward any, a tenant none, and a host function only
what is its own; each reads as zero where it may not read (R387). -/
def Obligations.RegisterWindow : Prop :=
  (∀ (s : State) (a : Agent) (v : Word), regsUp s = true →
    (∀ i : TallyIdx,
      (Say.bus s a (0x64_8000 + 8 * i.val) 8 → agentWrites s a (0x64_8000 + 8 * i.val) = false → exec (.tlyAdd a i v) s = .next s) ∧
      (Say.bus s a (0x65_0000 + 8 * i.val) 8 → agentWrites s a (0x65_0000 + 8 * i.val) = false → exec (.tlySet a i v) s = .next s) ∧
      (Say.bus s a (0x64_8000 + 8 * i.val) 8 → agentWrites s a (0x64_8000 + 8 * i.val) = true →
        ∃ t, exec (.tlyAdd a i v) s = .next t ∧ t.ctxs = s.ctxs ∧ t.mem = s.mem ∧ t.arms = (tallyAdd s i.val v.toNat).arms ∧
          ∀ j, (tally t j).toNat = if j = i.val then min ((tally s i.val).toNat + v.toNat) (2 ^ 64 - 1) else (tally s j).toNat) ∧
      (Say.bus s a (0x65_0000 + 8 * i.val) 8 → agentWrites s a (0x65_0000 + 8 * i.val) = true →
        ∃ t, exec (.tlySet a i v) s = .next t ∧ t.ctxs = s.ctxs ∧ t.mem = s.mem ∧ t.arms = (tallySet s i.val v).arms ∧
          ∀ j, tally t j = if j = i.val then v else tally s j)) ∧
    (∀ (ld : LdId) (j : Fin 60) (k off : Nat), k = ld.val * 64 + j.val → off = 0x65_8000 + 0x400 * ld.val + 16 * j.val →
      (∀ hi, Say.bus s a (off + 8 * boolNat hi) 8 → agentWrites s a (off + 8 * boolNat hi) = false →
        exec (.tlyArmWrite a ld j hi v) s = .next s) ∧
      (∀ hi, Say.bus s a (off + 8 * boolNat hi) 8 → agentWrites s a (off + 8 * boolNat hi) = true → (tget {} s.arms k).due = true →
        (maskedOf s ld).toNat.testBit (4 + j.val) = false →
        ∃ t l, exec (.tlyArmWrite a ld j hi v) s = .next t ∧ t.cxd.hostOut = s.cxd.hostOut ++ .msix ld (4 + j.val) :: l) ∧
      (Say.bus s a (off + 8) 8 → agentWrites s a (off + 8) = true →
        ∃ t, exec (.tlyArmWrite a ld j true v) s = .next t ∧ (tget {} t.arms k).value = v ∧ (tget {} t.arms k).due = false ∧
          (tget {} t.arms k).tally = (tget {} s.arms k).tally ∧ t.tallies = s.tallies ∧ t.ctxs = s.ctxs) ∧
      (Say.bus s a off 8 → agentWrites s a off = true →
        ∃ t, exec (.tlyArmWrite a ld j false v) s = .next t ∧ (tget {} t.arms k).value = (tget {} s.arms k).value ∧
          (tget {} t.arms k).tally = v.setWidth 12 ∧ t.tallies = s.tallies ∧ t.ctxs = s.ctxs ∧
          (tget {} t.arms k).due = false ∧ (v.toNat.testBit 63 = false → (tget {} t.arms k).armed = false ∧
            (tget {} t.arms k).fired = ((tget {} s.arms k).fired && !v.toNat.testBit 62))) ∧
      (armReady s k = false → exec (.armFire ld j) s = .next s) ∧
      (armReady s k = true → ∃ t, exec (.armFire ld j) s = .next t ∧ t.tallies = s.tallies ∧ t.ctxs = s.ctxs ∧
        (tget {} t.arms k).armed = false ∧ (tget {} t.arms k).fired = true ∧ (tget {} t.arms k).due = false ∧ (∀ n, n ≠ k → tget {} t.arms n = tget {} s.arms n) ∧
        ((maskedOf s ld).toNat.testBit (4 + j.val) = false → t.cxd.hostOut = s.cxd.hostOut ++ [.msix ld (4 + j.val)]) ∧
        ((maskedOf s ld).toNat.testBit (4 + j.val) = true → t.cxd.hostOut = s.cxd.hostOut ∧
          (pendingOf t ld).toNat.testBit (4 + j.val) = true))) ∧
    (∀ (off : BitVec 24) w,
      (Say.bus s a off.toNat (widthBytes w) →
        regSizeOk off.toNat (widthBytes w) = false ∨ regUnitOk s true off.toNat = false ∨ agentWrites s a off.toNat = false →
        exec (.registerWrite a (.bar off) w v) s = .next s) ∧
      (∀ c cause fa, a = .core c → stateOf (ctxGet s c) = 2 →
        ctxRoute s c true (BitVec.ofNat 64 (regBase + off.toNat)) (widthBytes w) = .error (cause, fa) →
        exec (.registerWrite a (.bar off) w v) s = .next (takeException s c cause fa)) ∧
      (Say.bus s a off.toNat 8 → regUnitOk s true off.toNat = true → agentWrites s a off.toNat = true →
        (off.toNat % 8 = 0 → off.toNat / 2 ^ 18 = 31 → off.toNat % 2 ^ 18 = 0x28 → bf v.toNat 16 16 ≠ 0 → v.toNat % 256 ≠ 0 →
          exec (.registerWrite a (.bar off) .w8 v) s =
            .next { s with ras := { s.ras with window := BitVec.ofNat 16 (v.toNat / 2 ^ 16), thresh := v.setWidth 8 } }) ∧
        (off.toNat % 8 = 0 → off.toNat / 2 ^ 18 = 21 → off.toNat % 2 ^ 18 = 0x408 →
          ∃ t, exec (.registerWrite a (.bar off) .w8 v) s = .next t ∧ (tget 0 t.wlk.high 0).toNat = v.toNat / 2 ^ 32 ∧
            tget 0 t.wlk.low 0 = v.setWidth 32 ∧ t.mem = s.mem ∧ t.ctxs = s.ctxs) ∧
        (off.toNat % 8 = 0 → off.toNat / 2 ^ 18 = 30 → off.toNat % 2 ^ 18 = 0x10 →
          exec (.registerWrite a (.bar off) .w8 v) s = .next { s with sec := { s.sec with keysrc := BitVec.ofNat 58 (v.toNat / 64) } })))) ∧
  (∀ (s : State) (c : CtxId) (off : Nat) (x : Ctx), x = ctxGet s c →
    (privOf x = 2 → coreWrites s c off = true ∧ coreReads s c off = true) ∧
    (privOf x = 0 → coreWrites s c off = false) ∧
    (privOf x = 1 → stewardReg off = true → coreWrites s c off = false) ∧
    (privOf x = 1 → regPart s off = some (1 - (partOf x).val) → tallyReg off = none →
      coreWrites s c off = false ∧ coreReads s c off = false) ∧
    (privOf x = 1 → tallyReg off = none → ringReg off = none → regPart s off = none → coreWrites s c off = false ∧ coreReads s c off = true) ∧
    (∀ i, privOf x = 1 → tallyReg off = some i → holdsTally s (partOf x) i = true → stewardReg off = false → coreWrites s c off = true) ∧
    (∀ (n m : LdId), ringReg off = some m.val → 0x40_0000 ≤ off → tallyReg off = none →
      (hostOwn s n off = true ↔ n = m ∨ (0x65_8000 + 0x400 * n.val ≤ off ∧ off < 0x65_8000 + 0x400 * n.val + 0x400))))

/-- Steward registers: a write by another agent changes nothing, and is PROTECT where a context of
tenant level runs; each write by a steward core does what its register says, to
that register alone (R190, R251, R261, R285, R371, R387, R390; what a map image or a block count that breaks its rules does is the
model's choice, log entries 70, 76 and 88). A key slot is loaded or cleared when nothing uses it: the load
of a record that cannot be read, or with a reserved field, fails with PROTECT and leaves the slot; a random word is fresh, and
0 while the source fails its test (R383, R385, R387). -/
def Obligations.StewardAndSecurityRegisters : Prop :=
  (∀ (s : State) (a : Agent) (v : Word),
    (∀ c, Say.tenant s a c → ∀ x : Instr × Nat, (x ∈ [(.mapInstall a v, 0x68_0100), (.lcacheWrite a v, 0x68_0400),
        (.measurementExtend a v, 0x78_0020), (.bellStart a (v.setWidth 32), 0x44_0100), (.fmcStart a (v.setWidth 32), 0x44_0400),
        (.bellCountHalfRead a false, 0x44_0108), (.bellCountHalfRead a true, 0x44_010C), (.keyLoad a (v.setWidth 8), 0x78_0018),
        (.keyClear a (v.setWidth 8), 0x78_0018), (.secRngRead a, 0x78_0008)] ∨
      (∃ n : Fin 64, x = (.shaperWrite a n v, 0x6C_1000 + 8 * n.val) ∨ x = (.policerWrite a n v, 0x6C_1200 + 8 * n.val)) ∨
      ∃ ld : LdId, x = (.ldEnable a ld, 0x70_0200 + 0x20 * ld.val) ∨ x = (.ldDisable a ld, 0x70_0200 + 0x20 * ld.val)) →
      exec x.1 s = .next (takeException s c 3 (some (BitVec.ofNat 64 (0x400_0000_0000 + x.2))))) ∧
    (stewardAgent s a = false → (∀ c, ¬Say.tenant s a c) → ∀ i, (i ∈ [.mapInstall a v, .lcacheWrite a v, .ledgerModeWrite a v,
      .measurementExtend a v, .bellStart a (v.setWidth 32), .fmcStart a (v.setWidth 32), .keyLoad a (v.setWidth 8),
      .keyClear a (v.setWidth 8)] ∨ (∃ n, i = .shaperWrite a n v ∨ i = .policerWrite a n v) ∨
      ∃ ld, i = .ldEnable a ld ∨ i = .ldDisable a ld) → exec i s = .next s) ∧
    (stewardAgent s a = false → (Say.bus s a 0x40_0010 8 → exec (.nodeSet a v) s = .next s) ∧
      ∀ (st : StackId) hi, Say.bus s a (0x58_0000 + 16 * st.val + 8 * boolNat hi) 8 → exec (.rowmapWrite a st hi v) s = .next s) ∧
    (stewardAgent s a = true → s.phase = .running →
      (∃ t, exec (.mapInstall a v) s = .next t ∧ t.isf.mapBase.toNat = v.toNat / 64 ∧ t.ctxs = s.ctxs ∧
        (v.toNat.testBit 5 = false → t.isf.map = s.isf.map ∧ t.isf.result = s.isf.result) ∧
        (v.toNat.testBit 5 = true → (bytesProtected s (v.toNat / 64 * 64) 9296 = false ∨ poisoned s (v.toNat / 64 * 64) 9296 = true ∨
            editionNewer (imageMap s (v.toNat / 64 * 64)).edition s.isf.map.edition = false) →
          t.isf.map = s.isf.map ∧ t.isf.result = 7) ∧
        (v.toNat.testBit 5 = true → bytesProtected s (v.toNat / 64 * 64) 9296 = true → poisoned s (v.toNat / 64 * 64) 9296 = false →
            editionNewer (imageMap s (v.toNat / 64 * 64)).edition s.isf.map.edition = true →
          t.isf.map.edition = (imageMap s (v.toNat / 64 * 64)).edition ∧ t.isf.result = 0)) ∧
      (s.isf.nodeValid = true → exec (.nodeSet a v) s = .next s) ∧
      (s.isf.nodeValid = false → exec (.nodeSet a v) s = .next { s with isf := { s.isf with
        nodeValid := v.toNat.testBit 31, nodeSlot := BitVec.ofNat 5 (v.toNat / 2 ^ 16), node := v.setWidth 14 } }) ∧
      (∀ (st : StackId) hi, Say.bus s a (0x58_0000 + 16 * st.val + 8 * boolNat hi) 8 →
        (s.mem.frozen.toNat.testBit st.val = true ∨ unitIn s (uid 9 st.val) = false) →
        exec (.rowmapWrite a st hi v) s = .next s) ∧
      (∀ (st : StackId) hi (p : Nat), s.mem.frozen.toNat.testBit st.val = false → unitIn s (uid 9 st.val) = true → p < 32 →
        ∃ t, exec (.rowmapWrite a st hi v) s = .next t ∧ t.mem.cells = s.mem.cells ∧
          getF (tget 0 t.mem.rowmap (st.val * 2 + boolNat hi)) (2 * p) 2 =
            if bf v.toNat (2 * p) 2 = 3 then getF (tget 0 s.mem.rowmap (st.val * 2 + boolNat hi)) (2 * p) 2 else bf v.toNat (2 * p) 2) ∧
      (∀ i : Fin 64, ((bf v.toNat 16 24 : Int) < 4128 + (BitVec.ofNat 12 (bf v.toNat 4 12)).toInt → exec (.shaperWrite a i v) s = .next s) ∧
        (4128 + (BitVec.ofNat 12 (bf v.toNat 4 12)).toInt ≤ (bf v.toNat 16 24 : Int) →
          ∃ t, exec (.shaperWrite a i v) s = .next t ∧ (tget 0 t.qpe.shapeRate i.val).toNat = v.toNat / 2 ^ 40 ∧
            (tget 0x2000 t.qpe.shapeBurst i.val).toNat = bf v.toNat 16 24 ∧ tget 0 t.qpe.shapeB i.val = 0 ∧
            t.qpe.polRate = s.qpe.polRate ∧ t.qpe.ctxs = s.qpe.ctxs) ∧
        ∃ t, exec (.policerWrite a i v) s = .next t ∧ (tget 0 t.qpe.polRate i.val).toNat = v.toNat / 2 ^ 40 ∧
          (tget 0x2000 t.qpe.polBurst i.val).toNat = bf v.toNat 16 24 ∧ (tget 0 t.qpe.polOvh i.val).toNat = bf v.toNat 4 12 ∧
          tget 0 t.qpe.polB i.val = 0 ∧ t.qpe.shapeRate = s.qpe.shapeRate) ∧
      (∀ x, x = v.toNat / 64 * 64 → (v.toNat % 4 = 3 ∨ reachable s x 48 = false ∨ placeOf s x 48 = .localStore ∨ poisoned s x 48 = true) →
        exec (.measurementExtend a v) s = .next s) ∧
      (∀ x k d, x = v.toNat / 64 * 64 → k = 6 + v.toNat % 4 → k ≠ 9 → reachable s x 48 = true → placeOf s x 48 ≠ .localStore →
        poisoned s x 48 = false → d = digestOf (beBytes 48 (tget 0 s.sec.meas k).toNat ++ memRead s x 48) →
        exec (.measurementExtend a v) s = .next { s with sec := { s.sec with meas := Machine.tset 0 s.sec.meas k d } }) ∧
      (4096 < v.toNat % 2 ^ 13 → exec (.lcacheWrite a v) s = .next s) ∧
      (v.toNat % 2 ^ 13 ≤ 4096 →
        exec (.lcacheWrite a v) s = .next { s with isf := { s.isf with lblocks := v.setWidth 13, lcache := [] } }))) ∧
  (∀ (s : State),
    (∀ a k, stewardAgent s a = true → (s.phase = .running ∨ s.phase = .waitImage) →
      (s.sec.keyBusy.isSome = true → exec (.keyLoad a k) s = .next s ∧ exec (.keyClear a k) s = .next s) ∧
      (s.sec.keyBusy = none →
        exec (.keyLoad a k) s = .next { s with sec := { s.sec with keySlot := k, keyBusy := some (k.toNat, true) } } ∧
        exec (.keyClear a k) s = .next { s with sec := { s.sec with keySlot := k, keyBusy := some (k.toNat, false) } })) ∧
    (s.sec.keyBusy = none → exec .keyOpDone s = .next s) ∧
    (∀ k load a, s.phase = .running → s.sec.keyBusy = some (k, load) → a = s.sec.keysrc.toNat * 64 →
      (keyInUse s k = true → exec .keyOpDone s = .next s) ∧
      (keyInUse s k = false → ∃ t, exec .keyOpDone s = .next t ∧ t = { s with sec := t.sec } ∧ t.sec.keyBusy = none ∧
        (∀ j, j ≠ k → tget {} t.sec.slots j = tget {} s.sec.slots j) ∧
        (load = false → tget {} t.sec.slots k = {} ∧ t.sec.keyResult = 0) ∧
        (load = true → (reachable s a 80 = false ∨ placeOf s a 80 = .localStore ∨ poisoned s a 80 = true ∨
            1 < bf (memNum s a 80) 512 8 ∨ 2 < bf (memNum s a 80) 520 8 ∨ bf (memNum s a 80) 528 112 ≠ 0) →
          t.sec.slots = s.sec.slots ∧ t.sec.keyResult = 7) ∧
        (load = true → reachable s a 80 = true → placeOf s a 80 ≠ .localStore → poisoned s a 80 = false →
            bf (memNum s a 80) 512 8 ≤ 1 → bf (memNum s a 80) 520 8 ≤ 2 → bf (memNum s a 80) 528 112 = 0 →
          t.sec.keyResult = 0 ∧ tget {} t.sec.slots k =
            { usage := BitVec.ofNat 8 (bf (memNum s a 80) 512 8), part := BitVec.ofNat 8 (bf (memNum s a 80) 520 8),
              mat := BitVec.ofNat 512 (memNum s a 80) }))) ∧
    (∀ c : CtxId, s.phase ≠ .inReset → privOf (ctxGet s c) ≠ 0 →
      (s.sec.rngfail = true → exec (.secRngRead (.core c)) s = .next { s with cxd := { s.cxd with busRead := 0 } }) ∧
      (s.sec.rngfail = false → exec (.secRngRead (.core c)) s =
        .next { s with free := s.free + 1, cxd := { s.cxd with busRead := Config.freeWord s.free } })) ∧
    (∀ n : LdId, s.phase ≠ .inReset → exec (.secRngRead (.host n)) s = .next { s with cxd := { s.cxd with busRead := 0 } }) ∧
    ∀ b, s.phase ≠ .inReset → exec (.rngHealthTest b) s = .next { s with sec := { s.sec with rngfail := b } })

/-! ## Power, heat, reset and start-up (R327, R349 to R355, R361 to R366, R373, R401, R404, R408) -/

/-- Whole-device reset leaves the queue of commands, the identity flash, the cave and its lands, and everything else at its
reset value (R361). -/
def Sys2Proof.Say.reset (s t : State) : Prop :=
  t = { State.reset with pending := s.pending, free := s.free, sec := t.sec, fls := t.fls, pwr := t.pwr } ∧
  t.sec = { State.reset.sec with factory := s.sec.factory, halfA := s.sec.halfA, halfB := s.sec.halfB, activeB := s.sec.activeB } ∧
  t.fls.grans = s.fls.grans ∧ t.fls.blocks = s.fls.blocks ∧ t.fls.wbuf = [] ∧ t.fls.ch = [] ∧ t.fls.mapBase = 0 ∧
  t.pwr.env = 0 ∧ t.pwr.perst = true

/-- PERST and the power events: PERST_N low resets the device, its release starts it up to the wait for an image, or stops it
where a keel unit failed, with the serial number and the keys of a PUF whose helper data pass; PWRFAIL_N of 200 ns or more flushes and stops it, of 50 ns or less does nothing; a rail fault stops
it, and leaves no clean record unless it comes after PWRFAIL_N; the return of power resets it (R327, R352, R355, R361, R367, R400, R401, R404, R407). The waves of start-up, in their order and
within the envelope: a hub's makes its stacks ready, and the last of a cluster's tiles' lifts its gate; a unit that fails its
test is declared failed (R352, R353). The model's choices: what a part as shipped holds (log entries 6 and 8), that a flush is one
step and what PWRFAIL_N between 50 and 200 ns does (log entry 79), when a clean record is read (log entry 154), the byte order of
the serial number (log entry 156). -/
def Obligations.PowerEventsAndWaves : Prop :=
  (∀ (s : State),
    (∀ us, s.phase = .inReset → exec (.perstAssert us) s = .next s) ∧
    (∀ us, s.phase ≠ .inReset → (s.pwr.pwrfail = true ∨ s.clk.refPresent = false ∨ stageSet s = false ∨ s.phase ≠ .running) →
      ∃ t, exec (.perstAssert us) s = .next t ∧ Say.reset s t ∧ t.pwr.pwrfail = s.pwr.pwrfail ∧ t.pwr.comparator = s.pwr.comparator) ∧
    (∀ us, s.phase ≠ .inReset → ∃ t u, exec (.perstAssert us) s = .next t ∧ Say.reset u t ∧ u.sec.halfA = s.sec.halfA ∧
      u.sec.halfB = s.sec.halfB ∧ u.pending = s.pending) ∧
    (∀ x, (s.phase ≠ .inReset ∨ s.pwr.perst = false ∨ s.pwr.pwrfail = true) → exec (.perstDeassert x) s = .next s) ∧
    (∀ x, s.phase = .inReset → s.pwr.perst = true → s.pwr.pwrfail = false → ∃ t, exec (.perstDeassert x) s = .next t ∧
      t.pwr.perst = false ∧ t.clk.locked = true ∧ t.clk.refPresent = true ∧
      (x.keelOk = false → t.phase = .stopped) ∧
      (x.keelOk = true → x.coresFailed = [] → t.phase = .waitImage ∧ t.mem.cells = s.mem.cells ∧
        ((∀ r ∈ s.sec.factory ++ s.sec.halfA ++ s.sec.halfB, r.kind ≠ 1) → t.plan.code = x.code) ∧ t.sec.nopuf = !x.pufOk ∧
        t.plan.serial = (if x.pufOk then deviceSerial else 0) ∧ t.sec.recKey = (if x.pufOk then recordKey deviceSeed else []) ∧
        t.sec.boot = if x.pufOk then some ⟨pufReading, deviceSeed, dikScalar deviceSeed⟩ else none)) ∧
    (∀ ns us, ns ≤ 50 ∨ s.pwr.pwrfail = true ∧ 200 ≤ ns → exec (.pwrfail ns us) s = .next s) ∧
    (∀ ns us, 200 ≤ ns → s.pwr.pwrfail = false → ∃ t, exec (.pwrfail ns us) s = .next t ∧ t.pwr.pwrfail = true ∧
      t.sec = s.sec ∧ t.pending = s.pending ∧ (s.phase = .inReset → t.phase = .inReset) ∧ (s.phase ≠ .inReset → t.phase = .stopped)) ∧
    exec .pwrfailDeassert s = .next { s with pwr := { s.pwr with pwrfail := false } } ∧
    (∀ (r : Fin 16) ns, s.phase ≠ .inReset → 1000 < ns → r.val ≠ 15 →
      (s.pwr.pwrfail = false → exec (.railFault r ns) s = .next { s with
        phase := .stopped, fls := { s.fls with grans := s.fls.grans.filter fun g => g.2.kind ≠ 4 } }) ∧
      (s.pwr.pwrfail = true → r.val ∈ [3, 7, 8, 9, 11, 13, 14] → exec (.railFault r ns) s = .next { s with phase := .stopped }) ∧
      (s.pwr.pwrfail = true → r.val ∉ [3, 7, 8, 9, 11, 13, 14] → exec (.railFault r ns) s = .next s)) ∧
    (∀ (r : Fin 16) ns, ns ≤ 1000 ∨ s.phase = .inReset ∨ r.val = 15 → exec (.railFault r ns) s = .next s) ∧
    (s.phase = .stopped ∨ s.phase = .inReset → ∃ t, exec .powerReturn s = .next t ∧ Say.reset s t ∧ t.pwr = {}) ∧
    (s.phase = .running ∨ s.phase = .waitImage → exec .powerReturn s = .next s)) ∧
  (∀ (s : State) (drawW waveW : Nat), s.phase = .running →
    (∀ h : HubId, (s.pwr.env.toNat < drawW + waveW ∨ s.pwr.waves.toNat.testBit h.val = true ∨
        (∃ k, k < h.val ∧ s.pwr.waves.toNat.testBit k = false)) → ∀ l, exec (.hubPowerWave h drawW waveW l) s = .next s) ∧
    (∀ h : HubId, drawW + waveW ≤ s.pwr.env.toNat → s.pwr.waves.toNat.testBit h.val = false →
      (∀ k, k < h.val → s.pwr.waves.toNat.testBit k = true) →
      ∃ t, exec (.hubPowerWave h drawW waveW []) s = .next t ∧
        t = { s with pwr := { s.pwr with waves := setF s.pwr.waves h.val 1 1 }, mem := { s.mem with ready := t.mem.ready } } ∧
        ∀ i, i < 32 → t.mem.ready.toNat.testBit i =
          ((decide (i / 4 = h.val) && stackIn s i) || s.mem.ready.toNat.testBit i)) ∧
    (∀ (h : HubId) (u : UnitId), drawW + waveW ≤ s.pwr.env.toNat → s.pwr.waves.toNat.testBit h.val = false →
      (∀ k, k < h.val → s.pwr.waves.toNat.testBit k = true) → inHubGroup h.val u = true → (fptGet s u).state ≠ 2 →
      s.ras.auto = false → (∀ x ∈ s.ras.failed, x.1 ≠ u) →
      ∃ t, exec (.hubPowerWave h drawW waveW [u]) s = .next t ∧ Say.noted s t 0x25 u 0 (fptGet s u).slot.toNat ∧
        ∃ x ∈ t.ras.failed, x.1 = u) ∧
    (∀ w : Fin 18, (s.pwr.env.toNat < drawW + waveW ∨ s.units.tileUp.toNat.testBit w.val = true ∨
        (∃ k, k < w.val ∧ s.units.tileUp.toNat.testBit k = false)) → ∀ l, exec (.tileWave w drawW waveW l) s = .next s) ∧
    (∀ w : Fin 18, drawW + waveW ≤ s.pwr.env.toNat → s.units.tileUp.toNat.testBit w.val = false →
      (∀ k, k < w.val → s.units.tileUp.toNat.testBit k = true) → (∀ k, w.val < k → s.units.tileUp.toNat.testBit k = false) →
      ∃ t, exec (.tileWave w drawW waveW []) s = .next t ∧
        t = { s with units := { s.units with tileUp := setF s.units.tileUp w.val 1 1, gated := t.units.gated } } ∧
        ∀ i, i < 16 → t.units.gated.toNat.testBit i =
          (s.units.gated.toNat.testBit i && !(decide (w.val * 8 < 9 * i + 9) && decide (9 * i + 8 < w.val * 8 + 8)))))

/-- Power samples: telemetry and energy are kept, an average over the envelope raises the limiter's hold a step at a time to 4
and sets its bit, and only ten averages below 97% of it let it go; likewise each partition at its budget (R362 to R364). Heat:
a die at its throttle point runs at its floor voltages until 3 °C below it; one at its trip point holds its units, raises
MSI-X vector 2 and THERM_TRIP_N until its clear point, and the controller's gates every cluster; 125 °C asserts THERM_TRIP_N
for good (R366, R408). Steps under way when a hold begins may end (log entry 53); the floor of a region and the heat points of its
telemetry are the model's choices (log entry 77), as is the budget that none was set for (log entry 47). -/
def Obligations.PowerAndHeat : Prop :=
  (∀ (s : State), (s.phase = .running ∨ s.phase = .waitImage) →
    (∀ (x : PowerReading) (env : Nat), env = s.pwr.env.toNat →
      ∃ t, exec (.powerSample x) s = .next t ∧
        t = { s with pwr := t.pwr, clk := { s.clk with underWay := t.clk.underWay } } ∧ t.pwr.last = x ∧ t.pwr.energy = s.pwr.energy + x.packageMw ∧
        t.pwr.env = s.pwr.env ∧ t.pwr.grant = s.pwr.grant ∧
        (env * 1000 < x.packageMw → t.pwr.limiter = min 4 (s.pwr.limiter + 1) ∧ t.pwr.below = 0 ∧ t.pwr.limit = true) ∧
        (x.packageMw ≤ env * 1000 → t.pwr.limiter = s.pwr.limiter ∧ t.pwr.limit = s.pwr.limit) ∧
        (x.packageMw * 100 < env * 97000 → t.pwr.below = s.pwr.below + 1) ∧
        (env * 97000 ≤ x.packageMw * 100 → t.pwr.below = 0) ∧
        ∀ p mw, (p, mw) ∈ [(0, x.partMw0), (1, x.partMw1)] →
          (budgetOf s p * 1000 < mw → tget 0 t.pwr.partHeld p = min 4 (tget 0 s.pwr.partHeld p + 1) ∧ t.pwr.pthrot = true) ∧
          (mw ≤ budgetOf s p * 1000 → tget 0 t.pwr.partHeld p = tget 0 s.pwr.partHeld p)) ∧
    (∃ t, exec .powerLimitRelease s = .next t ∧ t = { s with pwr := { s.pwr with limiter := t.pwr.limiter, partHeld := t.pwr.partHeld } } ∧
      t.pwr.limiter = (if 10 ≤ s.pwr.below then 0 else s.pwr.limiter) ∧
      ∀ p, p < 2 → tget 0 t.pwr.partHeld p = if 10 ≤ tget 0 s.pwr.partBelow p then 0 else tget 0 s.pwr.partHeld p)) ∧
  (∀ (s : State) (d : Die) (c : Int), (s.phase = .running ∨ s.phase = .waitImage) →
    ((c < (heatPoints s d).1 ∨ d ∈ s.pwr.throttled) → exec (.thermalThrottle d c) s = .next s) ∧
    ((heatPoints s d).1 ≤ c → d ∉ s.pwr.throttled →
      ∃ t, exec (.thermalThrottle d c) s = .next t ∧ t = { s with pwr := t.pwr } ∧ t.pwr.throttled = s.pwr.throttled ++ [d] ∧
        t.pwr.tthrot = true ∧ ∀ i, i < 83 → regionDie i = d →
          (tget 0 t.pwr.volt i).toNat = min (s.plan.nominalMv.getD i 0) (tget 0 s.pwr.floor i).toNat) ∧
    (c ≤ (heatPoints s d).2.1 → d ∈ s.pwr.throttled →
      ∃ t, exec (.throttleEnd d c) s = .next t ∧ t = { s with pwr := t.pwr } ∧ d ∉ t.pwr.throttled ∧ t.pwr.tthrot = s.pwr.tthrot ∧
        ∀ i, i < 83 → regionDie i = d → (tget 0 t.pwr.volt i).toNat =
          min (s.plan.nominalMv.getD i 0) (max (tget 0xFFFF s.pwr.target i).toNat (tget 0 s.pwr.floor i).toNat)) ∧
    ((heatPoints s d).2.2.1 ≤ c → d ∉ s.pwr.tripped →
      ∃ t, exec (.thermalTrip d c) s = .next t ∧ t.pwr.trip = true ∧ thermTripPin t = true ∧ t.pwr.tripped = s.pwr.tripped ++ [d] ∧
        t.units.gated = (if d = .controller then 0xFFFF else s.units.gated) ∧ t.mem = s.mem ∧ t.ctxs = s.ctxs ∧
        ((maskedOf s 0).toNat.testBit 2 = false → t.cxd.hostOut = s.cxd.hostOut ++ [.msix 0 2]) ∧
        ((maskedOf s 0).toNat.testBit 2 = true → (pendingOf t 0).toNat.testBit 2 = true)) ∧
    (c < (heatPoints s d).2.2.1 → exec (.thermalTrip d c) s = .next s) ∧
    (c ≤ (heatPoints s d).2.2.2 → d ∈ s.pwr.tripped →
      ∃ t, exec (.thermalClear d c) s = .next t ∧ t = { s with pwr := { s.pwr with tripped := t.pwr.tripped } } ∧
        ∀ e, e ∈ t.pwr.tripped ↔ e ∈ s.pwr.tripped ∧ e ≠ d) ∧
    (125 ≤ c → ∃ t, exec (.thermComparator d c) s = .next t ∧ thermTripPin t = true ∧ t = { s with pwr := { s.pwr with comparator := true } }) ∧
    (c < 125 → exec (.thermComparator d c) s = .next s) ∧
    (∀ st, heatPoints s (.stack st) = (100, 97, 105, 95)) ∧
    heatPoints s .controller = ((s.pwr.tthr.toNat : Int), (s.pwr.tthr.toNat : Int) - 3, 110, 100))

/-! ## The fabric: packets from other nodes (R241 to R265) -/

/-- A packet of an operation code comes in for this device, and u is the state once its flits are received (R243, R245). -/
def Sys2Proof.Say.inAt (op : Byte) (k : Packet) (s u : State) : Prop :=
  fabricUp s = true ∧ k.dst = ownNode s ∧ k.op = op ∧ k.resv = 0 ∧ k.data.length ≤ 4096 ∧
  u = arrive s k.vc.toNat k.tag (packetBytes k).length

/-- An operation has ended with a status. -/
def Sys2Proof.Say.over (t : State) (tk : Ticket) (st : Byte) : Prop := ∃ o, opGet t tk = some o ∧ o.phase = .ended ∧ o.status = st

/-- What every packet meets: one for another node, of another code or while no port is up has no effect; one of a reserved code, with
a Resv field that is not zero, or over 4,096 bytes, is dropped and counted; a request from a node that no entry lets in is answered
PROTECT, one of an edition not served MOVED with the current one (R245, R246, R262, R381). READ answers the bytes with their
poison; WRITE stores its bytes and adds them to its tally; ATOMIC changes 8 bytes, or a tally by an addition, and answers the
old value; an access that is not granted, aligned or installed is answered PROTECT; a write to a busy bank or a line a host
holds waits (R73, R194, R245 to R248, R254, R294, R296). The model's choices: the port a packet's flits count on (log entry 29), an
ATOMIC on a poisoned line (log entry 30), which banks a step boundary serves (log entry 61), REVOKED at a range of a host (log entry 100). -/
def Obligations.FabricRequests : Prop :=
  (∀ (k : Packet) (s u : State) (p : (Packet → Instr) × Byte),
    p ∈ [(.read, 1), (.readResp, 2), (.write, 3), (.ack, 4), (.atomic, 5), (.atomicResp, 6), (.reduce, 7), (.inval, 8), (.hand, 0xA),
      (.handResponse, 4)] →
    ((fabricUp s = false ∨ k.dst ≠ ownNode s ∨ (k.op ≠ p.2 ∧ 1 ≤ k.op.toNat ∧ k.op.toNat ≤ 12)) → exec (p.1 k) s = .next s) ∧
    (fabricUp s = true → k.dst = ownNode s → (k.op = p.2 ∨ k.op = 0 ∨ 12 < k.op.toNat) → u = arrive s k.vc.toNat k.tag (packetBytes k).length →
      (k.resv ≠ 0 ∨ 4096 < k.data.length ∨ k.op ≠ p.2 ∨ (p.2 = 0xA ∧ ∃ b ∈ (k.data.drop 76).take 4, b ≠ 0)) →
      exec (p.1 k) s = .next (dropPacket u)) ∧
    (∀ st, Say.inAt p.2 k s u → p.2 ∈ [1, 3, 5, 7, 8, 0xA] → inRefused false u k = some st →
      (p.2 ∈ [5, 7, 0xA] → remembered u k.src k.tag = none) → (p.2 = 5 → k.arg.toNat % 4 ≠ 3) → (p.2 = 7 → rdValid k = true) →
      (p.2 = 0xA → ∀ b ∈ (k.data.drop 76).take 4, b = 0) →
      (st = 7 ∧ inLevel u k.src = none ∨ st = 5 ∧ editionServed u k.edition = false) ∧
      ∃ t, exec (p.1 k) s = .next t ∧ t.mem = s.mem ∧ t.ctxs = s.ctxs ∧ t.tallies = s.tallies ∧ t.ldg = s.ldg ∧
        Say.sent t (response u k (if p.2 = 1 then 2 else if p.2 = 5 then 6 else 4) st 0 [])) ∧
    (∀ r, Say.inAt p.2 k s u → p.2 ∈ [5, 7, 0xA] → remembered u k.src k.tag = some r → (p.2 = 5 → k.arg.toNat % 4 ≠ 3) →
      (p.2 = 7 → rdValid k = true) → (p.2 = 0xA → ∀ b ∈ (k.data.drop 76).take 4, b = 0) →
      ∃ t, exec (p.1 k) s = .next t ∧ t.mem = s.mem ∧ t.tallies = s.tallies ∧ t.ldg = s.ldg ∧ Say.sent t r)) ∧
  (∀ (k : Packet) (s u : State) (a n : Nat), a = k.off.toNat →
    (Say.inAt 1 k s u → inRefused false u k = none → n = k.arg.toNat % 2 ^ 13 →
      ((n % 64 ≠ 0 ∨ n = 0 ∨ 4096 < n ∨ fabricPlace s a n = false ∨ inPermits s ((inLevel s k.src).getD 0) false a n = false) →
        ∃ t, exec (.read k) s = .next t ∧ t.mem = s.mem ∧ Say.sent t (response u k 2 7 0 [])) ∧
      (n % 64 = 0 → 0 < n → n ≤ 4096 → fabricPlace s a n = true → inPermits s ((inLevel s k.src).getD 0) false a n = true →
        (bankBusy s a n = false → ∃ t m, exec (.read k) s = .next t ∧ t.mem = s.mem ∧ t.ctxs = s.ctxs ∧
          Say.sent t (response u k 2 0 m (memRead s a n)) ∧
          ∀ i, i < n / 64 → m.toNat.testBit i = poisoned s (a + 64 * i) 64) ∧
        (bankBusy s a n = true → ∃ t, exec (.read k) s = .next t ∧ .packet k ∈ t.mem.waiting ∧ t.mem.cells = s.mem.cells))) ∧
    (Say.inAt 3 k s u → n = k.data.length →
      (∀ st, inRefused false u k = none → writeRefused false u k n = some st → (st = 7 ∨ st = 6) ∧
        ∃ t, exec (.write k) s = .next t ∧ t.mem = s.mem ∧ t.tallies = s.tallies ∧ Say.sent t (response u k 4 st 0 [])) ∧
      (writeRefused false u k n = none → (bankHolds s true a n = true ∨ recallNeeded s a n ≠ []) →
        ∃ t, exec (.write k) s = .next t ∧ .packet k ∈ t.mem.waiting ∧ t.mem.cells = s.mem.cells ∧ t.tallies = s.tallies) ∧
      (writeRefused false u k n = none → bankHolds s true a n = false → recallNeeded s a n = [] → Say.keepsAll s (a, n) →
        ∃ t, exec (.write k) s = .next t ∧ t.ctxs = s.ctxs ∧ Say.only s t [(a, n)] ∧ memRead t a n = k.data ∧
          (∀ i, k.arg.toNat.testBit i = true → 64 * i < n → poisoned t (a + 64 * i) (min 64 (n - 64 * i)) = true) ∧
          (∀ j, (tally t j).toNat = if k.talEn = true ∧ j = k.tally.toNat then min ((tally s j).toNat + n) (2 ^ 64 - 1)
            else (tally s j).toNat) ∧ Say.sent t (response u k 4 0 0 []))) ∧
    (Say.inAt 5 k s u → k.arg.toNat % 4 ≠ 3 → remembered u k.src k.tag = none → inRefused false u k = none →
      ((a % 8 ≠ 0 ∨ k.data.length ≠ 16) → ∃ t, exec (.atomic k) s = .next t ∧ t.mem = s.mem ∧ t.tallies = s.tallies ∧
        Say.sent t (response u k 6 7 0 [])) ∧
      (∀ i, a % 8 = 0 → k.data.length = 16 → placeOf s a 8 = .tally i →
        ((k.arg.toNat % 4 ≠ 0 ∨ inPermits s ((inLevel s k.src).getD 0) true a 8 = false) →
          ∃ t, exec (.atomic k) s = .next t ∧ t.tallies = s.tallies ∧ Say.sent t (response u k 6 7 0 [])) ∧
        (k.arg.toNat % 4 = 0 → inPermits s ((inLevel s k.src).getD 0) true a 8 = true →
          ∃ t, exec (.atomic k) s = .next t ∧ t.mem = s.mem ∧
            (tally t i).toNat = min ((tally s i).toNat + ofLe (k.data.take 8)) (2 ^ 64 - 1) ∧
            Say.sent t (response u k 6 0 0 (leBytes 8 (tally s i).toNat)))) ∧
      (a % 8 = 0 → k.data.length = 16 → (∀ i, placeOf s a 8 ≠ .tally i) → writeRefused false u k 8 = none →
        inPermits s ((inLevel s k.src).getD 0) false a 8 = true → bankHolds s true a 8 = false → recallNeeded s a 8 = [] →
        Say.keepsAll s (a, 8) →
        (poisoned s a 8 = true → ∃ t, exec (.atomic k) s = .next t ∧ t.mem = s.mem ∧ Say.sent t (response u k 6 3 0 [])) ∧
        (poisoned s a 8 = false → ∃ t, exec (.atomic k) s = .next t ∧ t.ctxs = s.ctxs ∧ Say.only s t [(a, 8)] ∧
          memNum t a 8 = (if k.arg.toNat % 4 = 0 then (memNum s a 8 + ofLe (k.data.take 8)) % 2 ^ 64
            else if k.arg.toNat % 4 = 1 ∨ memNum s a 8 = ofLe ((k.data.drop 8).take 8) then ofLe (k.data.take 8) else memNum s a 8) ∧
          Say.sent t (response u k 6 0 0 (leBytes 8 (memNum s a 8)))))))

/-- A contribution to a segment is combined with the bytes there, element by element, or turned away while every segment
record is taken; INVAL drops the blocks of its range, and one at a core's registers, hub window or local store, a tally or a reserved
offset is answered PROTECT; HAND takes a request over where it may, and else answers PROTECT (R126,
R247, R252, R256, R257, R259). An answer to nothing, or whose status is no code of R8, is dropped and counted. One to a request ends what waited: an ACK or a
status its operation's piece, read data the piece of its copy, written here or sent on, a store or a load of a host, an ATOMIC's old value goes to its result, a hand-off taken over
frees the entry; MOVED ends an operation routed by an older edition or holds the request until the map has it (R252 to R259,
R262, R388). The model's choices: the blocks that INVAL names (log entry 31), the status of several pieces (log entry 32), the number
of segment records (log entry 105), a status that is no code (log entry 120). -/
def Obligations.FabricAnswers : Prop :=
  (∀ (k : Packet) (s u : State) (a n : Nat), a = k.off.toNat →
    (Say.inAt 7 k s u → n = k.data.length → (rdValid k = false → exec (.reduce k) s = .next (dropPacket u)) ∧
      (∀ w, rdValid k = true → remembered u k.src k.tag = none → writeRefused false u k n = none →
        inPermits s ((inLevel s k.src).getD 0) false a n = true → segGet s k = none → bankHolds s true a n = false →
        recallNeeded s a n = [] → k.src ≠ ownNode s → w = (if rdFmt k = 1 then 2 else 4) →
        (Config.reduceRecords ≤ s.isf.segments.length → ∃ t, exec (.reduce k) s = .next t ∧ t.mem = s.mem ∧ t.tallies = s.tallies ∧
          Say.sent t (response u k 4 0 1 [])) ∧
        (s.isf.segments.length < Config.reduceRecords → rdOrdered k = false → Say.keepsAll s (a, n) →
          ∃ t, exec (.reduce k) s = .next t ∧ Say.only s t [(a, n)] ∧ t.ctxs = s.ctxs ∧ Say.sent t (response u k 4 0 0 []) ∧
            (∀ i, i < n / w → memNum t (a + w * i) w =
              combineElem (rdFn k) (rdFmt k) (memNum s (a + w * i) w) (ofLe ((k.data.drop (w * i)).take w))) ∧
            (rdN k = 1 → segGet t k = none ∧ (k.talEn = true →
              (tally t k.tally.toNat).toNat = min ((tally s k.tally.toNat).toNat + n) (2 ^ 64 - 1))) ∧
            (1 < rdN k → t.tallies = s.tallies ∧ ∃ g, segGet t k = some g ∧ g.ranks = [rdRank k] ∧ g.n = rdN k)))) ∧
    (Say.inAt 8 k s u → inRefused false u k = none → ((∃ x, placeOf s a 1 = .reg x) ∨ (∃ x, placeOf s a 1 = .hub x) ∨
        placeOf s a 1 = .localStore ∨ (∃ x, placeOf s a 1 = .tally x) ∨ placeOf s a 1 = .none) →
      ∃ t, exec (.inval k) s = .next t ∧ t.mem = s.mem ∧ t.isf.lcache = s.isf.lcache ∧
      Say.sent t (response u k 4 7 0 [])) ∧
    (Say.inAt 8 k s u → inRefused false u k = none → n = k.arg.toNat % 2 ^ 40 → (∀ x, placeOf s a 1 ≠ .reg x) →
        (∀ x, placeOf s a 1 ≠ .hub x) → placeOf s a 1 ≠ .localStore → (∀ x, placeOf s a 1 ≠ .tally x) → placeOf s a 1 ≠ .none →
      ∃ t, exec (.inval k) s = .next t ∧
      t.mem.cells = s.mem.cells ∧ t.ctxs = s.ctxs ∧
      (∀ x, x ∈ t.isf.lcache ↔ x ∈ s.isf.lcache ∧ ¬(x.1 * 4096 % 2 ^ 50 < a + n ∧ a < x.1 * 4096 % 2 ^ 50 + 4096)) ∧
      (blockLines s a n = [] → Say.sent t (response u k 4 0 0 [])) ∧ (blockLines s a n ≠ [] → .packet k ∈ t.mem.waiting)) ∧
    (Say.inAt 0xA k s u → (∀ b ∈ (k.data.drop 76).take 4, b = 0) → remembered u k.src k.tag = none → inRefused false u k = none →
      ∀ (p : Part) x, p = (if k.arg.toNat.testBit 0 then 1 else 0) → x = ofLe (k.data.take 64) →
        ((k.data.length ≠ 80 ∨ handOk s p x = false) → ∃ t, exec (.hand k) s = .next t ∧ t.ldg = s.ldg ∧ t.mem = s.mem ∧
          Say.sent t (response u k 4 7 0 [])) ∧
        (k.data.length = 80 → handOk s p x = true → ∃ t v, exec (.hand k) s = .next t ∧
          v = acceptHand u p x (ofLe ((k.data.drop 64).take 8)) (ofLe ((k.data.drop 72).take 4)) ∧ t.ldg = v.ldg ∧ t.mem = v.mem ∧
          Say.sent t (response v k 4 0 0 [])))) ∧
  (∀ (k : Packet) (s u : State) (r : OutReq) (op : Byte) (i : Packet → Instr),
    (op, i) ∈ [(2, Instr.readResp), (4, Instr.ack), (6, Instr.atomicResp), (4, Instr.handResponse)] → Say.inAt op k s u → Quiet s →
    ((outReq u k.tag = none ∨ 11 < k.status.toNat) → ∃ t, exec (i k) s = .next t ∧ t.isf = (dropPacket u).isf ∧ t.mem.cells = s.mem.cells ∧ t.ops = s.ops ∧
      t.ctxs = s.ctxs) ∧
    (outReq u k.tag = some r → k.status.toNat ≤ 11 →
      (∀ tk o, (r.owner = .inval tk ∨ r.owner = .reduce tk ∧ k.arg.toNat.testBit 0 = false) → op = 4 → i k = .ack k → k.status ≠ 5 →
        opGet s tk = some o → o.phase ≠ .ended → o.phase ≠ .recorded → ∃ t, exec (i k) s = .next t ∧ outReq t k.tag = none ∧ t.mem.cells = s.mem.cells ∧
          (o.await ≤ 1 → Say.over t tk (if o.status = 0 then k.status else o.status)) ∧
          (2 ≤ o.await → ∃ o', opGet t tk = some o' ∧ o'.await = o.await - 1 ∧ (o'.phase = o.phase ∨ o'.phase = .committed))) ∧
      (∀ tk o, (r.owner = .inval tk ∧ i k = .ack k ∨ r.owner = .reduce tk ∧ i k = .ack k ∨ (∃ res, r.owner = .atomic tk res) ∧ i k = .atomicResp k) →
        k.status = 5 → editionNewer k.edition r.pkt.pkt.edition = true → opGet s tk = some o → o.phase ≠ .ended → o.phase ≠ .recorded →
        o.await ≤ 1 → ∃ t, exec (i k) s = .next t ∧ outReq t k.tag = none ∧ t.mem.cells = s.mem.cells ∧
          Say.over t tk (if o.status = 0 then 5 else o.status)) ∧
      (∀ tk o m slot, r.owner = .ferryWrite tk m slot → i k = .ack k → k.status ≠ 5 → opGet s tk = some o → o.phase ≠ .ended →
        o.phase ≠ .recorded → o.op ≠ 2 → ∃ t, exec (i k) s = .next t ∧ outReq t k.tag = none ∧ t.mem.cells = s.mem.cells ∧
          (o.await ≤ 1 → Say.over t tk (if o.status = 0 then k.status else o.status)) ∧
          (2 ≤ o.await → ∃ o', opGet t tk = some o' ∧ o'.await = o.await - 1 ∧ (o'.phase = o.phase ∨ o'.phase = .committed)) ∧
          ∀ j, o.ctally = some j → k.status = 0 → (tally t j).toNat = min ((tally s j).toNat + m) (2 ^ 64 - 1)) ∧
      (∀ tk o m slot, r.owner = .ferryWrite tk m slot → i k = .ack k → k.status ≠ 5 → opGet s tk = some o → o.phase ≠ .ended →
        o.phase ≠ .recorded → o.op = 2 → ∃ t, exec (i k) s = .next t ∧ outReq t k.tag = none ∧
          (2 ≤ o.await → t.mem.cells = s.mem.cells) ∧
          (o.await ≤ 1 → Say.only s t [(bodyF o 256 64, 32)] ∧ (∃ st, Say.over t tk st) ∧
            (Say.keeps s (bodyF o 256 64) → fmStarted o = [slot] → slot < 32 → (∀ x ∈ o.buf, x.1 ≠ slot) →
              memNum t (bodyF o 256 64 + slot) 1 = k.status.toNat))) ∧
      (∀ tk o dst m, r.owner = .ferryRead tk dst none → i k = .readResp k → k.status = 0 → opGet s tk = some o → o.phase ≠ .ended →
        o.phase ≠ .recorded → fcDfab o = false → m = pieceLen s o dst → m ≤ k.data.length → Say.keepsAll s (dst, m) →
        ∃ t, exec (i k) s = .next t ∧ outReq t k.tag = none ∧ Say.only s t [(dst, m)] ∧ memRead t dst m = k.data.take m ∧
          (o.await ≤ 1 → Say.over t tk (if o.status ≠ 0 then o.status else if k.arg = 0 then 0 else 3))) ∧
      (∀ tk o dst f m, r.owner = .ferryRead tk dst (some f) → i k = .readResp k → k.status = 0 → opGet s tk = some o → o.phase ≠ .ended →
        o.phase ≠ .recorded → excluded s (fabNode f.toNat) = false → Say.linked s → m = k.data.take (pieceLen s o dst) →
        ∃ t, exec (i k) s = .next t ∧ t.mem.cells = s.mem.cells ∧
          Say.asked t (.ferryWrite tk m.length 0) 3 (fabNode f.toNat) dst (k.arg.toNat % 2 ^ 64) m) ∧
      (∀ tk, r.owner = .reduce tk → i k = .ack k → k.status = 0 → k.arg.toNat.testBit 0 = true →
        ∃ t r', exec (i k) s = .next t ∧ outReq t k.tag = some r' ∧ r'.resend = some false ∧ r'.pkt = r.pkt ∧ t.ops = s.ops) ∧
      (∀ l, r.owner = .store l → i k = .ack k → k.status ≠ 5 → ∃ t, exec (i k) s = .next t ∧
        t.cxd.hostOut = (s.cxd.hostOut ++ l.map fun x => HostOut.done x.1 x.2 (decide (k.status ≠ 0))) ∧
        ((k.status = 6 ∨ k.status = 7) → ∀ x ∈ l, ∃ e ∈ t.cxd.events, e.log = x.1.val ∧ e.status = k.status ∧ e.dpa = x.2)) ∧
      (∀ ld dpa want, r.owner = .load ld dpa want → i k = .readResp k → k.status ≠ 5 →
        (∀ w ∈ s.isf.out, ∀ l, w.owner ≠ .store l) → ∃ t, exec (i k) s = .next t ∧
        t.mem.cells = s.mem.cells ∧
        ((k.status = 6 ∨ k.status = 7) → ∃ e ∈ t.cxd.events, e.log = ld.val ∧ e.status = k.status ∧ e.dpa = dpa) ∧
        (k.status ≠ 0 → t.cxd.hostOut = s.cxd.hostOut ++ [.data ld dpa (BitVec.ofNat 512 (2 ^ 512 - 1)) true .uncached]) ∧
        (k.status = 0 → ∃ w, t.cxd.hostOut = s.cxd.hostOut ++
          [.data ld dpa (BitVec.ofNat 512 (ofLe ((k.data.drop (dpa.toNat / 64 % 64 * 64)).take 64)))
            (k.arg.toNat.testBit (dpa.toNat / 64 % 64)) w])) ∧
      (∀ tk res o, r.owner = .atomic tk res → i k = .atomicResp k → opGet s tk = some o → o.phase ≠ .ended → o.phase ≠ .recorded → k.status = 0 →
        Say.keepsAll s (res, 8) → 8 ≤ k.data.length →
        ∃ t, exec (i k) s = .next t ∧ Say.over t tk 0 ∧ memRead t res 8 = k.data.take 8 ∧ Say.only s t [(res, 8)]) ∧
      (∀ tk o e, r.owner = .hand tk → i k = .handResponse k → k.status = 0 → opGet s tk = some o → o.phase ≠ .ended → o.phase ≠ .recorded →
        e = entryOf s o.request.toNat → e.state = 3 → ∃ t, exec (i k) s = .next t ∧ Say.over t tk 0 ∧
        ((∀ z ∈ s.ldg.spilled, z.1 ≠ o.request.toNat) → entryOf t o.request.toNat = {})) ∧
      (∀ tk, r.owner = .inval tk → i k = .ack k → k.status = 5 → editionNewer k.edition r.pkt.pkt.edition = false →
        ∃ t r', exec (i k) s = .next t ∧ outReq t k.tag = some r' ∧ r'.resend = some true ∧ r'.pkt = r.pkt ∧ t.ops = s.ops)))

/-! ## Links, lost requests and membership (R241 to R243, R251, R253, R256, R262 to R264, R374) -/

/-- A port: a bad flit is answered once by a negative acknowledgement of the one expected; a control flit returns credits and
acknowledges, and asks for a replay, which begins with the flit that it names; after 64 flits or the interval what was received is acknowledged; a trained port sends
what is not acknowledged again, and none trains without a node number or the reference (R241, R243, R390). A request not
answered within the bound, or to a node that the live set excludes, ends with TIMEOUT and a record; a busy reduction and a
request held for its edition are sent again, with their tag; the stores that wait for a block leave as one WRITE, or
end dropped where its node is excluded (R251, R253, R256, R262). The model's choices: the credits that the device gives at training
(free values, log entry 3), which port a packet's flits count on (log entry 29), how waiting stores leave (log entry 36), one replay
for each sequence number (log entry 87), requests to excluded nodes (log entry 96), when a flit closes (log entry 121). -/
def Obligations.LinksAndResends : Prop :=
  (∀ (s : State) (p : PortId) (x : Port), x = portGet s p →
    ((linkOn s = false ∨ x.up = false ∨ x.nakSent = true) → exec (.linkFlitError p) s = .next s) ∧
    (linkOn s = true → x.up = true → x.nakSent = false → ∃ t f, exec (.linkFlitError p) s = .next t ∧
      t.isf.ctlOut = s.isf.ctlOut ++ [(p.val, f)] ∧ f.nak = true ∧ f.ack = x.rxSeq - 1 ∧ (portGet t p).nakSent = true ∧
      (portGet t p).rxUnacked = 0 ∧ t.mem = s.mem ∧ t.ops = s.ops) ∧
    ((linkOn s = false ∨ x.up = false ∨ x.rxUnacked = 0) → exec (.controlFlitInterval p) s = .next s) ∧
    (linkOn s = true → x.up = true → x.rxUnacked ≠ 0 → ∃ t f, exec (.controlFlitInterval p) s = .next t ∧
      t.isf.ctlOut = s.isf.ctlOut ++ [(p.val, f)] ∧ f.nak = x.nakSent ∧ f.ack = x.rxSeq - 1 ∧ (portGet t p).rxUnacked = 0 ∧
      (∀ v, v < 4 → f.credits.getD v 0 = x.rxFreed.getD v 0)) ∧
    (∀ f : CtlFlit, (linkOn s = false ∨ x.up = false) → exec (.controlFlit p f) s = .next s) ∧
    (∀ f : CtlFlit, linkOn s = true → x.up = true → s.isf.heldPkts = [] →
      (f.nak = false → ∃ t, exec (.controlFlit p f) s = .next t ∧ t.ctxs = s.ctxs ∧ t.mem = s.mem ∧ t.isf.wire = s.isf.wire ∧
        (portGet t p).unacked = (x.unacked.filter fun y => decide (512 ≤ (f.ack - y.last).toNat)).map (carried f.ack) ∧
        ∀ v, v < 4 → (portGet t p).credits.getD v 0 = x.credits.getD v 0 + f.credits.getD v 0 % 2 ^ 28) ∧
      (f.nak = true → x.nakSeq ≠ f.ack + 1 → ∃ t, exec (.controlFlit p f) s = .next t ∧
        t.isf.wire = s.isf.wire ++ (x.unacked.filter fun y => decide (512 ≤ (f.ack - y.last).toNat)).map fun y => (carried f.ack y).out) ∧
      ∀ y : SentPkt, (carried f.ack y).out.pkt = y.out.pkt ∧ (carried f.ack y).last = y.last ∧ y.out.skip ≤ (carried f.ack y).out.skip ∧
        (ceilDiv (y.taken + (packetBytes y.out.pkt).length) 240 ≤ (y.last - f.ack).toNat → carried f.ack y = y)) ∧
    (∀ tr : PortTraining, (linkOn s = false ∨ s.isf.nodeValid = false ∨ s.clk.refPresent = false ∨ x.up = true ∨ x.failed = true ∨
      unitIn s (uid 12 (p.val + 1)) = false ∨ tr.width ∉ [1, 2, 4, 8, 16] ∨ portWidth s (p.val + 1) < tr.width ∨ tr.credits.length ≠ 4) → exec (.portTrained p tr) s = .next s) ∧
    (∀ tr : PortTraining, linkOn s = true → s.isf.nodeValid = true → s.clk.refPresent = true → x.up = false → x.failed = false →
      unitIn s (uid 12 (p.val + 1)) = true → tr.width ∈ [1, 2, 4, 8, 16] → tr.width ≤ portWidth s (p.val + 1) →
      tr.credits.length = 4 → s.isf.heldPkts = [] →
      ∃ t, exec (.portTrained p tr) s = .next t ∧ (portGet t p).up = true ∧ (portGet t p).width = tr.width ∧
        (portGet t p).credits = tr.credits.map (fun n => n % 2 ^ 28) ∧
        (portGet t p).given = [0, 1, 2, 3].map (fun v => Config.portCredits p.val v % 2 ^ 28) ∧ t.isf.wire = s.isf.wire ++ x.unacked.map (fun y => y.out) ∧ p.val ∈ upPorts t)) ∧
  (∀ (s : State) (tag : W32) (r : OutReq),
    (outReq s tag = none → exec (.deadTarget tag) s = .next s ∧ exec (.reduceResend tag) s = .next s ∧
      exec (.editionResend tag) s = .next s) ∧
    (outReq s tag = some r → linkOn s = true →
      (excluded s r.pkt.pkt.dst = false → (r.ups = 0 ∨ s.clk.bell.toNat < r.sent.toNat + deadBound s) →
        exec (.deadTarget tag) s = .next s) ∧
      (∀ tk o, r.owner = .inval tk → opGet s tk = some o → o.phase ≠ .ended → o.phase ≠ .recorded → o.await = 1 → o.status = 0 →
        s.isf.deadSeen = [] →
        (excluded s r.pkt.pkt.dst = true ∨ r.ups ≠ 0 ∧ r.sent.toNat + deadBound s ≤ s.clk.bell.toNat) →
        ∃ t, exec (.deadTarget tag) s = .next t ∧ Say.over t tk 4 ∧ outReq t tag = none ∧
          Say.noted s t 0x0D 0 r.pkt.pkt.dst.toNat 1) ∧
      (∀ ld dpa want, r.owner = .load ld dpa want → s.isf.deadSeen = [] → r.ups ≠ 0 → r.sent.toNat + deadBound s ≤ s.clk.bell.toNat →
        ∃ t, exec (.deadTarget tag) s = .next t ∧
          t.cxd.hostOut = s.cxd.hostOut ++ [.data ld dpa (BitVec.ofNat 512 (2 ^ 512 - 1)) true .uncached]) ∧
      (r.resend ≠ some false → exec (.reduceResend tag) s = .next s) ∧
      (r.resend ≠ some true → exec (.editionResend tag) s = .next s) ∧
      (∀ i b, (i, b) ∈ [(Instr.reduceResend tag, false), (Instr.editionResend tag, true)] → r.resend = some b →
        (b = false → r.pkt.pkt.dst ≠ ownNode s) →
        ∃ t r', exec i s = .next t ∧ Say.sent t r.pkt ∧ outReq t tag = some r' ∧ r'.pkt = r.pkt ∧ r'.resend = none ∧ r'.again = true ∧
          t.ctxs = s.ctxs ∧ t.mem = s.mem)) ∧
    (∀ b : BitVec 52, (s.phase ≠ .running ∨ (∀ w ∈ s.isf.lstores, w.block ≠ b.toNat)) → exec (.landingStoreFlush b) s = .next s) ∧
    (∀ (b : BitVec 52) (w : LStore) bs, s.phase = .running → (s.isf.lstores.filter fun y => y.block = b.toNat) = [w] → bs ≠ [] →
      w.bytes = bs.map some → w.at_ + bs.length ≤ 4096 → w.poison = false →
      (excluded s (BitVec.ofNat 14 (b.toNat / 2 ^ 38)) = true → ∃ t, exec (.landingStoreFlush b) s = .next t ∧
        (∀ y ∈ t.isf.lstores, y.block ≠ b.toNat) ∧ t.cxd.hostOut = s.cxd.hostOut ++ [.done w.ld w.dpa true] ∧ t.isf.out = s.isf.out ∧
        t.mem = s.mem) ∧
      (excluded s (BitVec.ofNat 14 (b.toNat / 2 ^ 38)) = false → ∃ t q, exec (.landingStoreFlush b) s = .next t ∧ (∀ y ∈ t.isf.lstores, y.block ≠ b.toNat) ∧ q ∈ t.isf.out ∧
        q.owner = .store [(w.ld, w.dpa)] ∧ q.pkt.pkt.op = 3 ∧ q.pkt.pkt.dst.toNat = b.toNat / 2 ^ 38 ∧
        q.pkt.pkt.off.toNat = b.toNat % 2 ^ 38 * 4096 + w.at_ ∧ q.pkt.pkt.data = bs ∧ q.pkt.pkt.arg = 0 ∧
        q.pkt.pkt.tag = s.isf.nextTag ∧ Say.sent t q.pkt)))

/-- Membership messages: a HELLO and a LEAVE of a slot are noted, a BEAT ends a slot's silence, the first
proposal of the next view is accepted and answered, a newer view that has this device is installed and recorded; a malformed
payload is dropped and counted; an image offered while one is awaited is asked for, piece by piece, beside those offered before it
(R263, R264, R374). The model's choices: the members that a device counts (log entry 40), the modes of ISF_MEMB (log entry 102), that
LEAVE and OFFER are taken in and not sent (log entry 129), an offer repeated (log entry 155). -/
def Obligations.Membership : Prop :=
  (∀ (k : Packet) (s u : State) (slot : Nat) (i : Instr) (n : Nat), (i, n) ∈ [(.memberHello k, 0), (.memberBeat k, 1), (.memberPropose k, 2),
      (.memberAccept k, 3), (.memberCommit k, 4), (.memberLeave k, 5)] → Say.inAt 0xB k s u →
    (k.arg.toNat ≠ n → exec i s = .next s) ∧
    (k.arg.toNat = n → (k.data.length ≠ 16 ∨ bf (ofLe k.data) 0 59 ≠ 0) → exec i s = .next (dropPacket u)) ∧
    (k.arg.toNat = n → k.data.length = 16 → bf (ofLe k.data) 0 59 = 0 →
      ((slotsOf s k.src = [] ∨ membOn s = false) → exec i s = .next u) ∧
      ((slotsOf s k.src).head? = some slot → membOn s = true →
        (n = 1 → exec i s = .next (setMemb u { s.isf.memb with
          silent := Machine.tset 0 s.isf.memb.silent slot 0, hellos := s.isf.memb.hellos &&& ~~~slotBit slot })) ∧
        (n = 0 → leader s ≠ some (ownSlotNo s) →
          exec i s = .next (setMemb u { s.isf.memb with hellos := s.isf.memb.hellos ||| slotBit slot })) ∧
        (n = 5 → leader s ≠ some (ownSlotNo s) →
          exec i s = .next (setMemb u { s.isf.memb with leaves := s.isf.memb.leaves ||| slotBit slot })) ∧
        (n = 2 → (mbView k ≠ s.isf.memb.view.toNat + 1 ∨ (viewMembers s).toNat.testBit (ownSlotNo s) = false ∨
            ∃ q m, s.isf.memb.accepted = some (q, m) ∧ q < mbSlot k) → exec i s = .next u) ∧
        (n = 2 → mbView k = s.isf.memb.view.toNat + 1 → (viewMembers s).toNat.testBit (ownSlotNo s) = true →
            (∀ q m, s.isf.memb.accepted = some (q, m) → mbSlot k ≤ q) →
          ∃ t, exec i s = .next t ∧ t.isf.memb = { s.isf.memb with accepted := some (mbSlot k, mbMembers k) } ∧
            ∀ d, slotNode s (mbSlot k) = some d → ∃ o, Say.sent t o ∧ o.pkt.op = 0xB ∧ o.pkt.dst = d ∧ o.pkt.arg = 3 ∧
              mbView o.pkt = mbView k ∧ mbMembers o.pkt = mbMembers k ∧ mbSlot o.pkt = mbSlot k) ∧
        (n = 3 → s.isf.memb.proposal = none → exec i s = .next u) ∧
        (n = 4 → (mbView k ≤ s.isf.memb.view.toNat ∨ (mbMembers k).toNat.testBit (ownSlotNo s) = false) → exec i s = .next u) ∧
        (n = 4 → s.isf.memb.view.toNat < mbView k → (mbMembers k).toNat.testBit (ownSlotNo s) = true →
          ∃ t, exec i s = .next t ∧ t.isf.memb.view.toNat = mbView k ∧ t.isf.memb.members = mbMembers k ∧ t.isf.memb.proposal = none ∧
            t.isf.memb.accepted = none ∧
            (s.isf.out = [] → s.qpe.ctxs = [] → Say.noted s t 0x0F 0 (mbView k) (mbMembers k).toNat))))) ∧
  (∀ (k : Packet) (s u : State) (slot : Nat) (q : Proposal), Say.inAt 0xB k s u → k.arg = 3 → k.data.length = 16 → bf (ofLe k.data) 0 59 = 0 →
    (slotsOf s k.src).head? = some slot → membOn s = true → s.isf.memb.proposal = some q →
    mbView k = s.isf.memb.view.toNat + 1 → mbSlot k = ownSlotNo s → mbMembers k = q.members → q.periods < 2 →
    q.members.toNat.testBit (ownSlotNo s) = true →
    (2 * (slotsIn ((q.accepts ||| slotBit slot) &&& viewMembers s)).length ≤ (slotsIn (viewMembers s)).length →
      exec (.memberAccept k) s = .next (setMemb u { s.isf.memb with proposal := some { q with accepts := q.accepts ||| slotBit slot } })) ∧
    ((slotsIn (viewMembers s)).length < 2 * (slotsIn ((q.accepts ||| slotBit slot) &&& viewMembers s)).length →
      s.isf.memb.view.toNat + 1 < 2 ^ 32 →
      ∃ t, exec (.memberAccept k) s = .next t ∧ t.isf.memb.view.toNat = s.isf.memb.view.toNat + 1 ∧ t.isf.memb.members = q.members ∧
        t.isf.memb.proposal = none)) ∧
  (∀ (k : Packet) (s u : State) (len off : Nat), Say.inAt 0xB k s u → k.data.length = 16 → bf (ofLe k.data) 0 59 = 0 → len = mbView k →
    off = (mbMembers k).toNat →
    (k.arg.toNat ≠ 6 → exec (.memberOffer k) s = .next s) ∧
    (k.arg.toNat = 6 →
      ((s.phase ≠ .waitImage ∨ slotsOf s k.src = [] ∨ s.sec.imageSrc ≠ 0 ∨ (∃ x ∈ s.sec.offers, x.id = k.src.toNat * 2 ^ 64 + off)) →
        exec (.memberOffer k) s = .next u) ∧
      (s.phase = .waitImage → slotsOf s k.src ≠ [] → s.sec.imageSrc = 0 → (∀ x ∈ s.sec.offers, x.id ≠ k.src.toNat * 2 ^ 64 + off) →
        len = 0 → exec (.memberOffer k) s = .next { u with sec := { u.sec with image := [], imageSrc := 2 } }) ∧
      (s.phase = .waitImage → slotsOf s k.src ≠ [] → s.sec.imageSrc = 0 → (∀ x ∈ s.sec.offers, x.id ≠ k.src.toNat * 2 ^ 64 + off) →
        0 < len → excluded s k.src = false →
        ∃ t, exec (.memberOffer k) s = .next t ∧ t.mem = s.mem ∧
          t.sec.offers = s.sec.offers ++ [{ id := k.src.toNat * 2 ^ 64 + off, len := len, buf := [] }] ∧
          ∀ i, i < ceilDiv len 4096 → Say.asked t (.boot (k.src.toNat * 2 ^ 64 + off) (4096 * i)) 1 k.src (sramBase + off + 4096 * i)
            (min 4096 (ceilDiv (len - 4096 * i) 64 * 64)) []))) ∧
  ∀ (s : State),
    (s.isf.memb.proposal = none → exec .proposalTimeout s = .next s) ∧
    (∀ q, s.isf.memb.proposal = some q → (membOn s = false ∨ q.periods < 2) → exec .proposalTimeout s = .next s) ∧
    (∀ q, s.isf.memb.proposal = some q → membOn s = true → 2 ≤ q.periods → leader s ≠ some (ownSlotNo s) →
      exec .proposalTimeout s = .next (setMemb s { s.isf.memb with proposal := none })) ∧
    ((membOn s = false ∨ s.isf.memb.waiting < 8) → exec .memberMinority s = .next s) ∧
    (membOn s = true → 8 ≤ s.isf.memb.waiting → ∃ t, exec .memberMinority s = .next t ∧
      t.isf = { s.isf with memb := { s.isf.memb with waiting := 0 } } ∧
      Say.noted s t 0x10 0 s.isf.memb.view.toNat (suspects s).toNat) ∧
    (s.phase ≠ .waitImage → membOn s = false → exec .memberPeriod s = .next s) ∧
    (membOn s = true → ∃ t w, exec .memberPeriod s = .next t ∧ t = proposeIfNeeded w ∧ w = { s with isf := w.isf } ∧
      w.isf.memb.members = s.isf.memb.members ∧ w.isf.memb.view = s.isf.memb.view ∧
      (∀ k, tget 0 w.isf.memb.silent k = tget 0 s.isf.memb.silent k +
        if k < 32 ∧ k ≠ ownSlotNo s ∧ (viewMembers s).toNat.testBit k = true then 1 else 0) ∧
      ∀ k n, k < 32 → k ≠ ownSlotNo s → slotNode s k = some n → ∃ o, Say.sent w o ∧ o.pkt.op = 0xB ∧ o.pkt.dst = n ∧
        o.pkt.arg = (if (viewMembers s).toNat.testBit (ownSlotNo s) then 1 else 0)) ∧
    (s.phase = .waitImage → s.isf.nodeValid = true → ∃ t, exec .memberPeriod s = .next t ∧ t.mem = s.mem ∧ t.isf.memb = s.isf.memb ∧
      ∀ k n, k < 32 → k ≠ ownSlotNo s → slotNode s k = some n → ∃ o, Say.sent t o ∧ o.pkt.op = 0xB ∧ o.pkt.dst = n ∧ o.pkt.arg = 0)

/-! ## Queue-pair packets and events (R269 to R284) -/

/-- A packet of a kind comes in for queue pair n, whose context c is resident, with a well-formed header and nothing of the pair
parked before it. -/
def Sys2Proof.Say.qpIn (kind : Nat) (k : Packet) (s u : State) (n : Nat) (c : QpCtx) : Prop :=
  Say.inAt 0xC k s u ∧ k.arg.toNat = kind ∧ 48 ≤ k.data.length ∧ bf (qpHdr k) 0 18 = 0 ∧ n = hDqpn (qpHdr k) ∧ c = qpGet s n ∧
  c.state ≠ 0 ∧ qpResident s n = true ∧ (∀ p ∈ s.qpe.parked, p.1 ≠ n) ∧ heldBefore s k = false ∧ Quiet s

/-- A packet of a kind and PSN was sealed and sent for the queue pair. -/
def Sys2Proof.Say.qpSaid (t : State) (c : QpCtx) (kind psn aux : Nat) : Prop :=
  ∃ o, Say.sent t o ∧ o.pkt.op = 0xC ∧ o.pkt.dst = c.rnode ∧ o.pkt.arg.toNat = kind ∧ (hPsn (qpHdr o.pkt)).toNat = psn ∧
    hAux (qpHdr o.pkt) = aux

/-- A queue pair in ERROR: what it held is dropped, its cause is named, its sends have ended (R281). -/
def Sys2Proof.Say.qpDown (s t : State) (n : Nat) (cause : Byte) : Prop :=
  (qpGet t n).state = 4 ∧ (qpGet t n).ecause = cause ∧ (∀ p ∈ t.qpe.pkts, p.qpn.toNat ≠ n) ∧ (∀ m ∈ t.qpe.msgs, m.qpn.toNat ≠ n) ∧
  (∀ p ∈ t.qpe.parked, p.1 ≠ n) ∧ (qpGet t n).rhead = (qpGet t n).rtail ∧ (∀ m, m ≠ n → qpGet t m = qpGet s m)

/-- What every queue-pair packet meets: of another kind it is not this command's; malformed it is dropped and counted; in
RESET it has no effect; without its context it parks while that is fetched; with a tag that fails it is counted and has no
effect (R271, R272, R274). A DATA packet whose tag is good: in ERROR it is answered NAK FLUSHED; one seen before changes
nothing in memory; one without a receive entry is answered RNR; the whole of a message is written to its entry's buffer, its
entry is completed, its tally counts it and an ACK goes (R277 to R279). The model's choices: what a pair in RESET, a worn slot and
an unkeyed slot meet (log entry 86), an unreadable receive ring (log entry 87). -/
def Obligations.QueuePairData : Prop :=
  (∀ (k : Packet) (s u : State) (i : Instr) (kind n : Nat),
    (i, kind) ∈ [(.qpData k, 0), (.qpAck k, 1), (.qpRnr k, 2), (.qpNak k, 3), (.qpCancel k, 4)] → Quiet s → heldBefore s k = false →
    ((if 5 ≤ k.arg.toNat % 16 then 0 else k.arg.toNat % 16) ≠ kind → exec i s = .next s) ∧
    (Say.inAt 0xC k s u → (if 5 ≤ k.arg.toNat % 16 then 0 else k.arg.toNat % 16) = kind → n = hDqpn (qpHdr k) →
      ((k.data.length < 48 ∨ bf (qpHdr k) 0 18 ≠ 0 ∨ 5 ≤ k.arg.toNat) →
        ∃ t, exec i s = .next t ∧ t.isf = (dropPacket u).isf ∧ t.qpe = s.qpe ∧ t.mem.cells = s.mem.cells ∧ t.ops = s.ops) ∧
      (48 ≤ k.data.length → bf (qpHdr k) 0 18 = 0 → k.arg.toNat < 5 →
        ((qpGet s n).state = 0 → ∃ t, exec i s = .next t ∧ t.isf = u.isf ∧ t.qpe = s.qpe ∧ t.mem.cells = s.mem.cells ∧ t.ops = s.ops) ∧
        ((qpGet s n).state ≠ 0 → qpResident s n = false → n ∉ s.qpe.refused → parkFits s k = true →
          ∃ t, exec i s = .next t ∧ t.isf = u.isf ∧ t.qpe.parked = s.qpe.parked ++ [(n, .context, k)] ∧
            (∃ x ∈ t.qpe.fetching, x.1 = n) ∧ t.qpe.ctxs = s.qpe.ctxs ∧ t.mem.cells = s.mem.cells) ∧
        ((qpGet s n).state ≠ 0 → qpResident s n = true → (∀ p ∈ s.qpe.parked, p.1 ≠ n) → (kind = 2 → bareRnr (qpHdr k) = false) →
          qpOpen s n k = none →
          ∃ t, exec i s = .next t ∧ t.isf = u.isf ∧ t.mem.cells = s.mem.cells ∧ t.qpe.pkts = s.qpe.pkts ∧ t.qpe.msgs = s.qpe.msgs ∧
            t.qpe.rx = s.qpe.rx ∧ t.ops = s.ops ∧
            qpGet t n = { qpGet s n with authfail := BitVec.ofNat 32 (min ((qpGet s n).authfail.toNat + 1) (2 ^ 32 - 1)) } ∧
            t.qpe.authfail.toNat = min (s.qpe.authfail.toNat + 1) (2 ^ 64 - 1))))) ∧
  (∀ (k : Packet) (s u : State) (n h d i : Nat) (c : QpCtx) (data : List Byte), Say.qpIn 0 k s u n c → h = qpHdr k →
    qpOpen s n k = some data → qpWorn c = false → d = (hPsn h - c.epsn).toNat → i = (hMsn h - c.rmsn).toNat →
    (c.state = 4 → ∃ t, exec (.qpData k) s = .next t ∧ Say.qpSaid t c 3 (hPsn h).toNat 8 ∧ t.mem.cells = s.mem.cells) ∧
    (c.state ≠ 4 → (2 ^ 31 < d ∨ (d < 256 ∧ c.rwin.toNat.testBit d = true)) →
      ∃ t, exec (.qpData k) s = .next t ∧ t.mem.cells = s.mem.cells ∧ (qpGet t n).rwin = c.rwin ∧ (qpGet t n).epsn = c.epsn ∧
        (tget 0 s.qpe.needAck n + 1 < 16 → tget 0 t.qpe.needAck n = tget 0 s.qpe.needAck n + 1) ∧
        (16 ≤ tget 0 s.qpe.needAck n + 1 → Say.qpSaid t c 1 c.epsn.toNat (c.rwin.toNat / 2 % 2 ^ 64) ∧ tget 0 t.qpe.needAck n = 0)) ∧
    (c.state ≠ 4 → d < 256 → c.rwin.toNat.testBit d = false → rxFind s n (hMsn h) = none → i < 2 ^ 23 → qpPosted c ≤ i →
      ∃ t, exec (.qpData k) s = .next t ∧ t.mem.cells = s.mem.cells ∧
        Say.qpSaid t c 2 (hPsn h).toNat (s.qpe.rnrHint.toNat + 1 * 2 ^ 8) ∧ (qpGet t n).rwin = c.rwin ∧
        (qpGet t n).rnrsent.toNat = min (c.rnrsent.toNat + 1) (2 ^ 24 - 1)) ∧
    ∀ e a, c.state ≠ 4 → d = 0 → i = 0 → c.rwin = 0 → (∀ x ∈ s.qpe.rx, x.qpn.toNat ≠ n) → qpPosted c ≠ 0 → c.rhost = false → c.pen = false →
      poisoned s (rxAddr c 0) 32 = false → opMemOk s 1 c.part true (rxAddr c 0) 32 = true → e = BitVec.ofNat 256 (memNum s (rxAddr c 0) 32) →
      a = eAddr e → eReg e = false → hMoff h = 0 → hLast h = true → hMlm1 h + 1 = data.length → data.length ≤ eCap e →
      opMemOk s 1 c.part true a data.length = true → Say.apart (a, data.length) (rxAddr c 0, 32) →
      Say.keeps s a → Say.keeps s (rxAddr c 0) →
      ∃ t, exec (.qpData k) s = .next t ∧ memRead t a data.length = data ∧ Say.only s t [(a, data.length), (rxAddr c 0, 32)] ∧
        memNum t (rxAddr c 0) 32 = (setF (setF (setF (setF e 95 25 data.length) 120 24 (hMsn h).toNat) 144 8 0) 152 1 1).toNat ∧
        (qpGet t n).epsn = c.epsn + 1 ∧ (qpGet t n).rhead = c.rhead + 1 ∧ (qpGet t n).rmsn = c.rmsn + 1 ∧
        Say.qpSaid t c 1 (c.epsn + 1).toNat 0 ∧
        ∀ j, (tally t j).toNat = if e.toNat.testBit 154 = true ∧ j = getF e 155 12 then min ((tally s j).toNat + data.length) (2 ^ 64 - 1)
          else (tally s j).toNat)

/-- The slot that a fetch reads from host memory opens under the sealing key, for the count of the last eviction (R269). -/
def Sys2Proof.Say.qpOpens (s : State) (n : Nat) (slot pt : List Byte) : Prop :=
  gcmDecrypt (leBytes 32 s.qpe.sealKey.toNat) (leBytes 4 n ++ (slot.drop 272).take 8) (leBytes 4 n) (slot.take 256)
    ((slot.drop 256).take 16) = (pt, true) ∧ ofLe ((slot.drop 272).take 8) = (tget 0 s.qpe.evicts n).toNat

/-- The place among the ports in use that a packet sent again takes: the next after the port it last left by (R276). -/
def Sys2Proof.Say.nextPort (s : State) (p : QpPkt) (r : Nat) : Prop :=
  (p.port = none → r = p.route + 1) ∧
  (∀ k i u, p.port = some k → (upPorts s)[i]? = some u → k < u → (∀ j v, j < i → (upPorts s)[j]? = some v → v ≤ k) → r = i) ∧
  (∀ k, p.port = some k → (∀ u ∈ upPorts s, u ≤ k) → r = 0)

/-- The other packets: an ACK takes what it covers off the packets that wait; an RNR delays its packet, and past its limit is
the end of the pair; a NAK other than POLICED is its end, with its status, or PROTECT where that is no code of R8; CANCEL marks a
message cancelled (R277, R281, R284). The timers: an ACK that is owed goes; a packet not acknowledged in time is sent again on the
next port, and past its limit is the end of the pair; a context that comes back resident is as its slot holds it, one whose slot
does not open is as in RESET and recorded; a slow fetch turns away what waits for it; a page that does not come within the limit
turns away what has waited as long; a shaper lets a packet go that its bucket now pays (R269 to R271, R276, R277, R280, R283). The
model's choices: a NAK whose status is no code (log entry 39), what a worn slot holds and who reports the waits that are over (log
entry 86), an unreadable receive ring (log entry 87), the sealing key and its count (log entry 131). -/
def Obligations.QueuePairEvents : Prop :=
  (∀ (k : Packet) (s u : State) (n h : Nat) (c : QpCtx) (data : List Byte), h = qpHdr k → qpOpen s n k = some data →
    (Say.qpIn 1 k s u n c →
      (newer 32 (hPsn h).toNat c.spsn.toNat = true → ∃ t, exec (.qpAck k) s = .next t ∧ t.qpe.pkts = s.qpe.pkts ∧ qpGet t n = c) ∧
      (newer 32 (hPsn h).toNat c.spsn.toNat = false → newer 32 (hPsn h).toNat c.una.toNat = true → hAux h = 0 → s.qpe.msgs = [] →
        s.qpe.shWait = [] →
        ∃ t, exec (.qpAck k) s = .next t ∧ (qpGet t n).una = hPsn h ∧ (qpGet t n).rcnt = 0 ∧ (qpGet t n).rnrcnt = 0 ∧
          ∀ p, p ∈ t.qpe.pkts ↔ p ∈ s.qpe.pkts ∧ ¬(p.qpn.toNat = n ∧ newer 32 (hPsn h).toNat p.psn.toNat = true))) ∧
    (Say.qpIn 2 k s u n c → bareRnr h = false → ∀ p, p ∈ s.qpe.pkts → (s.qpe.pkts.filter fun q => q.qpn.toNat = n && q.psn = hPsn h) = [p] →
      ((c.rnrlimit = 7 ∨ c.rnrcnt.toNat + 1 ≤ c.rnrlimit.toNat) → ∃ t, exec (.qpRnr k) s = .next t ∧
        (∃ q ∈ t.qpe.pkts, q.qpn = p.qpn ∧ q.psn = p.psn ∧ q.hold = BitVec.ofNat 8 (hAux h)) ∧
        (qpGet t n).rnrcnt.toNat = min 7 (c.rnrcnt.toNat + 1) ∧ (qpGet t n).rnrrecv.toNat = min (c.rnrrecv.toNat + 1) (2 ^ 24 - 1) ∧
        t.mem.cells = s.mem.cells) ∧
      (c.rnrlimit.toNat < 7 → c.rnrlimit.toNat < c.rnrcnt.toNat + 1 → ∃ t, exec (.qpRnr k) s = .next t ∧ Say.qpDown s t n 4)) ∧
    (Say.qpIn 3 k s u n c → c.state ≠ 4 → bf (hAux h) 0 8 ≠ 9 →
      ∃ t, exec (.qpNak k) s = .next t ∧ Say.qpDown s t n (if bf (hAux h) 0 8 ≤ 11 then BitVec.ofNat 8 (hAux h) else 7)) ∧
    (Say.qpIn 3 k s u n c → c.state = 4 → ∃ t, exec (.qpNak k) s = .next t ∧ qpGet t n = c ∧ t.mem.cells = s.mem.cells) ∧
    (Say.qpIn 4 k s u n c → c.state ≠ 4 → (hMsn h - c.rmsn).toNat < 2 ^ 23 → rxFind s n (hMsn h) = none →
      qpPosted c ≤ (hMsn h - c.rmsn).toNat → (∀ x ∈ s.qpe.rx, x.qpn.toNat ≠ n) →
      ∃ t x, exec (.qpCancel k) s = .next t ∧ rxFind t n (hMsn h) = some x ∧ x.cancelled = true ∧ x.done = false ∧
        t.mem.cells = s.mem.cells ∧ qpGet t n = c)) ∧
  (∀ (q : Qpn) (s : State) (n : Nat) (c : QpCtx), n = q.toNat → c = qpGet s n → s.phase = .running →
    (tget 0 s.qpe.needAck n = 0 → exec (.qpAckTimer q) s = .next s) ∧
    (tget 0 s.qpe.needAck n ≠ 0 → qpWorn c = false → ∃ t, exec (.qpAckTimer q) s = .next t ∧
      Say.qpSaid t c 1 c.epsn.toNat (c.rwin.toNat / 2 % 2 ^ 64) ∧ tget 0 t.qpe.needAck n = 0 ∧ t.mem = s.mem) ∧
    (∀ psn, (∀ p ∈ s.qpe.pkts, ¬(p.qpn = q ∧ p.psn = psn)) → exec (.qpRetransmitTimeout q psn) s = .next s) ∧
    (∀ p, p ∈ s.qpe.pkts → p.qpn = q → p.moff < 2 ^ 24 → p.mlm1 < 2 ^ 24 →
      (s.qpe.pkts.filter fun x => x.qpn = q && x.psn = p.psn) = [p] →
      (Quiet s → c.rlimit.toNat < c.rcnt.toNat + 1 → ∃ t, exec (.qpRetransmitTimeout q p.psn) s = .next t ∧ Say.qpDown s t n 4) ∧
      (c.rcnt.toNat + 1 ≤ c.rlimit.toNat → c.shen = false → qpWorn c = false → s.qpe.shWait = [] →
        ∃ t o, exec (.qpRetransmitTimeout q p.psn) s = .next t ∧ (qpGet t n).rcnt.toNat = c.rcnt.toNat + 1 ∧
          (qpGet t n).txpkts.toNat = min (c.txpkts.toNat + 1) (2 ^ 48 - 1) ∧ Say.sent t o ∧ Say.nextPort s p o.route ∧ o.pkt.arg = 0 ∧
          hPsn (qpHdr o.pkt) = p.psn ∧ hMsn (qpHdr o.pkt) = p.msn ∧ t.mem = s.mem)) ∧
    ((∀ x ∈ s.qpe.fetching, x.1 ≠ n) → ∀ b, exec (.qpContextFetched q b) s = .next s ∧ exec (.qpFetchSlow q) s = .next s) ∧
    (∀ x slot a, x ∈ s.qpe.fetching → x.1 = n → s.qpe.cached.length < 1024 → .qpRing q ∉ s.mem.works → .qpFetch q slot ∉ s.mem.works →
      s.mem.access = none → a = s.qpe.base.toNat * 64 + 320 * n →
      (((s.qpe.host = true ∧ ∀ pt, ¬Say.qpOpens s n slot pt) ∨ (s.qpe.host = false ∧ poisoned s a 320 = true)) →
        ∃ t, exec (.qpContextFetched q slot) s = .next t ∧ qpGet t n = {} ∧ n ∈ t.qpe.corrupt ∧
          (∀ p ∈ t.qpe.parked, p.1 ≠ n) ∧ Say.noted s t 0x11 0 n 0 ∧ (∀ y ∈ t.qpe.fetching, y.1 ≠ n)) ∧
      (∀ pt, s.qpe.host = true → Say.qpOpens s n slot pt → c.state ≠ 4 → (∀ p ∈ s.qpe.parked, p.1 ≠ n) →
        ∃ t, exec (.qpContextFetched q slot) s = .next t ∧ qpResident t n = true ∧
          qpGet t n = { qpParse (ofLe pt) with rnrsent := c.rnrsent } ∧ (∀ y ∈ t.qpe.fetching, y.1 ≠ n) ∧ t.mem = s.mem) ∧
      (s.qpe.host = false → poisoned s a 320 = false → (∀ p ∈ s.qpe.parked, p.1 ≠ n) →
        ∃ t, exec (.qpContextFetched q slot) s = .next t ∧ qpResident t n = true ∧ t.mem = s.mem ∧
          qpGet t n = { qpParse (memNum s a 256) with rnrsent := c.rnrsent }) ∧
      ∃ t, exec (.qpFetchSlow q) s = .next t ∧ (∀ p ∈ t.qpe.parked, p.1 ≠ n) ∧ t.qpe.fetching = s.qpe.fetching ∧ t.mem = s.mem ∧
        ∀ p k, (s.qpe.parked.filter fun y => y.1 = n) = [p] → k = p.2.2 →
          ∃ o, Say.sent t o ∧ o.pkt.dst = k.src ∧ o.pkt.arg = 2 ∧ hAux (qpHdr o.pkt) = 10 + 3 * 2 ^ 8 + 2 ^ 10) ∧
    (∃ t, exec (.qpPageWaitLimit q) s = .next t ∧ (∀ p ∈ t.qpe.parked, p.1 = n → pageOver s p.2.1 = false) ∧
      ((∀ p ∈ s.qpe.parked, p.1 = n → pageOver s p.2.1 = false) → t.qpe.parked = s.qpe.parked) ∧
      (∀ x, x ∈ t.qpe.sendWait ↔ x ∈ s.qpe.sendWait ∧ ¬(x.1 = n ∧ pageWaited s x.2.2.2.2 = true)) ∧
      ∀ x o, x ∈ s.qpe.sendWait → x.1 = n → pageWaited s x.2.2.2.2 = true → (∀ m ∈ s.qpe.msgs, m.ticket ≠ x.2.1) →
        opGet s x.2.1 = some o → Say.over t x.2.1 7) ∧
    (∀ since : Word, pageWaited s since = true ↔ (s.qpe.odpLimit.toNat * 400 + s.clk.div.toNat - 1) / s.clk.div.toNat ≤
      (s.clk.bell - since).toNat) ∧
    (∀ (i : Fin 64), (∀ w ∈ s.qpe.shWait, w.1 ≠ i.val) → exec (.shaperRelease i) s = .next s) ∧
    (∀ (i : Fin 64) p cost, s.qpe.shWait = [(i.val, n, some p.psn)] → (s.qpe.pkts.filter fun x => x.qpn = q && x.psn = p.psn) = [p] →
      p.moff < 2 ^ 24 → p.mlm1 < 2 ^ 24 → s.qpe.msgs = [] → c.shen = true → c.shaper.toNat = i.val → qpWorn c = false →
      cost = 256 * (32 + ((48 + p.data.length : Nat) : Int) + (tget 0 s.qpe.shapeOvhOn i.val).toInt).toNat →
      (tget 0 s.qpe.shapeB i.val < cost → exec (.shaperRelease i) s = .next s) ∧
      (cost ≤ tget 0 s.qpe.shapeB i.val → ∃ t o, exec (.shaperRelease i) s = .next t ∧ t.qpe.shWait = [] ∧
        tget 0 t.qpe.shapeB i.val = tget 0 s.qpe.shapeB i.val - cost ∧ Say.sent t o ∧ Say.nextPort s p o.route ∧
        hPsn (qpHdr o.pkt) = p.psn ∧ t.mem = s.mem)))

/-! ## The host: its link, its loads and stores, lines it holds, extents (R286 to R302, R356) -/

/-- Nothing waits for memory: no access, no load for a way of the directory, no work, no context. -/
def Sys2Proof.Say.idle (s : State) : Prop :=
  s.mem.waiting = [] ∧ s.cxd.accepted = [] ∧ s.mem.works = [] ∧ ∀ c, stateOf (ctxGet s c) ≠ 3

/-- A disabled logical device that the attachment has is enabled; a disable drops its lines, aborts its operations that have
not committed and its admitted requests, and leaves it DISABLING, and its end empties its queues, ends its contexts, zeroes its
tallies, and disarms its arms, their messages sent (R299, R300). The host
link trains to a result it can have, and without a switch enables logical device 0; it goes down, or its IDE fails, and every
logical device of it is disabled; a function-level reset leaves its device enabled anew, after the record that its ring is taking
(R395); IDE keys are taken in an open session, for no more streams of a kind than the port has (R286, R287, R299, R301, R302, R356,
R370). The model's choices: a command that the state does not enable changes nothing (log entry 2), the lanes of a port (log entry 119),
what a disable aborts at once (log entry 83), a reset in one step (log entry 78). -/
def Obligations.HostLinkAndDevices : Prop :=
  (∀ (s : State) (ld : LdId) (a : Agent), s.phase = .running → stewardAgent s a = true →
    ((ldGet s ld).state = 2 → (ld = 0 ∨ s.cxd.viaSwitch = true) →
      exec (.ldEnable a ld) s = .next (ldSet s ld { ldGet s ld with state := 0 })) ∧
    (((ldGet s ld).state ≠ 2 ∨ (ld ≠ 0 ∧ s.cxd.viaSwitch = false)) → exec (.ldEnable a ld) s = .next s) ∧
    (((ldGet s ld).state = 1 ∨ (ldGet s ld).state = 2) → exec (.ldDisable a ld) s = .next s) ∧
    (((ldGet s ld).state = 0 ∨ (ldGet s ld).state = 3) → Say.idle s → ∃ t, exec (.ldDisable a ld) s = .next t ∧ (ldGet t ld).state = 1 ∧
      (∀ d ∈ t.cxd.dir, d.ld ≠ ld) ∧ (∀ r ∈ t.cxd.recalls, r.ld ≠ ld) ∧ memServed t ld = false ∧
      (∀ m, m ≠ ld → ldGet t m = ldGet s m) ∧
      (s.qpe.ctxs = [] →
        (∀ tk o, opGet s tk = some o → o.ld = ld → (∀ r ∈ s.isf.out, commits r.owner ≠ some tk) →
          ((o.phase = .queued ∨ (o.phase = .launched ∧ hasWritten o = false ∧ o.held = none ∧ ¬(o.cls = 8 ∧ o.op = 5))) → Say.over t tk 1) ∧
          (o.phase = .committed → ∃ o', opGet t tk = some o' ∧ o'.phase = .committed ∧ o'.status = o.status)) ∧
        ∀ r e, s.ldg.spilled = [] → (r, e) ∈ s.ldg.entries → e.ld = ld → e.state = 1 → e.request.toNat = r →
          (∀ x ∈ s.ldg.entries, x.1 = r ∨ x.2.request.toNat = r → x = (r, e)) →
          (entryOf t r).state = 6 ∧ (entryOf t r).status = 1)) ∧
    (∀ m, exec (.ldEnable (.host m) ld) s = .next s ∧ exec (.ldDisable (.host m) ld) s = .next s)) ∧
  (∀ (s : State) (ld : LdId), (s.phase = .running ∨ s.phase = .waitImage) →
    (((ldGet s ld).state ≠ 1 ∨ ringBusy s ld = true) → exec (.ldDisableComplete ld) s = .next s) ∧
    ((ldGet s ld).state = 1 → ringBusy s ld = false → ∃ t, exec (.ldDisableComplete ld) s = .next t ∧
      ldGet t ld = { ldGet s ld with again := false, state :=
        if (ldGet s ld).again = true ∧ (ld = 0 ∨ s.cxd.viaSwitch = true) then 0 else 2 } ∧
      (∀ q, q < 1024 → (queueGet s q).ld = ld → (queueGet t q).head = (queueGet t q).tail) ∧
      (∀ c, c < 128 → ldOf (ctxGet s c) = ld.val → stateOf (ctxGet t c) = 0) ∧
      (∀ i, (ldGet s ld).tbase.toNat ≤ i → i < (ldGet s ld).tbase.toNat + (ldGet s ld).tcount.toNat → tally t i = 0) ∧
      (∀ k, k / 64 = ld.val → (tget {} t.arms k).armed = false ∧ (k % 64 < 60 → (tget {} t.arms k).due = false)) ∧ (ringGet t ld).en = false ∧
      (ringGet t ld).head = (ringGet s ld).tail)) ∧
  (∀ (s : State),
    (∀ tr, trainingOk tr = false ∨ s.cxd.up = true ∨ s.clk.refPresent = false ∨ unitIn s (uid 12 0) = false ∨
        widthCode (portWidth s 0) < tr.width →
      exec (.hostLinkTrain tr) s = .next s) ∧
    (∀ tr, (s.phase = .running ∨ s.phase = .waitImage) → trainingOk tr = true → s.cxd.up = false → s.clk.refPresent = true →
      unitIn s (uid 12 0) = true → tr.width ≤ widthCode (portWidth s 0) →
      ∃ t, exec (.hostLinkTrain tr) s = .next t ∧ t.cxd.up = true ∧ t.cxd.width = tr.width ∧ t.cxd.rate = tr.rate ∧
        t.cxd.flit256 = tr.flit256 ∧ t.cxd.memok = decide (tr.rate ≠ 0) ∧ t.cxd.viaSwitch = tr.viaSwitch ∧ t = { s with cxd := t.cxd } ∧
        (tr.viaSwitch = true → t.cxd.lds = s.cxd.lds) ∧
        (tr.viaSwitch = false → (ldGet s 0).state = 2 → (ldGet t 0).state = 0)) ∧
    (trainingOk ⟨0, 1, false, false⟩ = false ∧ trainingOk ⟨5, 2, false, false⟩ = false ∧ trainingOk ⟨5, 2, true, false⟩ = true ∧
      trainingOk ⟨5, 3, true, false⟩ = false ∧ trainingOk ⟨6, 1, true, false⟩ = false ∧ trainingOk ⟨1, 0, true, false⟩ = false) ∧
    (s.cxd.up = false → exec .hostLinkDown s = .next s) ∧
    (s.cxd.up = true → Say.idle s → ∃ t, exec .hostLinkDown s = .next t ∧ t.cxd.up = false ∧ t.cxd.memok = false ∧ t.cxd.ideKeys = [] ∧
      ∀ ld : LdId, (ldGet t ld).state ≠ 0 ∧ (ldGet t ld).state ≠ 3 ∧ memServed t ld = false) ∧
    ((s.cxd.up = false ∨ s.cxd.ideKeys = []) → exec .ideFailure s = .next s) ∧
    (s.cxd.up = true → s.cxd.ideKeys ≠ [] → Say.idle s → ∃ t, exec .ideFailure s = .next t ∧ t.cxd.ideInsecure = true ∧
      ∀ ld : LdId, memServed t ld = false ∧ (ldGet t ld).state ≠ 0) ∧
    (ideRoom .ioLink = 1 ∧ ideRoom .ioSelective = 2 ∧ ∀ b, ideRoom (.mem b) = 1) ∧
    (∀ k l, l = s.cxd.ideStreams.filter (fun x => x.1 ≠ k.stream.toNat) →
      (doeUp s = true → (∃ x ∈ s.cxd.sessions, x.open_ = true) → (l.countP fun x => sameKind x.2 k.kind) < ideRoom k.kind →
        exec (.ideKm k) s = .next { s with cxd := { s.cxd with
          ideKeys := Machine.tset 0 s.cxd.ideKeys k.stream.toNat k.key, ideStreams := l ++ [(k.stream.toNat, k.kind)],
          ideSkid := match k.kind with | .mem b => b | _ => s.cxd.ideSkid } }) ∧
      ((doeUp s = false ∨ (∀ x ∈ s.cxd.sessions, x.open_ = false) ∨ ideRoom k.kind ≤ l.countP fun x => sameKind x.2 k.kind) →
        exec (.ideKm k) s = .next s)) ∧
    (∀ ld : LdId, s.phase = .running → hostUp s = true → (ld = 0 ∨ s.cxd.viaSwitch = true) → Say.idle s →
      ∃ t, exec (.functionLevelReset ld) s = .next t ∧ (ldGet t ld).state = 0 ∧
        (((ldGet s ld).state = 0 ∨ (ldGet s ld).state = 3) → ∀ d ∈ t.cxd.dir, d.ld ≠ ld)) ∧
    (∀ (ld : LdId) x r u, s.phase = .running → hostUp s = true → (ld = 0 ∨ s.cxd.viaSwitch = true) → (ldGet s ld).state = 1 →
      s.mem.works = [.ring ld x r] → s.mem.waiting = [] → s.cxd.accepted = [] → (∀ c, stateOf (ctxGet s c) ≠ 3) →
      (ldGet s ld).again = false → u = { ldSet s ld { ldGet s ld with again := true } with mem := { s.mem with works := [] } } →
      ∃ t, exec (.functionLevelReset ld) s = .next t ∧ ringGo ld x r u = .next t ∧ (ldGet t ld).state = 1 ∧ (ldGet t ld).again = true) ∧
    (∀ ld : LdId, s.phase ≠ .running ∨ hostUp s = false ∨ (ld ≠ 0 ∧ s.cxd.viaSwitch = false) →
      exec (.functionLevelReset ld) s = .next s))

/-- A host load or store of a line: outside what its logical device holds and may use it is refused, with an event, a load
with poison and a store dropped; a load answers the line and its poison, a store writes its enabled bytes, and it waits where
its bank is busy or poison injected into its line waits; while the device is not served neither has an effect (R194, R290, R291, R293, R294, R298). Lines that hosts
hold: a load that acquires enters the directory; a release, or the answer to a recall, takes the line out, with its data where
it was held exclusively, which waits as an outside write does; a recall that is not answered in time fails the logical device, poisons what it held exclusively and
is recorded (R295 to R297). The model's choices: the way of a directory entry, and when a load enters it (log entry 82), which banks
a step boundary serves (log entry 61), loads while an extent is revoked (log entry 135), what a command that the state does not
enable does (log entry 2). -/
def Obligations.HostMemory : Prop :=
  (∀ (s : State) (ld : LdId) (dpa d : Word), d = BitVec.ofNat 64 (dpa.toNat / 64 * 64) →
    (memServed s ld = false → (∀ w e, exec (.hostMemRead ld dpa w e) s = .next s) ∧
      ∀ v b p, exec (.hostMemWrite ld dpa v b p) s = .next s) ∧
    (∀ st, memServed s ld = true → hostRefused s ld d.toNat = some st → (st = 7 ∨ st = 6) ∧
      (∀ w e, ∃ t r, exec (.hostMemRead ld dpa w e) s = .next t ∧ t.mem = s.mem ∧
        t.cxd.hostOut = s.cxd.hostOut ++ [.data ld d (BitVec.ofNat 512 (2 ^ 512 - 1)) true .uncached] ∧
        t.cxd.events = s.cxd.events ++ [r] ∧ r.log = ld.val ∧ r.status = st ∧ r.dpa = d ∧ r.handle = s.cxd.handle) ∧
      ∀ v b p, ∃ t r, exec (.hostMemWrite ld dpa v b p) s = .next t ∧ t.mem = s.mem ∧
        t.cxd.hostOut = s.cxd.hostOut ++ [.done ld d true] ∧ t.cxd.events = s.cxd.events ++ [r] ∧ r.log = ld.val ∧ r.status = st) ∧
    (∀ a, memServed s ld = true → hostRefused s ld d.toNat = none → dpaLocal s d.toNat = some a →
      (bankBusy s a 64 = false → .inject (a / 64) ∉ s.mem.waiting →
        ∃ t, exec (.hostMemRead ld dpa .uncached .none) s = .next t ∧ t.mem.cells = s.mem.cells ∧ t.cxd.dir = s.cxd.dir ∧
        t.cxd.hostOut = s.cxd.hostOut ++ [.data ld d (BitVec.ofNat 512 (memNum s a 64)) (poisoned s a 64) .uncached] ∧
        (poisoned s a 64 = true → ∃ r ∈ t.cxd.events, r.log = ld.val ∧ r.status = 3 ∧ r.dpa = d)) ∧
      ((bankBusy s a 64 = true ∨ .inject (a / 64) ∈ s.mem.waiting) →
        ∃ t, exec (.hostMemRead ld dpa .uncached .none) s = .next t ∧ t.mem.cells = s.mem.cells ∧ t.cxd.hostOut = s.cxd.hostOut ∧ .hostRead ld d .uncached .none ∈ t.mem.waiting) ∧
      ∀ (v : BitVec 512) (b : BitVec 64) p,
        (bankHolds s true a 64 = true → ∃ t, exec (.hostMemWrite ld dpa v b p) s = .next t ∧ t.mem.cells = s.mem.cells ∧
          .hostWrite ld d v b p ∈ t.mem.waiting ∧ t.cxd.hostOut = s.cxd.hostOut) ∧
        (bankHolds s true a 64 = false → Say.keeps s a → a % 64 = 0 → ∃ t, exec (.hostMemWrite ld dpa v b p) s = .next t ∧
          t.cxd.hostOut = s.cxd.hostOut ++ [.done ld d false] ∧ Say.only s t [(a, 64)] ∧ (p = true → poisoned t a 64 = true) ∧
          ∀ i, i < 64 → memNum t (a + i) 1 = if b.toNat.testBit i then v.toNat / 2 ^ (8 * i) % 256 else memNum s (a + i) 1))) ∧
  (∀ (s : State) (ld : LdId),
    (∀ dpa d a line, d = BitVec.ofNat 64 (dpa.toNat / 64 * 64) → line = d.toNat / 64 → memServed s ld = true →
      hostRefused s ld d.toNat = none → dpaLocal s d.toNat = some a → bankBusy s a 64 = false → s.cxd.flit256 = true → s.cxd.dirN ≠ 0 →
      s.cxd.dir = [] → s.cxd.recalls = [] → line < 2 ^ 40 → (∀ e ∈ s.cxd.extents, e.state ≠ .revoking) →
      ∃ t e, exec (.hostMemRead ld dpa .exclusive .none) s = .next t ∧ t.cxd.dir = [e] ∧ e.line.toNat = line ∧ e.ld = ld ∧
        e.excl = true ∧ e.slot / 4 = line % 2 ^ (s.cxd.dirN.toNat - 2)) ∧
    (∀ line back, dirFind s ld line = none → exec (.hostLineRelease ld line back) s = .next s) ∧
    (∀ (line : BitVec 40) back e a, s.cxd.dir = [e] → e.line = line → e.ld = ld → holderUp s ld = true → Say.idle s →
      dpaLocal s (line.toNat * 64) = some a → Say.keeps s a →
      Say.apart (a, 64) (s.cxd.dirBase.toNat * 64 + 8 * e.slot, 8) →
      (bankHolds s true a 64 = true → e.excl = true → ∀ v, back = some v → ∃ t, exec (.hostLineRelease ld line back) s = .next t ∧
        t.cxd.dir = [] ∧ Say.only s t [(s.cxd.dirBase.toNat * 64 + 8 * e.slot, 8)] ∧
        .lineBack ld (BitVec.ofNat 64 (line.toNat * 64)) v ∈ t.mem.waiting) ∧
      (bankHolds s true a 64 = false → ∃ t, exec (.hostLineRelease ld line back) s = .next t ∧ t.cxd.dir = [] ∧
        Say.only s t [(a, 64), (s.cxd.dirBase.toNat * 64 + 8 * e.slot, 8)] ∧
        (∀ v : BitVec 512, back = some v → e.excl = true → memNum t a 64 = v.toNat) ∧
        (back = none ∨ e.excl = false → memRead t a 64 = memRead s a 64))) ∧
    (∀ (line : BitVec 40) back, (∀ r ∈ s.cxd.recalls, ¬(r.line = line ∧ r.ld = ld)) → exec (.biResponse ld line back) s = .next s) ∧
    (∀ (line : BitVec 40) back e r a, s.cxd.recalls = [r] → r.line = line → r.ld = ld → s.cxd.dir = [e] → e.line = line → e.ld = ld →
      holderUp s ld = true → Say.idle s → dpaLocal s (line.toNat * 64) = some a → Say.keeps s a →
      Say.apart (a, 64) (s.cxd.dirBase.toNat * 64 + 8 * e.slot, 8) → bankHolds s true a 64 = false →
      ∃ t, exec (.biResponse ld line back) s = .next t ∧ t.cxd.dir = [] ∧ t.cxd.recalls = [] ∧
        ∀ v : BitVec 512, back = some v → e.excl = true → memNum t a 64 = v.toNat) ∧
    (∀ (line : BitVec 40) r, s.cxd.recalls = [r] → r.line = line → r.ld = ld → s.phase = .running →
      (s.clk.bell.toNat < r.sent.toNat + bellUs s s.cxd.biUs.toNat → exec (.biTimeout ld line) s = .next s) ∧
      (r.sent.toNat + bellUs s s.cxd.biUs.toNat ≤ s.clk.bell.toNat → Say.idle s →
        ∃ t, exec (.biTimeout ld line) s = .next t ∧ (ldGet t ld).state = 3 ∧ memServed t ld = false ∧ t.cxd.recalls = [] ∧
          (∀ e ∈ t.cxd.dir, e.ld ≠ ld) ∧
          Say.noted s t 0x14 0 ld.val (s.cxd.dir.countP fun e => decide (e.ld = ld) && e.excl) ∧
          ∀ e a, s.cxd.dir = [e] → e.ld = ld → e.excl = true → dpaLocal s (e.line.toNat * 64) = some a → a % 64 = 0 → Say.keeps s a →
            Say.apart (a, 64) (s.cxd.dirBase.toNat * 64 + 8 * e.slot, 8) → poisoned t a 64 = true)))

/-- Extents: the fabric manager's offer of whole free blocks, accepted or withdrawn by the host's answer; a release, or a
forced one, begins the revoking, which ends when nothing holds or waits for a line of it, with an event in each log; a region
is set where its base, length and block are as the spec bounds them and no extent is offered, allocated or revoking (R292 to R294).
The model's choices: an answer that names what is not offered (log entry 80), the command that sets a region (log entry 134), fabric
manager commands without a stated effect (log entry 150). -/
def Obligations.Extents : Prop :=
  ∀ (s : State) (ld : LdId),
    (mbxOk s .fm = true → ∀ (region : Fin 8) (x : DpaRange),
      (addOk s ld region x.base.toNat x.len.toNat = false → ∃ t, exec (.fmAddCapacity ld region x) s = .next t ∧
        t.cxd.extents = s.cxd.extents ∧ (mbxGet t .fm).code = .invalidInput) ∧
      (addOk s ld region x.base.toNat x.len.toNat = true → ∃ t r, exec (.fmAddCapacity ld region x) s = .next t ∧
        (mbxGet t .fm).code = .success ∧ { base := x.base.toNat, len := x.len.toNat, ld := ld, state := .offered } ∈ t.cxd.extents ∧
        (∀ e ∈ s.cxd.extents, e.state ≠ .released → e ∈ t.cxd.extents) ∧ t.cxd.events = s.cxd.events ++ [r] ∧ r.log = ld.val ∧
        r.dpa = x.base ∧ t.mem = s.mem) ∧
      (∀ forced, extentNamed s (.ld ld) .offered x = none → extentNamed s (.ld ld) .allocated x = none →
        ∃ t, exec (.fmReleaseCapacity ld x forced) s = .next t ∧ t.cxd.extents = s.cxd.extents ∧ (mbxGet t .fm).code = .invalidInput) ∧
      (∀ e, s.cxd.extents = [e] → e.ld = ld → rangeOfExtent e = x →
        (∀ forced, e.state = .offered → ∃ t, exec (.fmReleaseCapacity ld x forced) s = .next t ∧
          t.cxd.extents = [{ e with state := .released }]) ∧
        (e.state = .allocated → (∃ t, exec (.fmReleaseCapacity ld x true) s = .next t ∧ t.cxd.extents = [{ e with state := .revoking }]) ∧
          ∃ t r, exec (.fmReleaseCapacity ld x false) s = .next t ∧ t.cxd.extents = [e] ∧ t.cxd.events = s.cxd.events ++ [r] ∧
            r.log = ld.val)) ∧
      (∀ l, (exec (.fmMldCommand (.other l)) s = .next (mbxDone s .fm
          (if fmOpcode l.toNat then .success else .unsupported) (if fmOpcode l.toNat then fmReply s l.toNat else .none))) ∧
        (fmOpcode l.toNat = true ↔ 0x5400 ≤ l.toNat ∧ l.toNat ≤ 0x5409 ∨ 0x5600 ≤ l.toNat ∧ l.toNat ≤ 0x5608) ∧
        exec (.fmMldCommand .info) s = .next (mbxDone s .fm .success (.numbers [16])) ∧
        exec (.fmMldCommand (.bind ld)) s = .next (mbxDone (enableLd s ld) .fm .success .none) ∧
        (Say.idle s → ((ldGet s ld).state = 0 ∨ (ldGet s ld).state = 3) → ∃ t, exec (.fmMldCommand (.unbind ld)) s = .next t ∧
          (mbxGet t .fm).code = .success ∧ (ldGet t ld).state = 1 ∧ ∀ d ∈ t.cxd.dir, d.ld ≠ ld)) ∧
      ∀ (k : Fin 8) (b n z : Word) (r : DcRegion), r = { base := b.toNat, len := n.toNat, block := z.toNat } →
        (regionOk r = true ↔ b.toNat % 2 ^ 28 = 0 ∧ n.toNat % 2 ^ 28 = 0 ∧ ∃ j, j < 10 ∧ z.toNat = 2 ^ (21 + j)) ∧
        (regionOk r = true → (∀ e ∈ s.cxd.extents, e.state = .released) → ∃ t, exec (.fmMldCommand (.setRegion k b n z)) s = .next t ∧
          (mbxGet t .fm).code = .success ∧ t.cxd.regions[k.val]? = some r ∧ t.cxd.extents = s.cxd.extents ∧ t.mem = s.mem) ∧
        ((regionOk r = false ∨ ∃ e ∈ s.cxd.extents, e.state ≠ .released) →
          exec (.fmMldCommand (.setRegion k b n z)) s = .next (mbxDone s .fm .invalidInput .none))) ∧
    (mbxOk s (.ld ld) = true → ∀ xs : List DpaRange,
      ((∃ x ∈ xs, extentNamed s (.ld ld) .offered x = none) → ∃ t, exec (.addDynamicCapacityResponse (.ld ld) xs) s = .next t ∧
        t.cxd.extents = s.cxd.extents ∧ (mbxGet t (.ld ld)).code = .invalidInput) ∧
      ((∀ x ∈ xs, (extentNamed s (.ld ld) .offered x).isSome = true) → ∃ t, exec (.addDynamicCapacityResponse (.ld ld) xs) s = .next t ∧
        (mbxGet t (.ld ld)).code = .success ∧
        t.cxd.extents = s.cxd.extents.map fun e => if e.ld = ld ∧ e.state = .offered then
          { e with state := if rangeOfExtent e ∈ xs then .allocated else .released } else e) ∧
      ((∃ x ∈ xs, extentNamed s (.ld ld) .allocated x = none) → ∃ t, exec (.releaseDynamicCapacity (.ld ld) xs) s = .next t ∧
        t.cxd.extents = s.cxd.extents ∧ (mbxGet t (.ld ld)).code = .invalidInput) ∧
      (∀ e, s.cxd.extents = [e] → e.ld = ld → e.state = .allocated → xs = [rangeOfExtent e] →
        ∃ t, exec (.releaseDynamicCapacity (.ld ld) xs) s = .next t ∧ (mbxGet t (.ld ld)).code = .success ∧
          t.cxd.extents = [{ e with state := .revoking }])) ∧
    (∀ base : Word, (∀ e ∈ s.cxd.extents, ¬(e.base = base.toNat ∧ e.state = .revoking)) → exec (.extentReleased base) s = .next s) ∧
    ∀ (base : Word) e, s.cxd.extents = [e] → e.base = base.toNat → e.state = .revoking → s.phase = .running →
      (extentBusy s e = true → exec (.extentReleased base) s = .next s) ∧
      ((∃ d ∈ s.cxd.dir, extMeets e (d.line.toNat * 64) 64 = true) → exec (.extentReleased base) s = .next s) ∧
      (extentBusy s e = false → s.cxd.dir = [] → s.cxd.recalls = [] → ∃ t r q, exec (.extentReleased base) s = .next t ∧
        t.cxd.extents = [{ e with state := .released }] ∧ t.cxd.events = s.cxd.events ++ [r, q] ∧ r.log = e.ld.val ∧ q.log = 16 ∧
        r.dpa = base ∧ t.mem = s.mem)

/-! ## SPDM, DOE, the mailboxes and the SMBus (R303, R304, R345, R364, R369 to R374, R391 to R393) -/

/-- An SPDM request or another data object is answered with one object and changes the sessions alone. -/
def Sys2Proof.Say.says (i : Instr) (s : State) (x : DoeOut) (Q : State → Prop) : Prop :=
  ∃ t, exec i s = .next t ∧ t.cxd.doeOut = s.cxd.doeOut ++ [x] ∧ t.mem = s.mem ∧ t.ctxs = s.ctxs ∧ t.sec = s.sec ∧ Q t

/-- A mailbox command answers a code and a reply, raises vector 0 of a logical device's function, and changes nothing else. -/
def Sys2Proof.Say.answers (i : Instr) (m : MbxPort) (s : State) (code : MbxCode) (reply : MbxData) : Prop :=
  ∃ t, exec i s = .next t ∧ (mbxGet t m).code = code ∧ (mbxGet t m).reply = reply ∧ (mbxGet t m).bg = (mbxGet s m).bg ∧
    (∀ k, mbxKey k ≠ mbxKey m → mbxGet t k = mbxGet s k) ∧
    t = { s with cxd := { s.cxd with mbx := t.cxd.mbx, hostOut := t.cxd.hostOut, msixPending := t.cxd.msixPending } } ∧
    ∀ n, m = .ld n → (maskedOf s n).toNat.testBit 0 = false → t.cxd.hostOut = s.cxd.hostOut ++ [.msix n 0]

/-- The mailbox commands that answer what the state holds: none while the mailbox cannot be reached (R298, R304, R345, R364,
R389, R391, R392). The mailbox commands that change something: events cleared, the interrupt policy, the time and the recall
bound set, poison injected and cleared, an image transferred and activated in the background, one background command at a
time; the boot ROM runs an image that it verifies, the alias key derived for it and the boot secrets erased, and discards another with what the host sent of it and takes the next that has
arrived (R297, R298, R304, R367, R368, R372 to R374, R391, R392). The model's
choices: the certificate's verdict and key are operands (log entry 10), events and replies as data (log entries 45, 103), Activate FW of
another slot (log entry 49), opcodes, UUID and unknown handles (log entry 80), poison injected (log entry 81), the media status (log
entry 132), the list of other nodes' lines (log entry 151). -/
def Obligations.Mailboxes : Prop :=
  (∀ (s : State) (m : MbxPort) (r : Instr × MbxCode × MbxData),
    (r ∈ [(.identify m, .success, .numbers [0x1F3C, 0x7340, s.plan.serial.toNat, 16]),
      (.getEventRecords m, .success, .events (s.cxd.events.filter fun e => e.log = mbxKey m)),
      (.getInterruptPolicy m, .success, .numbers [(mbxGet s m).policy.toNat]),
      (.getTimestamp m, .success, .numbers [s.cxd.stamp.toNat + (s.clk.bell - s.cxd.stampBell).toNat * s.clk.div.toNat * 5 / 2]),
      (.getSupportedLogs m, .success, .numbers [celUuid.toNat, 4 * mbxOpcodes.length]),
      (.getFwInfo m, .success, .numbers [1, boolNat s.sec.verified, boolNat s.sec.hostFwDone]),
      (.identifyMemoryDevice m, .success, .numbers [0, 0, 0]), (.getHealthInfo m, .success, .numbers [if s.phase = .running ∧ memService s = true then 0 else 1]),
      (.getDynamicCapacityConfiguration m, .success, .numbers (s.cxd.regions.flatMap fun x => [x.base, x.len, x.block])),
      (.readFloorPlanTable m, .success,
        .wide (BitVec.ofNat 256 s.plan.change.toNat :: allUnits.map fun u => BitVec.ofNat 256 (fptNum s u)))] ∨
     (∃ from_ : Word, r = (.readFaultRecords m from_, .success,
        .wide ((s.ras.history.filter fun x => decide (from_.toNat ≤ x.seq.toNat)).reverse.map fun x => BitVec.ofNat 256 (faultNum x)))) ∨
     (∃ items : List Byte, r = (.readTelemetry m items, .success, .numbers (items.map fun i => (telemetry s i.toNat).toNat))) ∨
     (∃ a n : W32, r = (.getDynamicCapacityExtentList m a n, .success,
        .ranges ((((s.cxd.extents.filter fun e => m = .ld e.ld && e.state = .allocated).drop a.toNat).take n.toNat).map rangeOfExtent))) ∨
     (∃ (u : W128) (a n : W32), (u ≠ celUuid ∨ 4 * mbxOpcodes.length < a.toNat + n.toNat) ∧ r = (.getLog m u a n, .invalidInput, .none)) ∨
     (∃ a n : W32, a.toNat + n.toNat ≤ 4 * mbxOpcodes.length ∧
        r = (.getLog m celUuid a n, .success, .numbers ((mbxOpcodes.drop (a.toNat / 4)).take (n.toNat / 4)))) ∨
     (∃ c p, (mbxGet s m).bg = some c ∧ p = (if (mbxGet s m).bgDone.isSome then 100 else 0) ∧
        r = (.backgroundOperationStatus m, .success, .numbers [bgOpcode c, p])) ∨
     ((mbxGet s m).bg = none ∧ r = (.backgroundOperationStatus m, .success, .numbers [0, 100])) ∨
     (∃ o : Half, o.toNat ∉ mbxOpcodes ∧ (m = .fm → fmOpcode o.toNat = false) ∧ r = (.mailboxUnsupportedOpcode m o, .unsupported, .none))) →
    (mbxOk s m = false → exec r.1 s = .next s) ∧ (mbxOk s m = true → Say.answers r.1 m s r.2.1 r.2.2 ∧
      ∀ a n : Word, ∃ ls : List DpaRange, Say.answers (.getPoisonList m a n) m s .success (.ranges ls) ∧
        ∀ x, x ∈ ls ↔ x.len = 64 ∧ ∃ l, a.toNat / 64 ≤ l ∧ l < (a.toNat + n.toNat + 63) / 64 ∧ x.base = BitVec.ofNat 64 (l * 64) ∧
          ownLine s m (l * 64) = true ∧ ((∃ y, dpaLocal s (l * 64) = some y ∧ linePoison s (y / 64) = true) ∨
            dpaLocal s (l * 64) = none ∧ ∃ w ∈ s.isf.lstores, w.poison = true ∧ m = .ld w.ld ∧ w.dpa.toNat / 64 = l))) ∧
  (∀ (s : State) (m : MbxPort),
    (mbxOk s m = false → ∀ i, (i ∈ [.clearEventRecords m .all, .transferFw m .abort, .activateFw m 1, .backgroundCommandComplete m] ∨
      (∃ v, i = .setInterruptPolicy m v ∨ i = .setRecallBound m v) ∨ (∃ v, i = .setTimestamp m v ∨ i = .injectPoison m v)) →
      exec i s = .next s) ∧
    (mbxOk s m = true →
      (∃ t, exec (.clearEventRecords m .all) s = .next t ∧ (mbxGet t m).code = .success ∧
        t.cxd.events = s.cxd.events.filter fun e => e.log ≠ mbxKey m) ∧
      (∀ hs, (∀ h ∈ hs, ∃ e ∈ s.cxd.events, e.log = mbxKey m ∧ e.handle = h) → ∃ t, exec (.clearEventRecords m (.handles hs)) s = .next t ∧
        (mbxGet t m).code = .success ∧ ∀ e, e ∈ t.cxd.events ↔ e ∈ s.cxd.events ∧ ¬(e.log = mbxKey m ∧ e.handle ∈ hs)) ∧
      (∀ v, ∃ t, exec (.setInterruptPolicy m v) s = .next t ∧ (mbxGet t m).policy = v ∧ (mbxGet t m).code = .success ∧ t.mem = s.mem) ∧
      (∀ v, ∃ t, exec (.setTimestamp m v) s = .next t ∧ t.cxd.stamp = v ∧ t.cxd.stampBell = s.clk.bell ∧ (mbxGet t m).code = .success) ∧
      (∀ v : W32, (m = .fm ∨ m = .ld 0 ∧ s.cxd.viaSwitch = false) →
        (100 ≤ v.toNat → v.toNat ≤ 100000 → ∃ t, exec (.setRecallBound m v) s = .next t ∧ t.cxd.biUs.toNat = v.toNat ∧
          (mbxGet t m).code = .success) ∧
        ((v.toNat < 100 ∨ 100000 < v.toNat) → Say.answers (.setRecallBound m v) m s .invalidInput .none)) ∧
      (∀ v, m ≠ .fm → (m ≠ .ld 0 ∨ s.cxd.viaSwitch = true) → Say.answers (.setRecallBound m v) m s .unsupported .none) ∧
      (∀ (dpa : Word) a, a = dpa.toNat / 64 * 64 →
        (ownLine s m a = false → Say.answers (.injectPoison m dpa) m s .invalidPhysicalAddress .none) ∧
        (∀ x, ownLine s m a = true → dpaLocal s a = some x → x % 64 = 0 → ∃ t, exec (.injectPoison m dpa) s = .next t ∧
          (mbxGet t m).code = .success ∧ t.mem.cells = s.mem.cells ∧ (lineWaits s (x / 64) = false → poisoned t x 64 = true) ∧
          (lineWaits s (x / 64) = true → .inject (x / 64) ∈ t.mem.waiting ∧ t.mem.poison = s.mem.poison)) ∧
        (∀ v, ownLine s m a = false → Say.answers (.clearPoison m dpa [v]) m s .invalidPhysicalAddress .none) ∧
        (∀ x (v : BitVec 512), ownLine s m a = true → dpaLocal s a = some x → x % 64 = 0 → Say.keeps s x → Quiet s →
          ∃ t, exec (.clearPoison m dpa [v]) s = .next t ∧ memNum t x 64 = v.toNat ∧ x / 64 ∉ t.mem.poison ∧
            Say.only s t [(x, 64)] ∧ (mbxGet t m).code = .success)) ∧
      ((mbxGet s m).bg.isSome = true → ∀ x, Say.answers (.transferFw m x) m s .busy .none ∧ Say.answers (.activateFw m 1) m s .busy .none) ∧
      ((mbxGet s m).bg = none → (s.phase = .waitImage ∧ s.sec.imageSrc ≠ 0) → ∀ x, Say.answers (.transferFw m x) m s .busy .none) ∧
      ((mbxGet s m).bg = none → (s.phase ≠ .waitImage ∨ s.sec.imageSrc = 0) → ∀ x,
        (fwPart s x = none → Say.answers (.transferFw m x) m s .invalidInput .none) ∧
        (∀ b d, fwPart s x = some (b, d) → ∃ t, exec (.transferFw m x) s = .next t ∧ t.sec.hostFw = b ∧ t.sec.hostFwDone = d ∧
          (mbxGet t m).code = .backgroundStarted ∧ (mbxGet t m).bg = some .transferFw ∧ (mbxGet t m).bgDone = some .success)) ∧
      ((mbxGet s m).bg = none → ∀ slot, (slot ≠ 1 ∨ s.sec.hostFwDone = false ∨ s.phase ≠ .waitImage) →
        Say.answers (.activateFw m slot) m s .invalidInput .none) ∧
      ((mbxGet s m).bg = none → s.sec.hostFwDone = true → s.phase = .waitImage → s.sec.imageSrc ≠ 0 →
        Say.answers (.activateFw m 1) m s .busy .none) ∧
      ((mbxGet s m).bg = none → s.sec.hostFwDone = true → s.phase = .waitImage → s.sec.imageSrc = 0 →
        ∃ t, exec (.activateFw m 1) s = .next t ∧ t.sec.image = s.sec.hostFw ∧ t.sec.imageSrc = 1 ∧
          (mbxGet t m).bg = some .activateFw ∧ (mbxGet t m).code = .backgroundStarted) ∧
      (∀ c x, (mbxGet s m).bg = some c → (mbxGet s m).bgDone = some x → ∃ t, exec (.backgroundCommandComplete m) s = .next t ∧
        (mbxGet t m).bg = none ∧ (mbxGet t m).code = x ∧ t.mem = s.mem) ∧
      ((mbxGet s m).bg = none ∨ (mbxGet s m).bgDone = none → exec (.backgroundCommandComplete m) s = .next s)) ∧
    (∀ x, (s.phase ≠ .waitImage ∨ s.sec.imageSrc = 0) → exec (.firmwareVerify x) s = .next s) ∧
    (∀ x, s.phase = .waitImage → s.sec.imageSrc ≠ 0 →
      (imgOk s x = false → ∃ t, exec (.firmwareVerify x) s = .next t ∧ t.phase = .waitImage ∧
        t.sec.image = s.sec.arrived.headD [] ∧ t.sec.imageSrc = (if s.sec.arrived = [] then 0 else 2) ∧
        t.sec.arrived = s.sec.arrived.tail ∧ (s.sec.imageSrc = 1 → t.sec.hostFw = [] ∧ t.sec.hostFwDone = false) ∧
        (s.sec.imageSrc ≠ 1 → t.sec.hostFw = s.sec.hostFw ∧ t.sec.hostFwDone = s.sec.hostFwDone) ∧
        t.sec.bootfail = true ∧ t.sec.verified = s.sec.verified ∧ t.ctxs = s.ctxs ∧
        ∀ k, (mbxGet s k).bg = some .activateFw → (mbxGet t k).bgDone = some .invalidSecurityState) ∧
      (imgOk s x = true → ∃ t, exec (.firmwareVerify x) s = .next t ∧ t.phase = .running ∧ t.sec.verified = true ∧
        t.sec.fwsrc = s.sec.imageSrc ∧ t.sec.imageSrc = 0 ∧ t.sec.svn.toNat = imgNum s 12 4 % 2 ^ 32 ∧
        t.sec.boot = none ∧ t.sec.recKey = s.sec.recKey ∧
        (∀ b, s.sec.boot = some b → t.sec.aliasKey = aliasScalar b.seed (tget 0 t.sec.meas 3)) ∧
        tget 0 t.sec.meas 3 = digestOf (s.sec.image.take (512 + imgPlen s)) ∧
        ∀ k, (mbxGet s k).bg = some .activateFw → (mbxGet t k).bgDone = some .success)) ∧
    (∀ x, (x.chainOk = false ∨ ecdsaOk x.key (s.sec.image.take (512 + imgPlen s)) (s.sec.image.drop (s.sec.image.length - 96)) = false ∨
      (s.sec.image.drop 24).take 48 ≠ sha384 (imgPayload s) ∨ imgNum s 12 4 < s.sec.svnMin.toNat) → imgOk s x = false))

/-- SPDM: nothing is answered while the link is down; a request out of its order is unexpected, one that needs the device's
signature before the image is verified, or without a serial number, is refused; sessions open with their exchange, are
finished by a good MAC, number at most four and end (R369 to R371). The SMBus fallback answers only while the host link is
down, and ignores a transfer whose PEC is wrong (R393). The model's choices: what no standard object holds is free or opaque (log
entry 10), transcripts, a bad MAC and indices out of range (log entry 75), mailbox words (log entries 103, 132). -/
def Obligations.SpdmAndSmbus : Prop :=
  (∀ (s : State) (sid : W32) (slot v op : Byte) (nonce : BitVec 256),
    (doeUp s = false → ∀ i, (i ∈ [.spdmGetVersion, .spdmGetCapabilities v, .spdmGetDigests, .spdmChallenge slot nonce, .spdmHeartbeat sid,
      .spdmEndSession sid, .spdmKeyUpdate sid op] ∨ (∃ b, i = .spdmFinish sid b ∨ i = .spdmGetMeasurements v b nonce) ∨
      (∃ f, i = .spdmNegotiateAlgorithms f) ∨ (∃ o l, i = .spdmGetCertificate slot o l) ∨ (∃ r x, i = .spdmKeyExchange r x) ∨
      (∃ n x, i = .doeDiscovery n x) ∨ ∃ h, i = .cdatTableAccess h) → exec i s = .next s) ∧
    (doeUp s = true →
      Say.says .spdmGetVersion s (.versions [0x12, 0x13]) (fun t => t.cxd.spdmVersion = true ∧ t.cxd.spdmAlgs = false) ∧
      (s.cxd.spdmVersion = false → Say.says (.spdmGetCapabilities v) s .errUnexpected (fun _ => True)) ∧
      (s.cxd.spdmVersion = true → (v = 0x12 ∨ v = 0x13) → Say.says (.spdmGetCapabilities v) s (.capabilities spdmFlags) (fun _ => True)) ∧
      (s.cxd.spdmVersion = true → v ≠ 0x12 → v ≠ 0x13 → Say.says (.spdmGetCapabilities v) s .errInvalid (fun _ => True)) ∧
      (∀ f b, s.cxd.spdmVersion = true → b = (f.sha384 && f.brainpool && f.secp384 && f.gcm) →
        Say.says (.spdmNegotiateAlgorithms f) s (.algorithms b) (fun t => t.cxd.spdmAlgs = b)) ∧
      ((s.cxd.spdmVersion = false ∨ s.cxd.spdmAlgs = false) → ∀ i, i ∈ [.spdmGetDigests, .spdmChallenge slot nonce, .spdmHeartbeat sid,
        .spdmEndSession sid, .spdmKeyUpdate sid op, .spdmFinish sid true, .spdmGetMeasurements v false nonce] →
        Say.says i s .errUnexpected (fun _ => True)) ∧
      (s.cxd.spdmVersion = true → s.cxd.spdmAlgs = true →
        ((s.sec.nopuf = true ∨ s.sec.verified = false) → ∀ i, (i ∈ [.spdmGetDigests, .spdmChallenge slot nonce,
          .spdmGetMeasurements v true nonce] ∨ (∃ o l, i = .spdmGetCertificate slot o l) ∨ (∃ r x, i = .spdmKeyExchange r x)) →
          Say.says i s .errUnspecified (fun _ => True)) ∧
        (s.sec.nopuf = false → s.sec.verified = true →
          Say.says .spdmGetDigests s (.digest (digestOf (chain s))) (fun _ => True) ∧
          (∀ o l : BitVec 16, o.toNat < (chain s).length → ∃ b r, Say.says (.spdmGetCertificate 0 o l) s (.certificate b.length r b) (fun _ => True) ∧
            b = ((chain s).drop o.toNat).take l.toNat ∧ o.toNat + b.length + r = (chain s).length) ∧
          (∀ o l : BitVec 16, slot ≠ 0 ∨ (chain s).length ≤ o.toNat → Say.says (.spdmGetCertificate slot o l) s .errInvalid (fun _ => True)) ∧
          (∃ g, Say.says (.spdmChallenge 0 nonce) s (.challenge g) (fun _ => True)) ∧
          (slot ≠ 0 → Say.says (.spdmChallenge slot nonce) s .errInvalid (fun _ => True)) ∧
          (∃ g, Say.says (.spdmGetMeasurements v true nonce) s (.measurements (measBlocks s v.toNat) (some g)) (fun _ => True)) ∧
          (∀ r x, 4 ≤ s.cxd.sessions.length → Say.says (.spdmKeyExchange r x) s .errSessionLimit (fun _ => True)) ∧
          (∀ r x, s.cxd.sessions.length < 4 → ∃ y, Say.says (.spdmKeyExchange r x) s (.keyExchange y)
            (fun t => t.cxd.sessions = s.cxd.sessions ++ [{ sid := y, open_ := false }] ∧ y.setWidth 16 = r))) ∧
        Say.says (.spdmGetMeasurements v false nonce) s (.measurements (measBlocks s v.toNat) none) (fun _ => True) ∧
        (sessionOf s sid = some { sid := sid, open_ := false } →
          Say.says (.spdmFinish sid true) s (.finished sid) (fun t => sessionOf t sid = some { sid := sid, open_ := true }) ∧
          Say.says (.spdmFinish sid false) s .errInvalid (fun t => sessionOf t sid = none)) ∧
        (sessionOf s sid = some { sid := sid, open_ := true } →
          Say.says (.spdmHeartbeat sid) s (.heartbeat sid) (fun _ => True) ∧ Say.says (.spdmFinish sid true) s .errUnexpected (fun _ => True) ∧
          (op ∈ [1, 2, 3] → Say.says (.spdmKeyUpdate sid op) s (.keyUpdated sid) (fun _ => True)) ∧
          (op ∉ [1, 2, 3] → Say.says (.spdmKeyUpdate sid op) s .errInvalid (fun _ => True)) ∧
          Say.says (.spdmEndSession sid) s (.ended sid) (fun t => sessionOf t sid = none)) ∧
        (sessionOf s sid = none → ∀ i, i ∈ [.spdmHeartbeat sid, .spdmEndSession sid, .spdmKeyUpdate sid op, .spdmFinish sid true] →
          Say.says i s .errUnexpected (fun _ => True))) ∧
      (∀ n x p, (doeProtocols n)[x.toNat]? = some p → ∃ j, Say.says (.doeDiscovery n x) s (.protocols n.val p.1 p.2 j) (fun _ => True) ∧
        j.toNat = if x.toNat + 1 < (doeProtocols n).length then x.toNat + 1 else 0) ∧
      (∀ n x, (doeProtocols n).length ≤ x.toNat → Say.says (.doeDiscovery n x) s (.protocols n.val 0xFFFF 0 0) (fun _ => True)) ∧
      (∀ h e, (cdatEntries s)[h.toNat]? = some e → ∃ j, Say.says (.cdatTableAccess h) s (.cdat e j) (fun _ => True)) ∧
      (∀ h, (cdatEntries s).length ≤ h.toNat → Say.says (.cdatTableAccess h) s .errInvalid (fun _ => True)))) ∧
  (∀ (s : State) (off data : W32),
    (∀ b, (linkOn s = false ∨ s.cxd.up = true ∨ b = false) →
      exec (.smbusWrite off data b) s = .next s ∧ exec (.smbusSetOffset off b) s = .next s ∧ exec (.smbusRead b) s = .next s) ∧
    (linkOn s = true → s.cxd.up = false →
      ((0x2_0000 ≤ off.toNat ∨ off.toNat % 4 ≠ 0) → exec (.smbusWrite off data true) s = .next s) ∧
      (off.toNat < 0x2_0000 → off.toNat % 4 = 0 → ∃ t, exec (.smbusWrite off data true) s = .next t ∧
        (∀ j, tget 0 (mbxGet t (.ld 0)).bytes j =
          if j = off.toNat ∧ off.toNat < 0x1_0020 then data else tget 0 (mbxGet s (.ld 0)).bytes j) ∧
        (mbxGet t (.ld 0)).bg = (mbxGet s (.ld 0)).bg ∧ t = { s with cxd := { s.cxd with mbx := t.cxd.mbx } }) ∧
      exec (.smbusSetOffset off true) s = .next { s with cxd := { s.cxd with smbOff := off } } ∧
      ∃ v, exec (.smbusRead true) s = .next { s with cxd := { s.cxd with smbOut := v, smbOff := s.cxd.smbOff + 4 } } ∧
        v = if s.cxd.smbOff.toNat < 0x2_0000 ∧ s.cxd.smbOff.toNat % 4 = 0 then
          mbxWord s 0 s.cxd.smbOff.toNat else 0)) ∧
  ∀ (s : State) (ld : LdId) (j : Nat), mbxWord s ld 0 = 0x70 ∧
    (0x1_0020 ≤ j → mbxWord s ld j = 0) ∧
    (j ∉ [0, 0x10, 0x14, 0x18, 0x1C] → j < 0x1_0020 → mbxWord s ld j = tget 0 (mbxGet s (.ld ld)).bytes j)

/-! ## The agents, errors of memory and repair, and the flash (R179 to R183, R213, R214, R311 to R330, R331, R341 to R344) -/

/-- A page brought to region r for layer l of the group table gt: its entry names it, its bytes and its sketch stand there, and nothing
else has changed (R150 to R153, R183, R343). -/
def Sys2Proof.Say.brought (s t : State) (gt l geom : Nat) (r : Region) (group : Nat) (page : List Byte) : Prop :=
  ∀ (pa : Nat) (pt : Nat × Nat) (seg : Nat → Nat → Nat × Nat), pa = pageAddr r.stack r.gran → pt = (pteAddr gt l, 16) →
    (∀ i j, seg i j = (rowAddr r.stack (r.sub + i) j + 32 * r.slot, 32)) →
    Say.only s t ([(pa, page.length), pt] ++
      (List.range (geHeads geom)).flatMap fun i => (List.range (geDim geom)).map fun j => seg i j) ∧
    (Say.keepsAll s pt → memNum t pt.1 16 =
      mkPte PK.dram true geom (whereDram r.slot r.sub r.stack r.gran) group 0 % 2 ^ 128) ∧
    (Say.keepsAll s (pa, page.length) → Say.apart (pa, page.length) pt →
      (∀ i j, i < geHeads geom → j < geDim geom → Say.apart (pa, page.length) (seg i j)) → memRead t pa page.length = page) ∧
    ∀ i j, i < geHeads geom → j < geDim geom → Say.keepsAll s (seg i j) → Say.apart (seg i j) pt →
      (∀ i' j', i' < geHeads geom → j' < geDim geom → (i', j') ≠ (i, j) → Say.apart (seg i' j') (seg i j)) →
      memRead t (seg i j).1 32 = sketchSegment geom page i j

/-- Agents over pages: a sweep ages every resident page of its partition, from 0 where it was used; the keeper evicts from
below its low mark to its high mark, and says once that it cannot; the return agent does one layer and raises its tally; the
repair agent brings a failed page from a holder, or gives it up with a record; what crosses a slow link waits (R39, R179 to R183, R343). Errors of memory: a scrub
that finds none changes nothing; one that cannot be corrected poisons its line or word, is recorded and makes its row due; a
page that fails its sum is queued for repair; a due row is repaired from the spare rows of its subarray, or the subarray goes;
the loss of a stack is recorded once (R213, R214, R331, R341, R342, R344). The model's choices: which free granules and slots are taken
(log entry 16), return records (log entry 20), rows and spares of an SRAM array (log entry 44), records' operands (log entry 63), a
poisoned page, and which arrays have an address (log entry 84), a lost stack (log entry 93), the time charged (log entry 123). -/
def Obligations.AgentsAndErrors : Prop :=
  (∀ (s : State) (p : Part),
    ((agentsRun s = false ∨ tget 0 s.wlk.period p.val = 0 ∨ walkersIn s = [] ∨
        s.clk.bell.toNat < (tget 0 s.wlk.sweepAt p.val).toNat + (tget 0 s.wlk.period p.val).toNat) → exec (.ageSweep p) s = .next s) ∧
    (agentsRun s = true → tget 0 s.wlk.period p.val ≠ 0 → walkersIn s ≠ [] → Quiet s →
      (tget 0 s.wlk.sweepAt p.val).toNat + (tget 0 s.wlk.period p.val).toNat ≤ s.clk.bell.toNat →
      ∃ t, exec (.ageSweep p) s = .next t ∧ tget 0 t.wlk.sweepAt p.val = s.clk.bell ∧ t.ctxs = s.ctxs ∧
        touchedEntries t = [] ∧
        Say.only s t ((touchedEntries s).map (fun y => (pteAddr y.gt y.layer, 16)) ++
          (recordPages s p).map fun x => (pteAddr x.2.1 x.2.2, 16)) ∧
        ∀ x, ((recordPages s p).filter fun x => peKind (getPte s x.2.1 x.2.2) = PK.dram) = [x] → Say.keeps s (pteAddr x.2.1 x.2.2) →
          (∀ y ∈ touchedEntries s, y.gt = x.2.1 ∧ y.layer = x.2.2 ∨
            Say.apart (pteAddr y.gt y.layer, 16) (pteAddr x.2.1 x.2.2, 16)) →
          getPte t x.2.1 x.2.2 = getPte s x.2.1 x.2.2 % 2 ^ 120 + 2 ^ 120 *
            if ∃ y ∈ touchedEntries s, y.gt = x.2.1 ∧ y.layer = x.2.2 then 0
            else min 255 (peAge (getPte s x.2.1 x.2.2) + 1)) ∧
    (agentsRun s = false → exec (.keeperEvict p) s = .next s) ∧
    (agentsRun s = true → (tget 0 s.wlk.low p.val).toNat ≤ poolFree s p →
      (tget false s.wlk.keeping p.val = false ∨ (tget 0 s.wlk.high p.val).toNat ≤ poolFree s p) →
      exec (.keeperEvict p) s = .next (setKeeping (markCrossing s p) p false)) ∧
    (∀ m, m = tget 0 (markCrossing s p).wlk.crossed p.val →
      (poolFree s p < (tget 0 s.wlk.low p.val).toNat →
        m = if (tget 0 s.wlk.crossed p.val).toNat.testBit 2 then tget 0 s.wlk.crossed p.val else 4) ∧
      ((tget 0 s.wlk.low p.val).toNat ≤ poolFree s p → m.toNat = (tget 0 s.wlk.crossed p.val).toNat % 4)) ∧
    (∀ u, agentsRun s = true → poolFree s p < (tget 0 s.wlk.low p.val).toNat → Quiet s → u = setKeeping (markCrossing s p) p true →
      (evictNext u p = none → ∃ t, exec (.keeperEvict p) s = .next t ∧ tget false t.wlk.keeping p.val = false ∧ t.mem = s.mem ∧
        ((tget 0 u.wlk.crossed p.val).toNat.testBit 0 = false → Say.noted s t 0x08 0 (poolFree u p) 0) ∧
        ((tget 0 u.wlk.crossed p.val).toNat.testBit 0 = true → t.ras = s.ras)) ∧
      (∀ n gt l, evictNext u p = some (n, gt, l) → (s.fls.pfReady = false ∨ linkRuns s (peStack (getPte s gt l)) = false) →
        ∃ t, exec (.keeperEvict p) s = .next t ∧ t.fls = s.fls ∧ t.ras = s.ras ∧ t.mem.cells = s.mem.cells) ∧
      (∀ n gt l e g, evictNext u p = some (n, gt, l) → s.fls.pfReady = true → e = getPte s gt l → linkRuns s (peStack e) = true →
        g = geGran (hdGeom (gtHeader s gt)) →
        ((stageSet s = false ∨ chans s = []) → (tget 0 u.wlk.crossed p.val).toNat.testBit 1 = false →
          ∃ t, exec (.keeperEvict p) s = .next t ∧ Say.noted s t 0x09 0 n l ∧ t.mem = s.mem) ∧
        (stageSet s = true → chans s ≠ [] → poisoned s (pageAddr (peStack e) (peGran e)) (g * 16384) = true →
          ∃ t, exec (.keeperEvict p) s = .next t ∧ Say.noted s t 0x06 (uid 9 (peStack e)) (peGroup e) l ∧
            tget [] t.wlk.repair p.val = tget [] s.wlk.repair p.val ++ [(peGroup e, l)]) ∧
        (stageSet s = true → chans s ≠ [] → poisoned s (pageAddr (peStack e) (peGran e)) (g * 16384) = false →
          (min (s.fls.wmax.toNat * 64) g ≤ (freeSlotsOf s g).length →
            (∀ v, evictPage { u with mem := { u.mem with access := some [] } } p gt l = some v →
              exec (.keeperEvict p) s = .next (noAccess (chargeWork v p (tget 0 v.wlk.kshare p.val)))) ∧
            (evictPage { u with mem := { u.mem with access := some [] } } p gt l = none →
              (tget 0 u.wlk.crossed p.val).toNat.testBit 1 = false → ∃ t, exec (.keeperEvict p) s = .next t ∧ Say.noted s t 0x09 0 n l)) ∧
          ((freeSlotsOf s g).length < min (s.fls.wmax.toNat * 64) g → ∃ t, exec (.keeperEvict p) s = .next t ∧ t.fls = s.fls ∧
            t.ras = s.ras ∧ t.mem.cells = s.mem.cells)))) ∧
    (∀ xs, tget [] s.wlk.enrolled p.val = [] → exec (.returnAgentLayer p xs) s = .next s) ∧
    (∀ q r, tget [] s.wlk.enrolled p.val = q :: r →
      (agentsRun s = true → layerPages q = [] → Quiet s → ∃ t, exec (.returnAgentLayer p []) s = .next t ∧ t.mem = s.mem ∧
        (tally t q.ltally).toNat = min ((tally s q.ltally).toNat + 1) (2 ^ 64 - 1) ∧
        tget [] t.wlk.enrolled p.val = if q.layer + 1 < q.layers then { q with layer := q.layer + 1 } :: r else r) ∧
      (∀ x y e geom, agentsRun s = true → Quiet s → layerPages q = [x] → stillReturning s p q x = true →
        retKind (memNum s x.record 16) = PK.peer → (s.wlk.regions.find? fun z => z.stack = x.stack && z.gran = x.gran) = some y →
        e = getPte s x.gt x.layer → geom = hdGeom (gtHeader s x.gt) →
        (linkRuns s x.stack = false → exec (.returnAgentLayer p [.dead]) s = .next s) ∧
        (linkRuns s x.stack = true →
          (∃ t, exec (.returnAgentLayer p [.dead]) s = .next t ∧ Say.noted s t 0x0A 0 (peGroup e) x.layer ∧
            Say.only s t [(pteAddr x.gt x.layer, 16)] ∧
            (Say.keeps s (pteAddr x.gt x.layer) → memNum t (pteAddr x.gt x.layer) 16 =
              mkPte PK.peer false geom (retWhere (memNum s x.record 16) * 2 ^ 16) (peGroup e) (peAge e) % 2 ^ 128) ∧
            (tally t q.ltally).toNat = min ((tally s q.ltally).toNat + 1) (2 ^ 64 - 1)) ∧
          ∀ bs v, bs.length = gePage geom → bringPage { s with mem := { s.mem with access := some [] } } x.gt x.layer y bs true = (true, v) →
            ∃ t, exec (.returnAgentLayer p [.peer bs]) s = .next t ∧ Say.brought s t x.gt x.layer geom y (peGroup e) bs ∧
              (tally t q.ltally).toNat = min ((tally s q.ltally).toNat + 1) (2 ^ 64 - 1))) ∧
      (∀ xs, (agentsRun s = false ∨ xs.length ≠ (layerPages q).length) → exec (.returnAgentLayer p xs) s = .next s)) ∧
    (∀ x, (tget [] s.wlk.repair p.val = [] ∨ agentsRun s = false ∨ tget true s.ras.repairEn p.val = false) →
      exec (.repairAgent p x) s = .next s) ∧
    ∀ n l r gt e, tget [] s.wlk.repair p.val = (n, l) :: r → agentsRun s = true → Quiet s → tget true s.ras.repairEn p.val = true →
      gt = rcGt (getRec s p n) → e = getPte s gt l →
      ((gt = 0 ∨ peKind e ≠ PK.dram ∨ peCv e = true) → exec (.repairAgent p .noHolder) s =
        .next { s with wlk := { s.wlk with repair := Machine.tset [] s.wlk.repair p.val r } }) ∧
      ∀ x u f w, x = { s with wlk := { s.wlk with repair := Machine.tset [] s.wlk.repair p.val r } } →
        u = chargeWork { x with mem := { x.mem with access := some [] } } p (tget 0 s.ras.repairShare p.val) → repairAsks u gt = (f, w) →
        gt ≠ 0 → peKind e = PK.dram → peCv e = false →
        (∀ x, (∀ b bs, x = .page b bs → bs.length = gePage (hdGeom (gtHeader s gt))) →
          (rcIndexed (getRec s p n) = false → ∃ t, exec (.repairAgent p x) s = .next t ∧ tget [] t.wlk.repair p.val = r ∧
            Say.noted s t 0x2A (uid 9 (peStack e)) n l) ∧
          (rcIndexed (getRec s p n) = true → (f = false ∨ ∀ bs, x ≠ .page true bs) → ∃ t, exec (.repairAgent p x) s = .next t ∧
            tget [] t.wlk.repair p.val = r ∧ Say.noted s t 0x2A (uid 9 (peStack (getPte w gt l))) n l)) ∧
        ∀ bs z y v, rcIndexed (getRec s p n) = true → f = true → bs.length = gePage (hdGeom (gtHeader s gt)) →
          takeRegion w p (hdGeom (gtHeader w gt)) false none (poolStacks w p) = some (z, y) →
          bringPage y gt l z bs true = (true, v) → v.ras = s.ras →
          ∃ t, exec (.repairAgent p (.page true bs)) s = .next t ∧ tget [] t.wlk.repair p.val = tget [] v.wlk.repair p.val ∧
            Say.noted s t 0x29 (uid 9 (peStack (getPte w gt l))) n l ∧
            Say.brought y t gt l (hdGeom (gtHeader y gt)) z (peGroup (getPte y gt l)) bs) ∧
  (∀ (s : State),
    (∀ (st : StackId) (off : BitVec 36) x o, o = off.toNat / 64 * 64 →
      ((s.phase ≠ .running ∨ s.mem.scrubHours = 0 ∨ stackIn s st = false ∨ stackReady s st = false ∨ stackCap s ≤ o ∨
        rowProtected s st o = false) → exec (.protectedScrub st off x) s = .next s) ∧
      (Quiet s → exec (.protectedScrub st off .none) s = .next s) ∧
      (s.phase = .running → s.mem.scrubHours ≠ 0 → stackIn s st = true → stackReady s st = true → o < stackCap s →
        rowProtected s st o = true → bankBusy s (st.val * 2 ^ 36 + o) 64 = true → Unshared s →
        exec (.protectedScrub st off x) s = .next (holdWork s (.rowScrub st off x))) ∧
      (s.phase = .running → s.mem.scrubHours ≠ 0 → stackIn s st = true → stackReady s st = true → o < stackCap s →
        rowProtected s st o = true → Quiet s →
        (∃ t, exec (.protectedScrub st off .uncorrectable) s = .next t ∧ poisoned t (st.val * 2 ^ 36 + o) 64 = true ∧
          t.mem.cells = s.mem.cells ∧ Say.noted s t 0x21 (uid 9 st) 0 o ∧ tget 0 t.ras.rowDue (dramRowKey st (subOf o) (bf o 15 9)) = 0x21) ∧
        ∃ t, exec (.protectedScrub st off .corrected) s = .next t ∧ t.mem = s.mem ∧
          (s.ras.ceSeen = [] → Say.noted s t 0x20 (uid 9 st) 1 o) ∧
          (fptGet t (uid 9 st)).corr.toNat = min ((fptGet s (uid 9 st)).corr.toNat + 1) (2 ^ 16 - 1))) ∧
    (∀ (u : UnitId) (off : Nat), exec (.sramScrub u off .none) s = .next s ∧
      (sramOffOk u off = false → ∀ x, exec (.sramScrub u off x) s = .next s) ∧
      (s.phase = .running → sramOffOk u off = true → ∃ t, exec (.sramScrub u off .uncorrectable) s = .next t ∧
        Say.noted s t 0x23 u 0 off ∧ t.mem.cells = s.mem.cells ∧ (u = 0 → poisoned t (sramBase + off / 8 * 8) 8 = true) ∧
        (unitKind u = 1 → off < 2 ^ 21 → (u, off / 8) ∈ t.ras.tileBad) ∧
        (∀ a, sramAt s u off = some a → poisoned t (a / 8 * 8) 8 = true) ∧ (sramAt s u off = none → t.mem = s.mem))) ∧
    (∀ (p : Part) (g : BitVec 24) (l : Byte) gt e, gt = rcGt (getRec s p g.toNat) → e = getPte s gt l.toNat →
      ((agentsRun s = false ∨ tget 0x3C s.mem.oscrubMin p.val = 0 ∨ gt = 0 ∨ geLayers (hdGeom (gtHeader s gt)) ≤ l.toNat ∨
        peKind e ≠ PK.dram ∨ peCv e = false ∨ linkRuns s (peStack e) = false) → exec (.openScrub p g l) s = .next s) ∧
      (agentsRun s = true → tget 0x3C s.mem.oscrubMin p.val ≠ 0 → gt ≠ 0 → l.toNat < geLayers (hdGeom (gtHeader s gt)) →
        peKind e = PK.dram → peCv e = true → linkRuns s (peStack e) = true → Quiet s → verifyPage s gt l.toNat = true →
        exec (.openScrub p g l) s = .next (chargeWork s p (tget 0 s.mem.oscrubShare p.val))) ∧
      (agentsRun s = true → tget 0x3C s.mem.oscrubMin p.val ≠ 0 → gt ≠ 0 → l.toNat < geLayers (hdGeom (gtHeader s gt)) →
        peKind e = PK.dram → peCv e = true → linkRuns s (peStack e) = true → Quiet s → verifyPage s gt l.toNat = false →
        ∃ t, exec (.openScrub p g l) s = .next t ∧ Say.noted s t 0x06 (uid 9 (peStack e)) (peGroup e) l.toNat ∧
          tget [] t.wlk.repair p.val = tget [] s.wlk.repair p.val ++ [(peGroup e, l.toNat)] ∧
          (Say.keeps s (pteAddr gt l.toNat) → getPte t gt l.toNat = e - 8))) ∧
    (∀ (st : StackId) (sub : BitVec 20) (row : BitVec 9) key k, key = dramRowKey st sub.toNat row.toNat → k = st.val * 2 ^ 20 + sub.toNat →
      (tget 0 s.ras.rowDue key = 0 → exec (.rowSoftRepair (.dramRow st sub row)) s = .next s) ∧
      (manifestOn s (rowAddr st sub.toNat row.toNat) 1024 = true → exec (.rowSoftRepair (.dramRow st sub row)) s = .next s) ∧
      (s.phase = .running → tget 0 s.ras.rowDue key ≠ 0 → subIn s st sub.toNat = true → stackIn s st = true →
        manifestOn s (rowAddr st sub.toNat row.toNat) 1024 = false → s.plan.repairs.length < 4096 →
        ∃ t, exec (.rowSoftRepair (.dramRow st sub row)) s = .next t ∧ t.mem = s.mem ∧ tget 0 t.ras.rowDue key = 0 ∧
          t.sec.toAppend.length = s.sec.toAppend.length + 1 ∧ t.plan.repairs.length = s.plan.repairs.length + 1 ∧
          (tget 0 s.plan.spareRows k < 4 → tget 0 t.plan.spareRows k = tget 0 s.plan.spareRows k + 1 ∧ t.plan.deadSubs = s.plan.deadSubs) ∧
          (4 ≤ tget 0 s.plan.spareRows k → t.plan.spareRows = s.plan.spareRows ∧ k ∈ t.plan.deadSubs))) ∧
    (∀ u row, (tget 0 s.ras.rowDue (sramRowKey u row.toNat) = 0 → exec (.rowSoftRepair (.sramRow u row)) s = .next s) ∧
      (s.phase = .running → tget 0 s.ras.rowDue (sramRowKey u row.toNat) ≠ 0 → ∃ t, exec (.rowSoftRepair (.sramRow u row)) s = .next t ∧
        t.mem = s.mem ∧ tget 0 t.ras.rowDue (sramRowKey u row.toNat) = 0 ∧
        tget 0 t.plan.spareRows (2 ^ 40 + u.toNat) = min (tget 0 s.plan.spareRows (2 ^ 40 + u.toNat) + 1)
          (max (Config.sramSpares u) (tget 0 s.plan.spareRows (2 ^ 40 + u.toNat))))) ∧
    ∀ st : StackId,
      ((agentsRun s = false ∨ stackIn s st = true ∨ s.mem.lost.toNat.testBit st.val = true) → exec (.stackLoss st) s = .next s) ∧
      (agentsRun s = true → stackIn s st = false → s.mem.lost.toNat.testBit st.val = false → Quiet s → ∃ t n, exec (.stackLoss st) s = .next t ∧
        Say.noted s t 0x28 (uid 9 st) n 0 ∧ t.mem.lost.toNat.testBit st.val = true ∧
        ((∀ p, recordPages s p = []) → n = 0 ∧ t.mem.cells = s.mem.cells)))

/-- A write-buffer slot has been programmed: it is free, its place holds its granule, and the map says so (R316). -/
def Sys2Proof.Say.programmed (v t : State) (w : WSlot) : Prop :=
  (∀ x, x ∈ t.fls.wbuf ↔ x ∈ v.fls.wbuf ∧ x.slot ≠ w.slot) ∧
  (∃ g, (w.place, g) ∈ t.fls.grans ∧ g.data = memRead v (slotAddr v w.slot) 16384 ∧ g.kind = 0 ∧ g.lgran = BitVec.ofNat 48 w.lgran) ∧
  Say.only v t [(mapAddr v w.lgran, 8)] ∧ memNum t (mapAddr v w.lgran) 8 = (2 ^ 63 + w.place * 2 ^ 24) % 2 ^ 64

/-- The flash: a granule that is programmed leaves the write buffer and is mapped to its place; a program or an erase that
fails retires its block, once, and what waits for it, or for a target that takes no writes, goes elsewhere; an erased block is free; the journal is written, the map's snapshot
taken, a block collected and the map rebuilt when they are due (R311, R314, R316, R317, R322, R326, R329). The model's choices: blocks and
pages of a target (log entry 14), the blocks set aside (log entry 42), where metadata goes and when a rebuild may run (log entry 89),
what the time of a collection costs (log entry 123), the padding of a journal granule (log entry 153), a clean record read once (log
entry 154). -/
def Obligations.FlashEvents : Prop :=
  ∀ (s : State),
    (∀ slot : BitVec 19, (∀ w ∈ s.fls.wbuf, w.slot ≠ slot.toNat) → exec (.flashProgramComplete slot) s = .next s ∧
      exec (.flashProgramFail (.program slot)) s = .next s) ∧
    (∀ (slot : BitVec 19) w, (s.fls.wbuf.filter fun x => x.slot = slot.toNat) = [w] → s.phase = .running →
      (placeTakes s w.place = true → Say.keeps s (mapAddr s w.lgran) →
        ∃ t, exec (.flashProgramComplete slot) s = .next t ∧ Say.programmed s t w) ∧
      (placeTakes s w.place = false → ∀ v, v = redirect s w →
        ((∀ x ∈ v.fls.wbuf, x.slot = w.slot → placeTakes v x.place = false) →
          exec (.flashProgramComplete slot) s = .next v) ∧
        (∀ x, (v.fls.wbuf.filter fun y => y.slot = w.slot) = [x] → placeTakes v x.place = true →
          Say.keeps v (mapAddr v x.lgran) → ∃ t, exec (.flashProgramComplete slot) s = .next t ∧ Say.programmed v t x))) ∧
    (∀ pl, placeTakes s pl = true ↔ (blkGet s (pl / 2 ^ 11)).state ≠ 3 ∧ targetIn s (pl / 2 ^ 31) = true) ∧
    (∀ x, s.phase ≠ .running → exec (.flashProgramFail x) s = .next s) ∧
    (∀ (slot : BitVec 19) w b, (s.fls.wbuf.filter fun x => x.slot = slot.toNat) = [w] → s.phase = .running → b = blockOfPlace w.place →
      ∃ t, exec (.flashProgramFail (.program slot)) s = .next t ∧ t.fls.wbuf.map (fun x => x.slot) = s.fls.wbuf.map (fun x => x.slot) ∧
        (blkGet t b).state = 3 ∧ ((blkGet s b).state ≠ 3 → ∃ r, (r, none) ∈ t.sec.toAppend ∧ r.kind = 2 ∧ r.body = blockEntry 6 b) ∧
        ((blkGet s b).state = 3 → t.sec = s.sec)) ∧
    (∀ place : BitVec 38, (∀ g ∈ s.fls.grans, g.1 ≠ place.toNat) → exec (.flashProgramFail (.granule place)) s = .next s) ∧
    (∀ (place : BitVec 38) g b, g ∈ s.fls.grans → g.1 = place.toNat → s.phase = .running → b = blockOfPlace place.toNat →
      ∃ t, exec (.flashProgramFail (.granule place)) s = .next t ∧ (blkGet t b).state = 3 ∧
        ((blkGet s b).state ≠ 3 → ∃ r, (r, none) ∈ t.sec.toAppend ∧ r.kind = 2 ∧ r.body = blockEntry 6 b) ∧
        ((blkGet s b).state = 3 → t.sec = s.sec)) ∧
    (∀ (place : BitVec 38) g u, (s.fls.grans.find? fun x => x.1 = place.toNat) = some g → s.phase = .running →
      u = failBlock s (blockOfPlace place.toNat) → granLive u g = false → exec (.flashProgramFail (.granule place)) s = .next u) ∧
    (∀ (tg : Fin 128) (block : BitVec 20) b, b = tg.val * 2 ^ 20 + block.toNat → s.phase = .running →
      (b ∉ s.fls.erasing → exec (.flashProgramFail (.erase tg block)) s = .next s ∧ exec (.flashEraseComplete tg block) s = .next s) ∧
      (b ∈ s.fls.erasing →
        (∃ t, exec (.flashProgramFail (.erase tg block)) s = .next t ∧ b ∉ t.fls.erasing ∧ (blkGet t b).state = 3) ∧
        ∃ t, exec (.flashEraseComplete tg block) s = .next t ∧ b ∉ t.fls.erasing ∧ (blkGet t b).state = 0 ∧ (blkGet t b).valid = 0 ∧
          (blkGet t b).erases.toNat = min ((blkGet s b).erases.toNat + 1) (2 ^ 24 - 1) ∧
          (∀ c, c ≠ b → blkGet t c = blkGet s c) ∧ t.mem = s.mem ∧
          ∀ g, g ∈ t.fls.grans ↔ g ∈ s.fls.grans ∧ blockOfPlace g.1 ≠ b)) ∧
    ((s.phase ≠ .running ∨ s.clk.refPresent = false ∨ s.fls.journal.length < 1024) → exec .journalWrite s = .next s) ∧
    (s.phase = .running → 1024 ≤ s.fls.journal.length → chans s ≠ [] → ∀ t, exec .journalWrite s = .next t →
      t = s ∨ ∃ pl, t.fls.journal = s.fls.journal.drop 1024 ∧ t.fls.jwritten = s.fls.jwritten ++ [pl] ∧ t.mem = s.mem) ∧
    (s.phase = .running → s.clk.refPresent = true → 1024 ≤ s.fls.journal.length → ∀ u, writeJournalGranule s = some u → exec .journalWrite s = .next u ∧
      u.fls.journal = s.fls.journal.drop 1024) ∧
    (writeJournalGranule s = none → exec .journalWrite s = .next s) ∧
    ((s.phase ≠ .running ∨ s.clk.refPresent = false ∨ s.fls.pfReady = false ∨ s.fls.mapCount = 0 ∨
        (s.fls.jover = false ∧ s.fls.jwritten.length * 16384 < s.fls.mapCount.toNat)) →
      exec .snapshotPass s = .next s) ∧
    (s.phase = .running → s.clk.refPresent = true → s.fls.pfReady = true → s.fls.mapCount ≠ 0 →
      (s.fls.jover = true ∨ s.fls.mapCount.toNat ≤ s.fls.jwritten.length * 16384) →
      ∀ ps u, writeSnapshot s 0 (ceilDiv s.fls.mapCount.toNat 2048) = some (ps, u) → ∃ t, exec .snapshotPass s = .next t ∧
        t.fls.snap = ps ∧ t.fls.jwritten = [] ∧ t.fls.jover = false ∧ t.mem.cells = u.mem.cells) ∧
    (∀ tg : Fin 128, (s.phase ≠ .running ∨ s.fls.pfReady = false ∨ targetIn s tg = false ∨ s.clk.refPresent = false ∨ 74 ∈ s.clk.slow) →
      exec (.gcBackground tg) s = .next s) ∧
    (∀ tg : Fin 128, s.phase = .running → s.fls.pfReady = true → targetIn s tg = true → s.clk.refPresent = true → 74 ∉ s.clk.slow → pickBlock s tg = none →
      ∃ t, exec (.gcBackground tg) s = .next t ∧ t = { s with fls := { s.fls with collecting := t.fls.collecting } } ∧
        (freeBlocks s tg < s.fls.gcLow.toNat → tg.val ∈ t.fls.collecting) ∧
        (s.fls.gcLow.toNat ≤ freeBlocks s tg → s.fls.gcHigh.toNat ≤ freeBlocks s tg → tg.val ∉ t.fls.collecting)) ∧
    (∀ (tg : Fin 128) b n u, s.phase = .running → s.fls.pfReady = true → targetIn s tg = true → s.clk.refPresent = true → 74 ∉ s.clk.slow →
      freeBlocks s tg < s.fls.gcLow.toNat → pickBlock s tg = some b →
      collectBlock { s with fls := { s.fls with collecting := insNat tg.val s.fls.collecting } } b = some (n, u) →
      exec (.gcBackground tg) s = .next u ∧ (blkGet u b).state = 4 ∧ b ∈ u.fls.erasing) ∧
    (∀ x, (s.phase ≠ .running ∨ memService s = false ∨ s.clk.refPresent = false ∨ s.fls.pfReady = true ∨ s.fls.mapBase = 0 ∨ chans s = []) → exec (.mapRebuild x) s = .next s) ∧
    ∀ x, s.phase = .running → memService s = true → s.clk.refPresent = true → s.fls.pfReady = false → s.fls.mapBase ≠ 0 → chans s ≠ [] →
      ∃ t, exec (.mapRebuild x) s = .next t ∧ t.fls.pfReady = true ∧ t.fls.pfClean = (cleanRecord (undecodedGone s x)).isSome ∧ t.ctxs = s.ctxs ∧
        (cleanRecord (undecodedGone s x) = none → t.fls.pfTflush = 0 ∧ ∃ r, t.ras.history.head? = some r ∧ r.kind = 0x18)

/-! ## The whole machine -/

/-- The canonical form of storage holds at reset (R352 step 8, log entry 5). -/
def Obligations.ResetStorage : Prop :=
  State.reset.MemOk ∧ State.reset.mem.cells = [] ∧ State.reset.pending = [] ∧
  State.reset.phase = .inReset ∧ State.reset.pwr.perst = true

/-- Every step, of any command or of none, keeps storage in its canonical form: addresses rise strictly and no byte that reads
as unlisted is listed, so that equal memories are equal data. -/
def Obligations.StorageStaysCanonical : Prop :=
  ∀ (s t : State), s.MemOk → step s = .next t → t.MemOk
end

