-- ==== Sys2Proof/Laws/Tables.lean ====
section
/-! SUPPORT. The laws of sparse tables and of memory: a read after a write, the canonical form, ranges of bytes. -/
namespace Sys2Proof.Machine

variable {α : Type}

@[simp] theorem tget_nil (d : α) (k : Nat) : tget d [] k = d := rfl

theorem tget_tdel_same (d : α) (t : Table α) (k : Nat) : tget d (tdel t k) k = d := by
  induction t with
  | nil => rfl
  | cons x r ih =>
    obtain ⟨k', v⟩ := x
    by_cases h : k = k' <;> simp [tdel, tget, h, ih]
    · subst h; exact ih

theorem tget_tdel_ne (d : α) (t : Table α) {k j : Nat} (h : j ≠ k) : tget d (tdel t k) j = tget d t j := by
  induction t with
  | nil => rfl
  | cons x r ih =>
    obtain ⟨k', v⟩ := x
    by_cases h1 : k = k'
    · subst h1; simp [tdel, tget, h, ih]
    · by_cases h2 : j = k' <;> simp [tdel, tget, h1, h2, ih]

theorem tget_tins_same (d : α) (k : Nat) (v : α) (t : Table α) (h : ∀ x ∈ t, x.1 ≠ k) : tget d (tins k v t) k = v := by
  induction t with
  | nil => simp [tins, tget]
  | cons x r ih =>
    obtain ⟨k', w⟩ := x
    have h1 : k' ≠ k := h (k', w) (by simp)
    by_cases h2 : k < k'
    · simp [tins, tget, h2]
    · simp [tins, tget, h2, Ne.symm h1, ih fun x hx => h x (by simp [hx])]

theorem tget_tins_ne (d : α) {k j : Nat} (v : α) (t : Table α) (h : j ≠ k) : tget d (tins k v t) j = tget d t j := by
  induction t with
  | nil => simp [tins, tget, h]
  | cons x r ih =>
    obtain ⟨k', w⟩ := x
    by_cases h2 : k < k'
    · simp [tins, tget, h2, h]
    · by_cases h3 : j = k' <;> simp [tins, tget, h2, h3, ih]

theorem mem_tdel {t : Table α} {k : Nat} {x : Nat × α} (h : x ∈ tdel t k) : x ∈ t ∧ x.1 ≠ k := by
  induction t with
  | nil => simp [tdel] at h
  | cons y r ih =>
    obtain ⟨k', v⟩ := y
    by_cases h1 : k = k'
    · simp only [tdel, h1, if_true] at h
      have := ih (by simpa [h1] using h)
      exact ⟨by simp [this.1], this.2⟩
    · simp only [tdel, h1, if_false, List.mem_cons] at h
      rcases h with h | h
      · subst h; exact ⟨by simp, fun e => h1 e.symm⟩
      · exact ⟨by simp [(ih h).1], (ih h).2⟩

variable [DecidableEq α]

/-- The value of a key just set. -/
@[simp] theorem tget_tset_same (d : α) (t : Table α) (k : Nat) (v : α) : tget d (tset d t k v) k = v := by
  unfold tset
  split
  · next h => rw [tget_tdel_same, h]
  · exact tget_tins_same d k v _ fun x hx => (mem_tdel hx).2

/-- A set leaves every other key. -/
theorem tget_tset_ne (d : α) (t : Table α) {k j : Nat} (v : α) (h : j ≠ k) : tget d (tset d t k v) j = tget d t j := by
  unfold tset
  split
  · exact tget_tdel_ne d t h
  · rw [tget_tins_ne d v _ h, tget_tdel_ne d t h]

theorem tget_tset (d : α) (t : Table α) (k j : Nat) (v : α) :
    tget d (tset d t k v) j = if j = k then v else tget d t j := by
  split
  · next h => subst h; simp
  · next h => exact tget_tset_ne d t v h

/-! ### The canonical form -/

theorem twfFrom_weaken {d : α} {t : Table α} {b b' : Option Nat} (h : twfFrom d b t)
    (hb : ∀ n, b' = some n → ∀ x ∈ t.head?, n < x.1) : twfFrom d b' t := by
  cases t with
  | nil => rfl
  | cons x r =>
    obtain ⟨k, v⟩ := x
    simp only [twfFrom, Bool.and_eq_true] at h ⊢
    refine ⟨⟨?_, h.1.2⟩, h.2⟩
    cases b' with
    | none => rfl
    | some n => simpa using hb n rfl (k, v) (by simp)

theorem twfFrom_none {d : α} {t : Table α} {b : Option Nat} (h : twfFrom d b t) : twfFrom d none t :=
  twfFrom_weaken h (by simp)

theorem twfFrom_tdel {d : α} {t : Table α} {b : Option Nat} (k : Nat) (h : twfFrom d b t) : twfFrom d b (tdel t k) := by
  induction t generalizing b with
  | nil => rfl
  | cons x r ih =>
    obtain ⟨k', v⟩ := x
    simp only [twfFrom, Bool.and_eq_true] at h
    by_cases h1 : k = k'
    · simp only [tdel, h1, if_true]
      have hr : twfFrom d b r := by
        refine twfFrom_weaken h.2 ?_
        intro n hn x hx
        have hb : n < k' := by have := h.1.1; subst hn; simpa using this
        cases r with
        | nil => simp at hx
        | cons y r' =>
          obtain ⟨k2, v2⟩ := y
          have h2 := h.2
          simp only [twfFrom, Bool.and_eq_true, decide_eq_true_eq] at h2
          simp at hx; subst hx; simp; omega
      simpa [h1] using ih hr
    · simp only [tdel, h1, if_false, twfFrom, Bool.and_eq_true]
      exact ⟨h.1, ih h.2⟩

theorem twfFrom_tins {d : α} {t : Table α} {b : Option Nat} {k : Nat} {v : α} (h : twfFrom d b t)
    (hb : ∀ n, b = some n → n < k) (hk : ∀ x ∈ t, x.1 ≠ k) (hv : v ≠ d) : twfFrom d b (tins k v t) := by
  induction t generalizing b with
  | nil =>
    cases b with
    | none => simp [tins, twfFrom, hv]
    | some n => simp [tins, twfFrom, hv, hb n rfl]
  | cons x r ih =>
    obtain ⟨k', w⟩ := x
    have hne : k' ≠ k := hk (k', w) (by simp)
    simp only [twfFrom, Bool.and_eq_true] at h
    by_cases h1 : k < k'
    · simp only [tins, h1, if_true, twfFrom, Bool.and_eq_true, decide_eq_true_eq]
      refine ⟨⟨?_, by simpa using hv⟩, ⟨trivial, by simpa using h.1.2⟩, h.2⟩
      cases b with
      | none => rfl
      | some n => simpa using hb n rfl
    · simp only [tins, h1, if_false, twfFrom, Bool.and_eq_true]
      refine ⟨h.1, ih h.2 ?_ fun x hx => hk x (by simp [hx])⟩
      intro n hn
      have : k' = n := by simpa using hn
      omega

/-- A set keeps the canonical form of a table. -/
theorem twf_tset {d : α} {t : Table α} (k : Nat) (v : α) (h : twf d t) : twf d (tset d t k v) := by
  unfold twf tset at *
  split
  · exact twfFrom_tdel k h
  · next hv => exact twfFrom_tins (twfFrom_tdel k h) (by simp) (fun x hx => (mem_tdel hx).2) hv

/-! ### Memory -/

@[simp] theorem Memory.get_put_same (m : Memory) (a : Nat) (b : Byte) : (m.put a b).get a = b :=
  tget_tset_same 0 m a b

theorem Memory.get_put_ne (m : Memory) {a x : Nat} (b : Byte) (h : x ≠ a) : (m.put a b).get x = m.get x :=
  tget_tset_ne 0 m b h

/-- A byte of memory after a range is written: the byte written there, else the byte as it was. -/
theorem Memory.get_write (m : Memory) (a : Nat) (bs : List Byte) (x : Nat) :
    (m.write a bs).get x = if a ≤ x ∧ x < a + bs.length then bs.getD (x - a) 0 else m.get x := by
  induction bs generalizing m a with
  | nil =>
    have : ¬ (a ≤ x ∧ x < a + 0) := by omega
    simp only [List.length_nil, if_neg this]; rfl
  | cons b r ih =>
    show (Memory.write (m.put a b) (a + 1) r).get x = _
    rw [ih]
    by_cases h0 : x = a
    · subst h0
      have h1 : ¬ (x + 1 ≤ x ∧ x < x + 1 + r.length) := by omega
      rw [if_neg h1, Memory.get_put_same]
      simp
    · by_cases h1 : a + 1 ≤ x ∧ x < a + 1 + r.length
      · have h2 : a ≤ x ∧ x < a + (b :: r).length := by simp; omega
        rw [if_pos h1, if_pos h2]
        obtain ⟨n, hn⟩ : ∃ n, x - a = n + 1 := ⟨x - a - 1, by omega⟩
        have : x - (a + 1) = n := by omega
        rw [hn, this]; simp
      · have h2 : ¬ (a ≤ x ∧ x < a + (b :: r).length) := by simp; omega
        rw [if_neg h1, if_neg h2, Memory.get_put_ne m b h0]

@[simp] theorem Memory.bytes_length (m : Memory) (a n : Nat) : (m.bytes a n).length = n := by
  induction n generalizing a with
  | zero => rfl
  | succ n ih => simp [Memory.bytes, ih]

/-- A range of memory, byte by byte. -/
theorem Memory.getD_bytes (m : Memory) (a n i : Nat) (h : i < n) : (m.bytes a n).getD i 0 = m.get (a + i) := by
  induction n generalizing a i with
  | zero => omega
  | succ n ih =>
    cases i with
    | zero => simp [Memory.bytes]
    | succ i =>
      have := ih (a + 1) i (by omega)
      simp only [Memory.bytes, List.getD_cons_succ]
      rw [this]; congr 1; omega

/-- Two memories that agree on a range give the same bytes. -/
theorem Memory.bytes_congr {m m' : Memory} {a n : Nat} (h : ∀ x, a ≤ x → x < a + n → m.get x = m'.get x) :
    m.bytes a n = m'.bytes a n := by
  induction n generalizing a with
  | zero => rfl
  | succ n ih =>
    simp only [Memory.bytes]
    rw [h a (by omega) (by omega), ih fun x h1 h2 => h x (by omega) (by omega)]

/-- What a range just written reads as. -/
@[simp] theorem Memory.bytes_write_same (m : Memory) (a : Nat) (bs : List Byte) : (m.write a bs).bytes a bs.length = bs := by
  apply List.ext_getElem
  · simp
  · intro i h1 h2
    have h : i < bs.length := h2
    have e1 : ((m.write a bs).bytes a bs.length).getD i 0 = (m.write a bs).get (a + i) := Memory.getD_bytes _ _ _ _ h
    rw [Memory.get_write, if_pos ⟨by omega, by omega⟩] at e1
    simpa [List.getD_eq_getElem?_getD, h1, h2] using e1

/-- A write leaves a range apart from it. -/
theorem Memory.bytes_write_apart (m : Memory) {a x n : Nat} (bs : List Byte) (h : x + n ≤ a ∨ a + bs.length ≤ x) :
    (m.write a bs).bytes x n = m.bytes x n := by
  apply Memory.bytes_congr
  intro y h1 h2
  rw [Memory.get_write, if_neg (by omega)]

theorem Memory.wf_put {m : Memory} (a : Nat) (b : Byte) (h : m.wf) : (m.put a b).wf := twf_tset a b h

/-- Writing a range keeps the canonical form of memory. -/
theorem Memory.wf_write {m : Memory} (a : Nat) (bs : List Byte) (h : m.wf) : (m.write a bs).wf := by
  induction bs generalizing m a with
  | nil => exact h
  | cons b r ih => exact ih (a + 1) (Memory.wf_put a b h)

/-! ### Little-endian numbers (R5) -/

@[simp] theorem leBytes_length (n v : Nat) : (leBytes n v).length = n := by
  induction n generalizing v with
  | zero => rfl
  | succ n ih => simp [leBytes, ih]

/-- The number of the n low bytes of a number. -/
theorem ofLe_leBytes (n v : Nat) : ofLe (leBytes n v) = v % 2 ^ (8 * n) := by
  induction n generalizing v with
  | zero => simp [leBytes, ofLe, Nat.mod_one]
  | succ n ih =>
    simp only [leBytes, ofLe, ih]
    have e : 2 ^ (8 * (n + 1)) = 256 * 2 ^ (8 * n) := by rw [Nat.mul_add, Nat.pow_add]; ring
    rw [e, Nat.mod_mul]
    simp

/-- A little-endian number just written. -/
theorem Memory.num_write (m : Memory) (a n v : Nat) : (m.write a (leBytes n v)).num a n = v % 2 ^ (8 * n) := by
  have h := Memory.bytes_write_same m a (leBytes n v)
  rw [leBytes_length] at h
  rw [Memory.num, h, ofLe_leBytes]

end Sys2Proof.Machine
end

