-- ==== Sys2Proof/Laws/State.lean ====
section
/-! SUPPORT. What each named update of the state leaves unchanged, field by field; what it changes, read back. -/
namespace Sys2Proof.Machine

/-! ### ctxSet -/
@[simp] theorem ctxSet_pending (s : State) (c : Nat) (x : Ctx) : (ctxSet s c x).pending = s.pending := rfl
@[simp] theorem ctxSet_free (s : State) (c : Nat) (x : Ctx) : (ctxSet s c x).free = s.free := rfl
@[simp] theorem ctxSet_phase (s : State) (c : Nat) (x : Ctx) : (ctxSet s c x).phase = s.phase := rfl
@[simp] theorem ctxSet_turn (s : State) (c : Nat) (x : Ctx) : (ctxSet s c x).turn = s.turn := rfl
@[simp] theorem ctxSet_queues (s : State) (c : Nat) (x : Ctx) : (ctxSet s c x).queues = s.queues := rfl
@[simp] theorem ctxSet_ops (s : State) (c : Nat) (x : Ctx) : (ctxSet s c x).ops = s.ops := rfl
@[simp] theorem ctxSet_tallies (s : State) (c : Nat) (x : Ctx) : (ctxSet s c x).tallies = s.tallies := rfl
@[simp] theorem ctxSet_arms (s : State) (c : Nat) (x : Ctx) : (ctxSet s c x).arms = s.arms := rfl
@[simp] theorem ctxSet_clk (s : State) (c : Nat) (x : Ctx) : (ctxSet s c x).clk = s.clk := rfl
@[simp] theorem ctxSet_plan (s : State) (c : Nat) (x : Ctx) : (ctxSet s c x).plan = s.plan := rfl
@[simp] theorem ctxSet_mem (s : State) (c : Nat) (x : Ctx) : (ctxSet s c x).mem = s.mem := rfl
@[simp] theorem ctxSet_units (s : State) (c : Nat) (x : Ctx) : (ctxSet s c x).units = s.units := rfl
@[simp] theorem ctxSet_ldg (s : State) (c : Nat) (x : Ctx) : (ctxSet s c x).ldg = s.ldg := rfl
@[simp] theorem ctxSet_wlk (s : State) (c : Nat) (x : Ctx) : (ctxSet s c x).wlk = s.wlk := rfl
@[simp] theorem ctxSet_isf (s : State) (c : Nat) (x : Ctx) : (ctxSet s c x).isf = s.isf := rfl
@[simp] theorem ctxSet_qpe (s : State) (c : Nat) (x : Ctx) : (ctxSet s c x).qpe = s.qpe := rfl
@[simp] theorem ctxSet_cxd (s : State) (c : Nat) (x : Ctx) : (ctxSet s c x).cxd = s.cxd := rfl
@[simp] theorem ctxSet_fls (s : State) (c : Nat) (x : Ctx) : (ctxSet s c x).fls = s.fls := rfl
@[simp] theorem ctxSet_sec (s : State) (c : Nat) (x : Ctx) : (ctxSet s c x).sec = s.sec := rfl
@[simp] theorem ctxSet_ras (s : State) (c : Nat) (x : Ctx) : (ctxSet s c x).ras = s.ras := rfl
@[simp] theorem ctxSet_pwr (s : State) (c : Nat) (x : Ctx) : (ctxSet s c x).pwr = s.pwr := rfl

/-! ### queueSet -/
@[simp] theorem queueSet_pending (s : State) (q : Nat) (d : QDesc) : (queueSet s q d).pending = s.pending := rfl
@[simp] theorem queueSet_free (s : State) (q : Nat) (d : QDesc) : (queueSet s q d).free = s.free := rfl
@[simp] theorem queueSet_phase (s : State) (q : Nat) (d : QDesc) : (queueSet s q d).phase = s.phase := rfl
@[simp] theorem queueSet_turn (s : State) (q : Nat) (d : QDesc) : (queueSet s q d).turn = s.turn := rfl
@[simp] theorem queueSet_ctxs (s : State) (q : Nat) (d : QDesc) : (queueSet s q d).ctxs = s.ctxs := rfl
@[simp] theorem queueSet_ops (s : State) (q : Nat) (d : QDesc) : (queueSet s q d).ops = s.ops := rfl
@[simp] theorem queueSet_tallies (s : State) (q : Nat) (d : QDesc) : (queueSet s q d).tallies = s.tallies := rfl
@[simp] theorem queueSet_arms (s : State) (q : Nat) (d : QDesc) : (queueSet s q d).arms = s.arms := rfl
@[simp] theorem queueSet_clk (s : State) (q : Nat) (d : QDesc) : (queueSet s q d).clk = s.clk := rfl
@[simp] theorem queueSet_plan (s : State) (q : Nat) (d : QDesc) : (queueSet s q d).plan = s.plan := rfl
@[simp] theorem queueSet_mem (s : State) (q : Nat) (d : QDesc) : (queueSet s q d).mem = s.mem := rfl
@[simp] theorem queueSet_units (s : State) (q : Nat) (d : QDesc) : (queueSet s q d).units = s.units := rfl
@[simp] theorem queueSet_ldg (s : State) (q : Nat) (d : QDesc) : (queueSet s q d).ldg = s.ldg := rfl
@[simp] theorem queueSet_wlk (s : State) (q : Nat) (d : QDesc) : (queueSet s q d).wlk = s.wlk := rfl
@[simp] theorem queueSet_isf (s : State) (q : Nat) (d : QDesc) : (queueSet s q d).isf = s.isf := rfl
@[simp] theorem queueSet_qpe (s : State) (q : Nat) (d : QDesc) : (queueSet s q d).qpe = s.qpe := rfl
@[simp] theorem queueSet_cxd (s : State) (q : Nat) (d : QDesc) : (queueSet s q d).cxd = s.cxd := rfl
@[simp] theorem queueSet_fls (s : State) (q : Nat) (d : QDesc) : (queueSet s q d).fls = s.fls := rfl
@[simp] theorem queueSet_sec (s : State) (q : Nat) (d : QDesc) : (queueSet s q d).sec = s.sec := rfl
@[simp] theorem queueSet_ras (s : State) (q : Nat) (d : QDesc) : (queueSet s q d).ras = s.ras := rfl
@[simp] theorem queueSet_pwr (s : State) (q : Nat) (d : QDesc) : (queueSet s q d).pwr = s.pwr := rfl

/-! ### fptSet -/
@[simp] theorem fptSet_pending (s : State) (u : UnitId) (e : FptEntry) : (fptSet s u e).pending = s.pending := rfl
@[simp] theorem fptSet_free (s : State) (u : UnitId) (e : FptEntry) : (fptSet s u e).free = s.free := rfl
@[simp] theorem fptSet_phase (s : State) (u : UnitId) (e : FptEntry) : (fptSet s u e).phase = s.phase := rfl
@[simp] theorem fptSet_turn (s : State) (u : UnitId) (e : FptEntry) : (fptSet s u e).turn = s.turn := rfl
@[simp] theorem fptSet_ctxs (s : State) (u : UnitId) (e : FptEntry) : (fptSet s u e).ctxs = s.ctxs := rfl
@[simp] theorem fptSet_queues (s : State) (u : UnitId) (e : FptEntry) : (fptSet s u e).queues = s.queues := rfl
@[simp] theorem fptSet_ops (s : State) (u : UnitId) (e : FptEntry) : (fptSet s u e).ops = s.ops := rfl
@[simp] theorem fptSet_tallies (s : State) (u : UnitId) (e : FptEntry) : (fptSet s u e).tallies = s.tallies := rfl
@[simp] theorem fptSet_arms (s : State) (u : UnitId) (e : FptEntry) : (fptSet s u e).arms = s.arms := rfl
@[simp] theorem fptSet_clk (s : State) (u : UnitId) (e : FptEntry) : (fptSet s u e).clk = s.clk := rfl
@[simp] theorem fptSet_mem (s : State) (u : UnitId) (e : FptEntry) : (fptSet s u e).mem = s.mem := rfl
@[simp] theorem fptSet_units (s : State) (u : UnitId) (e : FptEntry) : (fptSet s u e).units = s.units := rfl
@[simp] theorem fptSet_ldg (s : State) (u : UnitId) (e : FptEntry) : (fptSet s u e).ldg = s.ldg := rfl
@[simp] theorem fptSet_wlk (s : State) (u : UnitId) (e : FptEntry) : (fptSet s u e).wlk = s.wlk := rfl
@[simp] theorem fptSet_isf (s : State) (u : UnitId) (e : FptEntry) : (fptSet s u e).isf = s.isf := rfl
@[simp] theorem fptSet_qpe (s : State) (u : UnitId) (e : FptEntry) : (fptSet s u e).qpe = s.qpe := rfl
@[simp] theorem fptSet_cxd (s : State) (u : UnitId) (e : FptEntry) : (fptSet s u e).cxd = s.cxd := rfl
@[simp] theorem fptSet_fls (s : State) (u : UnitId) (e : FptEntry) : (fptSet s u e).fls = s.fls := rfl
@[simp] theorem fptSet_sec (s : State) (u : UnitId) (e : FptEntry) : (fptSet s u e).sec = s.sec := rfl
@[simp] theorem fptSet_ras (s : State) (u : UnitId) (e : FptEntry) : (fptSet s u e).ras = s.ras := rfl
@[simp] theorem fptSet_pwr (s : State) (u : UnitId) (e : FptEntry) : (fptSet s u e).pwr = s.pwr := rfl

/-! ### regSet -/
@[simp] theorem regSet_pending (s : State) (c i : Nat) (v : Word) : (regSet s c i v).pending = s.pending := rfl
@[simp] theorem regSet_free (s : State) (c i : Nat) (v : Word) : (regSet s c i v).free = s.free := rfl
@[simp] theorem regSet_phase (s : State) (c i : Nat) (v : Word) : (regSet s c i v).phase = s.phase := rfl
@[simp] theorem regSet_turn (s : State) (c i : Nat) (v : Word) : (regSet s c i v).turn = s.turn := rfl
@[simp] theorem regSet_queues (s : State) (c i : Nat) (v : Word) : (regSet s c i v).queues = s.queues := rfl
@[simp] theorem regSet_ops (s : State) (c i : Nat) (v : Word) : (regSet s c i v).ops = s.ops := rfl
@[simp] theorem regSet_tallies (s : State) (c i : Nat) (v : Word) : (regSet s c i v).tallies = s.tallies := rfl
@[simp] theorem regSet_arms (s : State) (c i : Nat) (v : Word) : (regSet s c i v).arms = s.arms := rfl
@[simp] theorem regSet_clk (s : State) (c i : Nat) (v : Word) : (regSet s c i v).clk = s.clk := rfl
@[simp] theorem regSet_plan (s : State) (c i : Nat) (v : Word) : (regSet s c i v).plan = s.plan := rfl
@[simp] theorem regSet_mem (s : State) (c i : Nat) (v : Word) : (regSet s c i v).mem = s.mem := rfl
@[simp] theorem regSet_units (s : State) (c i : Nat) (v : Word) : (regSet s c i v).units = s.units := rfl
@[simp] theorem regSet_ldg (s : State) (c i : Nat) (v : Word) : (regSet s c i v).ldg = s.ldg := rfl
@[simp] theorem regSet_wlk (s : State) (c i : Nat) (v : Word) : (regSet s c i v).wlk = s.wlk := rfl
@[simp] theorem regSet_isf (s : State) (c i : Nat) (v : Word) : (regSet s c i v).isf = s.isf := rfl
@[simp] theorem regSet_qpe (s : State) (c i : Nat) (v : Word) : (regSet s c i v).qpe = s.qpe := rfl
@[simp] theorem regSet_cxd (s : State) (c i : Nat) (v : Word) : (regSet s c i v).cxd = s.cxd := rfl
@[simp] theorem regSet_fls (s : State) (c i : Nat) (v : Word) : (regSet s c i v).fls = s.fls := rfl
@[simp] theorem regSet_sec (s : State) (c i : Nat) (v : Word) : (regSet s c i v).sec = s.sec := rfl
@[simp] theorem regSet_ras (s : State) (c i : Nat) (v : Word) : (regSet s c i v).ras = s.ras := rfl
@[simp] theorem regSet_pwr (s : State) (c i : Nat) (v : Word) : (regSet s c i v).pwr = s.pwr := rfl

/-! ### statusTo -/
@[simp] theorem statusTo_pending (s : State) (c i : Nat) (st : Byte) : (statusTo s c i st).pending = s.pending := rfl
@[simp] theorem statusTo_free (s : State) (c i : Nat) (st : Byte) : (statusTo s c i st).free = s.free := rfl
@[simp] theorem statusTo_phase (s : State) (c i : Nat) (st : Byte) : (statusTo s c i st).phase = s.phase := rfl
@[simp] theorem statusTo_turn (s : State) (c i : Nat) (st : Byte) : (statusTo s c i st).turn = s.turn := rfl
@[simp] theorem statusTo_queues (s : State) (c i : Nat) (st : Byte) : (statusTo s c i st).queues = s.queues := rfl
@[simp] theorem statusTo_ops (s : State) (c i : Nat) (st : Byte) : (statusTo s c i st).ops = s.ops := rfl
@[simp] theorem statusTo_tallies (s : State) (c i : Nat) (st : Byte) : (statusTo s c i st).tallies = s.tallies := rfl
@[simp] theorem statusTo_arms (s : State) (c i : Nat) (st : Byte) : (statusTo s c i st).arms = s.arms := rfl
@[simp] theorem statusTo_clk (s : State) (c i : Nat) (st : Byte) : (statusTo s c i st).clk = s.clk := rfl
@[simp] theorem statusTo_plan (s : State) (c i : Nat) (st : Byte) : (statusTo s c i st).plan = s.plan := rfl
@[simp] theorem statusTo_mem (s : State) (c i : Nat) (st : Byte) : (statusTo s c i st).mem = s.mem := rfl
@[simp] theorem statusTo_units (s : State) (c i : Nat) (st : Byte) : (statusTo s c i st).units = s.units := rfl
@[simp] theorem statusTo_ldg (s : State) (c i : Nat) (st : Byte) : (statusTo s c i st).ldg = s.ldg := rfl
@[simp] theorem statusTo_wlk (s : State) (c i : Nat) (st : Byte) : (statusTo s c i st).wlk = s.wlk := rfl
@[simp] theorem statusTo_isf (s : State) (c i : Nat) (st : Byte) : (statusTo s c i st).isf = s.isf := rfl
@[simp] theorem statusTo_qpe (s : State) (c i : Nat) (st : Byte) : (statusTo s c i st).qpe = s.qpe := rfl
@[simp] theorem statusTo_cxd (s : State) (c i : Nat) (st : Byte) : (statusTo s c i st).cxd = s.cxd := rfl
@[simp] theorem statusTo_fls (s : State) (c i : Nat) (st : Byte) : (statusTo s c i st).fls = s.fls := rfl
@[simp] theorem statusTo_sec (s : State) (c i : Nat) (st : Byte) : (statusTo s c i st).sec = s.sec := rfl
@[simp] theorem statusTo_ras (s : State) (c i : Nat) (st : Byte) : (statusTo s c i st).ras = s.ras := rfl
@[simp] theorem statusTo_pwr (s : State) (c i : Nat) (st : Byte) : (statusTo s c i st).pwr = s.pwr := rfl

/-! ### advance -/
@[simp] theorem advance_pending (s : State) (c : CtxId) (n : Nat) : (advance s c n).pending = s.pending := rfl
@[simp] theorem advance_free (s : State) (c : CtxId) (n : Nat) : (advance s c n).free = s.free := rfl
@[simp] theorem advance_phase (s : State) (c : CtxId) (n : Nat) : (advance s c n).phase = s.phase := rfl
@[simp] theorem advance_turn (s : State) (c : CtxId) (n : Nat) : (advance s c n).turn = s.turn := rfl
@[simp] theorem advance_queues (s : State) (c : CtxId) (n : Nat) : (advance s c n).queues = s.queues := rfl
@[simp] theorem advance_ops (s : State) (c : CtxId) (n : Nat) : (advance s c n).ops = s.ops := rfl
@[simp] theorem advance_tallies (s : State) (c : CtxId) (n : Nat) : (advance s c n).tallies = s.tallies := rfl
@[simp] theorem advance_arms (s : State) (c : CtxId) (n : Nat) : (advance s c n).arms = s.arms := rfl
@[simp] theorem advance_clk (s : State) (c : CtxId) (n : Nat) : (advance s c n).clk = s.clk := rfl
@[simp] theorem advance_plan (s : State) (c : CtxId) (n : Nat) : (advance s c n).plan = s.plan := rfl
@[simp] theorem advance_mem (s : State) (c : CtxId) (n : Nat) : (advance s c n).mem = s.mem := rfl
@[simp] theorem advance_units (s : State) (c : CtxId) (n : Nat) : (advance s c n).units = s.units := rfl
@[simp] theorem advance_ldg (s : State) (c : CtxId) (n : Nat) : (advance s c n).ldg = s.ldg := rfl
@[simp] theorem advance_wlk (s : State) (c : CtxId) (n : Nat) : (advance s c n).wlk = s.wlk := rfl
@[simp] theorem advance_isf (s : State) (c : CtxId) (n : Nat) : (advance s c n).isf = s.isf := rfl
@[simp] theorem advance_qpe (s : State) (c : CtxId) (n : Nat) : (advance s c n).qpe = s.qpe := rfl
@[simp] theorem advance_cxd (s : State) (c : CtxId) (n : Nat) : (advance s c n).cxd = s.cxd := rfl
@[simp] theorem advance_fls (s : State) (c : CtxId) (n : Nat) : (advance s c n).fls = s.fls := rfl
@[simp] theorem advance_sec (s : State) (c : CtxId) (n : Nat) : (advance s c n).sec = s.sec := rfl
@[simp] theorem advance_ras (s : State) (c : CtxId) (n : Nat) : (advance s c n).ras = s.ras := rfl
@[simp] theorem advance_pwr (s : State) (c : CtxId) (n : Nat) : (advance s c n).pwr = s.pwr := rfl

/-! ### jumpTo -/
@[simp] theorem jumpTo_pending (s : State) (c : CtxId) (a : Word) : (jumpTo s c a).pending = s.pending := rfl
@[simp] theorem jumpTo_free (s : State) (c : CtxId) (a : Word) : (jumpTo s c a).free = s.free := rfl
@[simp] theorem jumpTo_phase (s : State) (c : CtxId) (a : Word) : (jumpTo s c a).phase = s.phase := rfl
@[simp] theorem jumpTo_turn (s : State) (c : CtxId) (a : Word) : (jumpTo s c a).turn = s.turn := rfl
@[simp] theorem jumpTo_queues (s : State) (c : CtxId) (a : Word) : (jumpTo s c a).queues = s.queues := rfl
@[simp] theorem jumpTo_ops (s : State) (c : CtxId) (a : Word) : (jumpTo s c a).ops = s.ops := rfl
@[simp] theorem jumpTo_tallies (s : State) (c : CtxId) (a : Word) : (jumpTo s c a).tallies = s.tallies := rfl
@[simp] theorem jumpTo_arms (s : State) (c : CtxId) (a : Word) : (jumpTo s c a).arms = s.arms := rfl
@[simp] theorem jumpTo_clk (s : State) (c : CtxId) (a : Word) : (jumpTo s c a).clk = s.clk := rfl
@[simp] theorem jumpTo_plan (s : State) (c : CtxId) (a : Word) : (jumpTo s c a).plan = s.plan := rfl
@[simp] theorem jumpTo_mem (s : State) (c : CtxId) (a : Word) : (jumpTo s c a).mem = s.mem := rfl
@[simp] theorem jumpTo_units (s : State) (c : CtxId) (a : Word) : (jumpTo s c a).units = s.units := rfl
@[simp] theorem jumpTo_ldg (s : State) (c : CtxId) (a : Word) : (jumpTo s c a).ldg = s.ldg := rfl
@[simp] theorem jumpTo_wlk (s : State) (c : CtxId) (a : Word) : (jumpTo s c a).wlk = s.wlk := rfl
@[simp] theorem jumpTo_isf (s : State) (c : CtxId) (a : Word) : (jumpTo s c a).isf = s.isf := rfl
@[simp] theorem jumpTo_qpe (s : State) (c : CtxId) (a : Word) : (jumpTo s c a).qpe = s.qpe := rfl
@[simp] theorem jumpTo_cxd (s : State) (c : CtxId) (a : Word) : (jumpTo s c a).cxd = s.cxd := rfl
@[simp] theorem jumpTo_fls (s : State) (c : CtxId) (a : Word) : (jumpTo s c a).fls = s.fls := rfl
@[simp] theorem jumpTo_sec (s : State) (c : CtxId) (a : Word) : (jumpTo s c a).sec = s.sec := rfl
@[simp] theorem jumpTo_ras (s : State) (c : CtxId) (a : Word) : (jumpTo s c a).ras = s.ras := rfl
@[simp] theorem jumpTo_pwr (s : State) (c : CtxId) (a : Word) : (jumpTo s c a).pwr = s.pwr := rfl

/-! ### placeWait -/
@[simp] theorem placeWait_pending (s : State) (c : CtxId) (w : Wait) : (placeWait s c w).pending = s.pending := rfl
@[simp] theorem placeWait_free (s : State) (c : CtxId) (w : Wait) : (placeWait s c w).free = s.free := rfl
@[simp] theorem placeWait_phase (s : State) (c : CtxId) (w : Wait) : (placeWait s c w).phase = s.phase := rfl
@[simp] theorem placeWait_turn (s : State) (c : CtxId) (w : Wait) : (placeWait s c w).turn = s.turn := rfl
@[simp] theorem placeWait_queues (s : State) (c : CtxId) (w : Wait) : (placeWait s c w).queues = s.queues := rfl
@[simp] theorem placeWait_ops (s : State) (c : CtxId) (w : Wait) : (placeWait s c w).ops = s.ops := rfl
@[simp] theorem placeWait_tallies (s : State) (c : CtxId) (w : Wait) : (placeWait s c w).tallies = s.tallies := rfl
@[simp] theorem placeWait_arms (s : State) (c : CtxId) (w : Wait) : (placeWait s c w).arms = s.arms := rfl
@[simp] theorem placeWait_clk (s : State) (c : CtxId) (w : Wait) : (placeWait s c w).clk = s.clk := rfl
@[simp] theorem placeWait_plan (s : State) (c : CtxId) (w : Wait) : (placeWait s c w).plan = s.plan := rfl
@[simp] theorem placeWait_mem (s : State) (c : CtxId) (w : Wait) : (placeWait s c w).mem = s.mem := rfl
@[simp] theorem placeWait_units (s : State) (c : CtxId) (w : Wait) : (placeWait s c w).units = s.units := rfl
@[simp] theorem placeWait_ldg (s : State) (c : CtxId) (w : Wait) : (placeWait s c w).ldg = s.ldg := rfl
@[simp] theorem placeWait_wlk (s : State) (c : CtxId) (w : Wait) : (placeWait s c w).wlk = s.wlk := rfl
@[simp] theorem placeWait_isf (s : State) (c : CtxId) (w : Wait) : (placeWait s c w).isf = s.isf := rfl
@[simp] theorem placeWait_qpe (s : State) (c : CtxId) (w : Wait) : (placeWait s c w).qpe = s.qpe := rfl
@[simp] theorem placeWait_cxd (s : State) (c : CtxId) (w : Wait) : (placeWait s c w).cxd = s.cxd := rfl
@[simp] theorem placeWait_fls (s : State) (c : CtxId) (w : Wait) : (placeWait s c w).fls = s.fls := rfl
@[simp] theorem placeWait_sec (s : State) (c : CtxId) (w : Wait) : (placeWait s c w).sec = s.sec := rfl
@[simp] theorem placeWait_ras (s : State) (c : CtxId) (w : Wait) : (placeWait s c w).ras = s.ras := rfl
@[simp] theorem placeWait_pwr (s : State) (c : CtxId) (w : Wait) : (placeWait s c w).pwr = s.pwr := rfl

/-! ### leaveWait -/
@[simp] theorem leaveWait_pending (s : State) (c : CtxId) (n : Nat) : (leaveWait s c n).pending = s.pending := rfl
@[simp] theorem leaveWait_free (s : State) (c : CtxId) (n : Nat) : (leaveWait s c n).free = s.free := rfl
@[simp] theorem leaveWait_phase (s : State) (c : CtxId) (n : Nat) : (leaveWait s c n).phase = s.phase := rfl
@[simp] theorem leaveWait_turn (s : State) (c : CtxId) (n : Nat) : (leaveWait s c n).turn = s.turn := rfl
@[simp] theorem leaveWait_queues (s : State) (c : CtxId) (n : Nat) : (leaveWait s c n).queues = s.queues := rfl
@[simp] theorem leaveWait_ops (s : State) (c : CtxId) (n : Nat) : (leaveWait s c n).ops = s.ops := rfl
@[simp] theorem leaveWait_tallies (s : State) (c : CtxId) (n : Nat) : (leaveWait s c n).tallies = s.tallies := rfl
@[simp] theorem leaveWait_arms (s : State) (c : CtxId) (n : Nat) : (leaveWait s c n).arms = s.arms := rfl
@[simp] theorem leaveWait_clk (s : State) (c : CtxId) (n : Nat) : (leaveWait s c n).clk = s.clk := rfl
@[simp] theorem leaveWait_plan (s : State) (c : CtxId) (n : Nat) : (leaveWait s c n).plan = s.plan := rfl
@[simp] theorem leaveWait_mem (s : State) (c : CtxId) (n : Nat) : (leaveWait s c n).mem = s.mem := rfl
@[simp] theorem leaveWait_units (s : State) (c : CtxId) (n : Nat) : (leaveWait s c n).units = s.units := rfl
@[simp] theorem leaveWait_ldg (s : State) (c : CtxId) (n : Nat) : (leaveWait s c n).ldg = s.ldg := rfl
@[simp] theorem leaveWait_wlk (s : State) (c : CtxId) (n : Nat) : (leaveWait s c n).wlk = s.wlk := rfl
@[simp] theorem leaveWait_isf (s : State) (c : CtxId) (n : Nat) : (leaveWait s c n).isf = s.isf := rfl
@[simp] theorem leaveWait_qpe (s : State) (c : CtxId) (n : Nat) : (leaveWait s c n).qpe = s.qpe := rfl
@[simp] theorem leaveWait_cxd (s : State) (c : CtxId) (n : Nat) : (leaveWait s c n).cxd = s.cxd := rfl
@[simp] theorem leaveWait_fls (s : State) (c : CtxId) (n : Nat) : (leaveWait s c n).fls = s.fls := rfl
@[simp] theorem leaveWait_sec (s : State) (c : CtxId) (n : Nat) : (leaveWait s c n).sec = s.sec := rfl
@[simp] theorem leaveWait_ras (s : State) (c : CtxId) (n : Nat) : (leaveWait s c n).ras = s.ras := rfl
@[simp] theorem leaveWait_pwr (s : State) (c : CtxId) (n : Nat) : (leaveWait s c n).pwr = s.pwr := rfl

/-! ### endContext -/
@[simp] theorem endContext_pending (s : State) (n st : Nat) : (endContext s n st).pending = s.pending := rfl
@[simp] theorem endContext_free (s : State) (n st : Nat) : (endContext s n st).free = s.free := rfl
@[simp] theorem endContext_phase (s : State) (n st : Nat) : (endContext s n st).phase = s.phase := rfl
@[simp] theorem endContext_turn (s : State) (n st : Nat) : (endContext s n st).turn = s.turn := rfl
@[simp] theorem endContext_queues (s : State) (n st : Nat) : (endContext s n st).queues = s.queues := rfl
@[simp] theorem endContext_ops (s : State) (n st : Nat) : (endContext s n st).ops = s.ops := rfl
@[simp] theorem endContext_tallies (s : State) (n st : Nat) : (endContext s n st).tallies = s.tallies := rfl
@[simp] theorem endContext_arms (s : State) (n st : Nat) : (endContext s n st).arms = s.arms := rfl
@[simp] theorem endContext_clk (s : State) (n st : Nat) : (endContext s n st).clk = s.clk := rfl
@[simp] theorem endContext_plan (s : State) (n st : Nat) : (endContext s n st).plan = s.plan := rfl
@[simp] theorem endContext_mem (s : State) (n st : Nat) : (endContext s n st).mem = s.mem := rfl
@[simp] theorem endContext_units (s : State) (n st : Nat) : (endContext s n st).units = s.units := rfl
@[simp] theorem endContext_ldg (s : State) (n st : Nat) : (endContext s n st).ldg = s.ldg := rfl
@[simp] theorem endContext_wlk (s : State) (n st : Nat) : (endContext s n st).wlk = s.wlk := rfl
@[simp] theorem endContext_isf (s : State) (n st : Nat) : (endContext s n st).isf = s.isf := rfl
@[simp] theorem endContext_qpe (s : State) (n st : Nat) : (endContext s n st).qpe = s.qpe := rfl
@[simp] theorem endContext_cxd (s : State) (n st : Nat) : (endContext s n st).cxd = s.cxd := rfl
@[simp] theorem endContext_fls (s : State) (n st : Nat) : (endContext s n st).fls = s.fls := rfl
@[simp] theorem endContext_sec (s : State) (n st : Nat) : (endContext s n st).sec = s.sec := rfl
@[simp] theorem endContext_ras (s : State) (n st : Nat) : (endContext s n st).ras = s.ras := rfl
@[simp] theorem endContext_pwr (s : State) (n st : Nat) : (endContext s n st).pwr = s.pwr := rfl

/-! ### opUpd -/
@[simp] theorem opUpd_pending (s : State) (t : Ticket) (f : Op → Op) : (opUpd s t f).pending = s.pending := rfl
@[simp] theorem opUpd_free (s : State) (t : Ticket) (f : Op → Op) : (opUpd s t f).free = s.free := rfl
@[simp] theorem opUpd_phase (s : State) (t : Ticket) (f : Op → Op) : (opUpd s t f).phase = s.phase := rfl
@[simp] theorem opUpd_turn (s : State) (t : Ticket) (f : Op → Op) : (opUpd s t f).turn = s.turn := rfl
@[simp] theorem opUpd_ctxs (s : State) (t : Ticket) (f : Op → Op) : (opUpd s t f).ctxs = s.ctxs := rfl
@[simp] theorem opUpd_queues (s : State) (t : Ticket) (f : Op → Op) : (opUpd s t f).queues = s.queues := rfl
@[simp] theorem opUpd_tallies (s : State) (t : Ticket) (f : Op → Op) : (opUpd s t f).tallies = s.tallies := rfl
@[simp] theorem opUpd_arms (s : State) (t : Ticket) (f : Op → Op) : (opUpd s t f).arms = s.arms := rfl
@[simp] theorem opUpd_clk (s : State) (t : Ticket) (f : Op → Op) : (opUpd s t f).clk = s.clk := rfl
@[simp] theorem opUpd_plan (s : State) (t : Ticket) (f : Op → Op) : (opUpd s t f).plan = s.plan := rfl
@[simp] theorem opUpd_mem (s : State) (t : Ticket) (f : Op → Op) : (opUpd s t f).mem = s.mem := rfl
@[simp] theorem opUpd_units (s : State) (t : Ticket) (f : Op → Op) : (opUpd s t f).units = s.units := rfl
@[simp] theorem opUpd_ldg (s : State) (t : Ticket) (f : Op → Op) : (opUpd s t f).ldg = s.ldg := rfl
@[simp] theorem opUpd_wlk (s : State) (t : Ticket) (f : Op → Op) : (opUpd s t f).wlk = s.wlk := rfl
@[simp] theorem opUpd_isf (s : State) (t : Ticket) (f : Op → Op) : (opUpd s t f).isf = s.isf := rfl
@[simp] theorem opUpd_qpe (s : State) (t : Ticket) (f : Op → Op) : (opUpd s t f).qpe = s.qpe := rfl
@[simp] theorem opUpd_cxd (s : State) (t : Ticket) (f : Op → Op) : (opUpd s t f).cxd = s.cxd := rfl
@[simp] theorem opUpd_fls (s : State) (t : Ticket) (f : Op → Op) : (opUpd s t f).fls = s.fls := rfl
@[simp] theorem opUpd_sec (s : State) (t : Ticket) (f : Op → Op) : (opUpd s t f).sec = s.sec := rfl
@[simp] theorem opUpd_ras (s : State) (t : Ticket) (f : Op → Op) : (opUpd s t f).ras = s.ras := rfl
@[simp] theorem opUpd_pwr (s : State) (t : Ticket) (f : Op → Op) : (opUpd s t f).pwr = s.pwr := rfl

/-! ### opEnd -/
@[simp] theorem opEnd_pending (s : State) (t : Ticket) (st : Byte) (n : Nat) : (opEnd s t st n).pending = s.pending := rfl
@[simp] theorem opEnd_free (s : State) (t : Ticket) (st : Byte) (n : Nat) : (opEnd s t st n).free = s.free := rfl
@[simp] theorem opEnd_phase (s : State) (t : Ticket) (st : Byte) (n : Nat) : (opEnd s t st n).phase = s.phase := rfl
@[simp] theorem opEnd_turn (s : State) (t : Ticket) (st : Byte) (n : Nat) : (opEnd s t st n).turn = s.turn := rfl
@[simp] theorem opEnd_ctxs (s : State) (t : Ticket) (st : Byte) (n : Nat) : (opEnd s t st n).ctxs = s.ctxs := rfl
@[simp] theorem opEnd_queues (s : State) (t : Ticket) (st : Byte) (n : Nat) : (opEnd s t st n).queues = s.queues := rfl
@[simp] theorem opEnd_tallies (s : State) (t : Ticket) (st : Byte) (n : Nat) : (opEnd s t st n).tallies = s.tallies := rfl
@[simp] theorem opEnd_arms (s : State) (t : Ticket) (st : Byte) (n : Nat) : (opEnd s t st n).arms = s.arms := rfl
@[simp] theorem opEnd_clk (s : State) (t : Ticket) (st : Byte) (n : Nat) : (opEnd s t st n).clk = s.clk := rfl
@[simp] theorem opEnd_plan (s : State) (t : Ticket) (st : Byte) (n : Nat) : (opEnd s t st n).plan = s.plan := rfl
@[simp] theorem opEnd_mem (s : State) (t : Ticket) (st : Byte) (n : Nat) : (opEnd s t st n).mem = s.mem := rfl
@[simp] theorem opEnd_units (s : State) (t : Ticket) (st : Byte) (n : Nat) : (opEnd s t st n).units = s.units := rfl
@[simp] theorem opEnd_ldg (s : State) (t : Ticket) (st : Byte) (n : Nat) : (opEnd s t st n).ldg = s.ldg := rfl
@[simp] theorem opEnd_wlk (s : State) (t : Ticket) (st : Byte) (n : Nat) : (opEnd s t st n).wlk = s.wlk := rfl
@[simp] theorem opEnd_isf (s : State) (t : Ticket) (st : Byte) (n : Nat) : (opEnd s t st n).isf = s.isf := rfl
@[simp] theorem opEnd_qpe (s : State) (t : Ticket) (st : Byte) (n : Nat) : (opEnd s t st n).qpe = s.qpe := rfl
@[simp] theorem opEnd_cxd (s : State) (t : Ticket) (st : Byte) (n : Nat) : (opEnd s t st n).cxd = s.cxd := rfl
@[simp] theorem opEnd_fls (s : State) (t : Ticket) (st : Byte) (n : Nat) : (opEnd s t st n).fls = s.fls := rfl
@[simp] theorem opEnd_sec (s : State) (t : Ticket) (st : Byte) (n : Nat) : (opEnd s t st n).sec = s.sec := rfl
@[simp] theorem opEnd_ras (s : State) (t : Ticket) (st : Byte) (n : Nat) : (opEnd s t st n).ras = s.ras := rfl
@[simp] theorem opEnd_pwr (s : State) (t : Ticket) (st : Byte) (n : Nat) : (opEnd s t st n).pwr = s.pwr := rfl

/-! ### opAwait -/
@[simp] theorem opAwait_pending (s : State) (t : Ticket) (m n : Nat) : (opAwait s t m n).pending = s.pending := rfl
@[simp] theorem opAwait_free (s : State) (t : Ticket) (m n : Nat) : (opAwait s t m n).free = s.free := rfl
@[simp] theorem opAwait_phase (s : State) (t : Ticket) (m n : Nat) : (opAwait s t m n).phase = s.phase := rfl
@[simp] theorem opAwait_turn (s : State) (t : Ticket) (m n : Nat) : (opAwait s t m n).turn = s.turn := rfl
@[simp] theorem opAwait_ctxs (s : State) (t : Ticket) (m n : Nat) : (opAwait s t m n).ctxs = s.ctxs := rfl
@[simp] theorem opAwait_queues (s : State) (t : Ticket) (m n : Nat) : (opAwait s t m n).queues = s.queues := rfl
@[simp] theorem opAwait_tallies (s : State) (t : Ticket) (m n : Nat) : (opAwait s t m n).tallies = s.tallies := rfl
@[simp] theorem opAwait_arms (s : State) (t : Ticket) (m n : Nat) : (opAwait s t m n).arms = s.arms := rfl
@[simp] theorem opAwait_clk (s : State) (t : Ticket) (m n : Nat) : (opAwait s t m n).clk = s.clk := rfl
@[simp] theorem opAwait_plan (s : State) (t : Ticket) (m n : Nat) : (opAwait s t m n).plan = s.plan := rfl
@[simp] theorem opAwait_mem (s : State) (t : Ticket) (m n : Nat) : (opAwait s t m n).mem = s.mem := rfl
@[simp] theorem opAwait_units (s : State) (t : Ticket) (m n : Nat) : (opAwait s t m n).units = s.units := rfl
@[simp] theorem opAwait_ldg (s : State) (t : Ticket) (m n : Nat) : (opAwait s t m n).ldg = s.ldg := rfl
@[simp] theorem opAwait_wlk (s : State) (t : Ticket) (m n : Nat) : (opAwait s t m n).wlk = s.wlk := rfl
@[simp] theorem opAwait_isf (s : State) (t : Ticket) (m n : Nat) : (opAwait s t m n).isf = s.isf := rfl
@[simp] theorem opAwait_qpe (s : State) (t : Ticket) (m n : Nat) : (opAwait s t m n).qpe = s.qpe := rfl
@[simp] theorem opAwait_cxd (s : State) (t : Ticket) (m n : Nat) : (opAwait s t m n).cxd = s.cxd := rfl
@[simp] theorem opAwait_fls (s : State) (t : Ticket) (m n : Nat) : (opAwait s t m n).fls = s.fls := rfl
@[simp] theorem opAwait_sec (s : State) (t : Ticket) (m n : Nat) : (opAwait s t m n).sec = s.sec := rfl
@[simp] theorem opAwait_ras (s : State) (t : Ticket) (m n : Nat) : (opAwait s t m n).ras = s.ras := rfl
@[simp] theorem opAwait_pwr (s : State) (t : Ticket) (m n : Nat) : (opAwait s t m n).pwr = s.pwr := rfl

/-! ### settle -/
@[simp] theorem settle_pending (s : State) (ev : Nat) : (settle s ev).pending = s.pending := rfl
@[simp] theorem settle_free (s : State) (ev : Nat) : (settle s ev).free = s.free := rfl
@[simp] theorem settle_phase (s : State) (ev : Nat) : (settle s ev).phase = s.phase := rfl
@[simp] theorem settle_turn (s : State) (ev : Nat) : (settle s ev).turn = s.turn := rfl
@[simp] theorem settle_ctxs (s : State) (ev : Nat) : (settle s ev).ctxs = s.ctxs := rfl
@[simp] theorem settle_queues (s : State) (ev : Nat) : (settle s ev).queues = s.queues := rfl
@[simp] theorem settle_tallies (s : State) (ev : Nat) : (settle s ev).tallies = s.tallies := rfl
@[simp] theorem settle_arms (s : State) (ev : Nat) : (settle s ev).arms = s.arms := rfl
@[simp] theorem settle_clk (s : State) (ev : Nat) : (settle s ev).clk = s.clk := rfl
@[simp] theorem settle_plan (s : State) (ev : Nat) : (settle s ev).plan = s.plan := rfl
@[simp] theorem settle_mem (s : State) (ev : Nat) : (settle s ev).mem = s.mem := rfl
@[simp] theorem settle_units (s : State) (ev : Nat) : (settle s ev).units = s.units := rfl
@[simp] theorem settle_ldg (s : State) (ev : Nat) : (settle s ev).ldg = s.ldg := rfl
@[simp] theorem settle_wlk (s : State) (ev : Nat) : (settle s ev).wlk = s.wlk := rfl
@[simp] theorem settle_isf (s : State) (ev : Nat) : (settle s ev).isf = s.isf := rfl
@[simp] theorem settle_qpe (s : State) (ev : Nat) : (settle s ev).qpe = s.qpe := rfl
@[simp] theorem settle_cxd (s : State) (ev : Nat) : (settle s ev).cxd = s.cxd := rfl
@[simp] theorem settle_fls (s : State) (ev : Nat) : (settle s ev).fls = s.fls := rfl
@[simp] theorem settle_sec (s : State) (ev : Nat) : (settle s ev).sec = s.sec := rfl
@[simp] theorem settle_ras (s : State) (ev : Nat) : (settle s ev).ras = s.ras := rfl
@[simp] theorem settle_pwr (s : State) (ev : Nat) : (settle s ev).pwr = s.pwr := rfl

/-! ### refreshShares -/
@[simp] theorem refreshShares_pending (s : State) : (refreshShares s).pending = s.pending := rfl
@[simp] theorem refreshShares_free (s : State) : (refreshShares s).free = s.free := rfl
@[simp] theorem refreshShares_phase (s : State) : (refreshShares s).phase = s.phase := rfl
@[simp] theorem refreshShares_turn (s : State) : (refreshShares s).turn = s.turn := rfl
@[simp] theorem refreshShares_ctxs (s : State) : (refreshShares s).ctxs = s.ctxs := rfl
@[simp] theorem refreshShares_queues (s : State) : (refreshShares s).queues = s.queues := rfl
@[simp] theorem refreshShares_ops (s : State) : (refreshShares s).ops = s.ops := rfl
@[simp] theorem refreshShares_tallies (s : State) : (refreshShares s).tallies = s.tallies := rfl
@[simp] theorem refreshShares_arms (s : State) : (refreshShares s).arms = s.arms := rfl
@[simp] theorem refreshShares_clk (s : State) : (refreshShares s).clk = s.clk := rfl
@[simp] theorem refreshShares_plan (s : State) : (refreshShares s).plan = s.plan := rfl
@[simp] theorem refreshShares_mem (s : State) : (refreshShares s).mem = s.mem := rfl
@[simp] theorem refreshShares_units (s : State) : (refreshShares s).units = s.units := rfl
@[simp] theorem refreshShares_wlk (s : State) : (refreshShares s).wlk = s.wlk := rfl
@[simp] theorem refreshShares_isf (s : State) : (refreshShares s).isf = s.isf := rfl
@[simp] theorem refreshShares_qpe (s : State) : (refreshShares s).qpe = s.qpe := rfl
@[simp] theorem refreshShares_cxd (s : State) : (refreshShares s).cxd = s.cxd := rfl
@[simp] theorem refreshShares_fls (s : State) : (refreshShares s).fls = s.fls := rfl
@[simp] theorem refreshShares_sec (s : State) : (refreshShares s).sec = s.sec := rfl
@[simp] theorem refreshShares_ras (s : State) : (refreshShares s).ras = s.ras := rfl
@[simp] theorem refreshShares_pwr (s : State) : (refreshShares s).pwr = s.pwr := rfl

/-! ### wakeBuild -/
@[simp] theorem wakeBuild_pending (s : State) (p : Nat) : (wakeBuild s p).pending = s.pending := by unfold wakeBuild; split <;> (try split) <;> rfl
@[simp] theorem wakeBuild_free (s : State) (p : Nat) : (wakeBuild s p).free = s.free := by unfold wakeBuild; split <;> (try split) <;> rfl
@[simp] theorem wakeBuild_phase (s : State) (p : Nat) : (wakeBuild s p).phase = s.phase := by unfold wakeBuild; split <;> (try split) <;> rfl
@[simp] theorem wakeBuild_ctxs (s : State) (p : Nat) : (wakeBuild s p).ctxs = s.ctxs := by unfold wakeBuild; split <;> (try split) <;> rfl
@[simp] theorem wakeBuild_queues (s : State) (p : Nat) : (wakeBuild s p).queues = s.queues := by unfold wakeBuild; split <;> (try split) <;> rfl
@[simp] theorem wakeBuild_ops (s : State) (p : Nat) : (wakeBuild s p).ops = s.ops := by unfold wakeBuild; split <;> (try split) <;> rfl
@[simp] theorem wakeBuild_tallies (s : State) (p : Nat) : (wakeBuild s p).tallies = s.tallies := by unfold wakeBuild; split <;> (try split) <;> rfl
@[simp] theorem wakeBuild_arms (s : State) (p : Nat) : (wakeBuild s p).arms = s.arms := by unfold wakeBuild; split <;> (try split) <;> rfl
@[simp] theorem wakeBuild_clk (s : State) (p : Nat) : (wakeBuild s p).clk = s.clk := by unfold wakeBuild; split <;> (try split) <;> rfl
@[simp] theorem wakeBuild_plan (s : State) (p : Nat) : (wakeBuild s p).plan = s.plan := by unfold wakeBuild; split <;> (try split) <;> rfl
@[simp] theorem wakeBuild_mem (s : State) (p : Nat) : (wakeBuild s p).mem = s.mem := by unfold wakeBuild; split <;> (try split) <;> rfl
@[simp] theorem wakeBuild_units (s : State) (p : Nat) : (wakeBuild s p).units = s.units := by unfold wakeBuild; split <;> (try split) <;> rfl
@[simp] theorem wakeBuild_wlk (s : State) (p : Nat) : (wakeBuild s p).wlk = s.wlk := by unfold wakeBuild; split <;> (try split) <;> rfl
@[simp] theorem wakeBuild_isf (s : State) (p : Nat) : (wakeBuild s p).isf = s.isf := by unfold wakeBuild; split <;> (try split) <;> rfl
@[simp] theorem wakeBuild_qpe (s : State) (p : Nat) : (wakeBuild s p).qpe = s.qpe := by unfold wakeBuild; split <;> (try split) <;> rfl
@[simp] theorem wakeBuild_cxd (s : State) (p : Nat) : (wakeBuild s p).cxd = s.cxd := by unfold wakeBuild; split <;> (try split) <;> rfl
@[simp] theorem wakeBuild_fls (s : State) (p : Nat) : (wakeBuild s p).fls = s.fls := by unfold wakeBuild; split <;> (try split) <;> rfl
@[simp] theorem wakeBuild_sec (s : State) (p : Nat) : (wakeBuild s p).sec = s.sec := by unfold wakeBuild; split <;> (try split) <;> rfl
@[simp] theorem wakeBuild_ras (s : State) (p : Nat) : (wakeBuild s p).ras = s.ras := by unfold wakeBuild; split <;> (try split) <;> rfl
@[simp] theorem wakeBuild_pwr (s : State) (p : Nat) : (wakeBuild s p).pwr = s.pwr := by unfold wakeBuild; split <;> (try split) <;> rfl

/-! ### wakeGate -/
@[simp] theorem wakeGate_pending (s : State) (i : Nat) : (wakeGate s i).pending = s.pending := by simp only [wakeGate, List.foldl]; split <;> split <;> simp
@[simp] theorem wakeGate_free (s : State) (i : Nat) : (wakeGate s i).free = s.free := by simp only [wakeGate, List.foldl]; split <;> split <;> simp
@[simp] theorem wakeGate_phase (s : State) (i : Nat) : (wakeGate s i).phase = s.phase := by simp only [wakeGate, List.foldl]; split <;> split <;> simp
@[simp] theorem wakeGate_ctxs (s : State) (i : Nat) : (wakeGate s i).ctxs = s.ctxs := by simp only [wakeGate, List.foldl]; split <;> split <;> simp
@[simp] theorem wakeGate_queues (s : State) (i : Nat) : (wakeGate s i).queues = s.queues := by simp only [wakeGate, List.foldl]; split <;> split <;> simp
@[simp] theorem wakeGate_ops (s : State) (i : Nat) : (wakeGate s i).ops = s.ops := by simp only [wakeGate, List.foldl]; split <;> split <;> simp
@[simp] theorem wakeGate_tallies (s : State) (i : Nat) : (wakeGate s i).tallies = s.tallies := by simp only [wakeGate, List.foldl]; split <;> split <;> simp
@[simp] theorem wakeGate_arms (s : State) (i : Nat) : (wakeGate s i).arms = s.arms := by simp only [wakeGate, List.foldl]; split <;> split <;> simp
@[simp] theorem wakeGate_clk (s : State) (i : Nat) : (wakeGate s i).clk = s.clk := by simp only [wakeGate, List.foldl]; split <;> split <;> simp
@[simp] theorem wakeGate_plan (s : State) (i : Nat) : (wakeGate s i).plan = s.plan := by simp only [wakeGate, List.foldl]; split <;> split <;> simp
@[simp] theorem wakeGate_mem (s : State) (i : Nat) : (wakeGate s i).mem = s.mem := by simp only [wakeGate, List.foldl]; split <;> split <;> simp
@[simp] theorem wakeGate_units (s : State) (i : Nat) : (wakeGate s i).units = s.units := by simp only [wakeGate, List.foldl]; split <;> split <;> simp
@[simp] theorem wakeGate_wlk (s : State) (i : Nat) : (wakeGate s i).wlk = s.wlk := by simp only [wakeGate, List.foldl]; split <;> split <;> simp
@[simp] theorem wakeGate_isf (s : State) (i : Nat) : (wakeGate s i).isf = s.isf := by simp only [wakeGate, List.foldl]; split <;> split <;> simp
@[simp] theorem wakeGate_qpe (s : State) (i : Nat) : (wakeGate s i).qpe = s.qpe := by simp only [wakeGate, List.foldl]; split <;> split <;> simp
@[simp] theorem wakeGate_cxd (s : State) (i : Nat) : (wakeGate s i).cxd = s.cxd := by simp only [wakeGate, List.foldl]; split <;> split <;> simp
@[simp] theorem wakeGate_fls (s : State) (i : Nat) : (wakeGate s i).fls = s.fls := by simp only [wakeGate, List.foldl]; split <;> split <;> simp
@[simp] theorem wakeGate_sec (s : State) (i : Nat) : (wakeGate s i).sec = s.sec := by simp only [wakeGate, List.foldl]; split <;> split <;> simp
@[simp] theorem wakeGate_ras (s : State) (i : Nat) : (wakeGate s i).ras = s.ras := by simp only [wakeGate, List.foldl]; split <;> split <;> simp
@[simp] theorem wakeGate_pwr (s : State) (i : Nat) : (wakeGate s i).pwr = s.pwr := by simp only [wakeGate, List.foldl]; split <;> split <;> simp

/-! ### latchArms -/
@[simp] theorem latchArms_pending (s : State) (i : Nat) (v : Word) : (latchArms s i v).pending = s.pending := by simp only [latchArms]; split <;> rfl
@[simp] theorem latchArms_free (s : State) (i : Nat) (v : Word) : (latchArms s i v).free = s.free := by simp only [latchArms]; split <;> rfl
@[simp] theorem latchArms_phase (s : State) (i : Nat) (v : Word) : (latchArms s i v).phase = s.phase := by simp only [latchArms]; split <;> rfl
@[simp] theorem latchArms_turn (s : State) (i : Nat) (v : Word) : (latchArms s i v).turn = s.turn := by simp only [latchArms]; split <;> rfl
@[simp] theorem latchArms_ctxs (s : State) (i : Nat) (v : Word) : (latchArms s i v).ctxs = s.ctxs := by simp only [latchArms]; split <;> rfl
@[simp] theorem latchArms_queues (s : State) (i : Nat) (v : Word) : (latchArms s i v).queues = s.queues := by simp only [latchArms]; split <;> rfl
@[simp] theorem latchArms_ops (s : State) (i : Nat) (v : Word) : (latchArms s i v).ops = s.ops := by simp only [latchArms]; split <;> rfl
@[simp] theorem latchArms_tallies (s : State) (i : Nat) (v : Word) : (latchArms s i v).tallies = s.tallies := by simp only [latchArms]; split <;> rfl
@[simp] theorem latchArms_clk (s : State) (i : Nat) (v : Word) : (latchArms s i v).clk = s.clk := by simp only [latchArms]; split <;> rfl
@[simp] theorem latchArms_plan (s : State) (i : Nat) (v : Word) : (latchArms s i v).plan = s.plan := by simp only [latchArms]; split <;> rfl
@[simp] theorem latchArms_mem (s : State) (i : Nat) (v : Word) : (latchArms s i v).mem = s.mem := by simp only [latchArms]; split <;> rfl
@[simp] theorem latchArms_units (s : State) (i : Nat) (v : Word) : (latchArms s i v).units = s.units := by simp only [latchArms]; split <;> rfl
@[simp] theorem latchArms_ldg (s : State) (i : Nat) (v : Word) : (latchArms s i v).ldg = s.ldg := by simp only [latchArms]; split <;> rfl
@[simp] theorem latchArms_wlk (s : State) (i : Nat) (v : Word) : (latchArms s i v).wlk = s.wlk := by simp only [latchArms]; split <;> rfl
@[simp] theorem latchArms_isf (s : State) (i : Nat) (v : Word) : (latchArms s i v).isf = s.isf := by simp only [latchArms]; split <;> rfl
@[simp] theorem latchArms_qpe (s : State) (i : Nat) (v : Word) : (latchArms s i v).qpe = s.qpe := by simp only [latchArms]; split <;> rfl
@[simp] theorem latchArms_cxd (s : State) (i : Nat) (v : Word) : (latchArms s i v).cxd = s.cxd := by simp only [latchArms]; split <;> rfl
@[simp] theorem latchArms_fls (s : State) (i : Nat) (v : Word) : (latchArms s i v).fls = s.fls := by simp only [latchArms]; split <;> rfl
@[simp] theorem latchArms_sec (s : State) (i : Nat) (v : Word) : (latchArms s i v).sec = s.sec := by simp only [latchArms]; split <;> rfl
@[simp] theorem latchArms_ras (s : State) (i : Nat) (v : Word) : (latchArms s i v).ras = s.ras := by simp only [latchArms]; split <;> rfl
@[simp] theorem latchArms_pwr (s : State) (i : Nat) (v : Word) : (latchArms s i v).pwr = s.pwr := by simp only [latchArms]; split <;> rfl

/-- Where no arm is armed no arm becomes due. -/
theorem latchArms_of_unarmed (s : State) (i : Nat) (v : Word) (h : ∀ y ∈ s.arms, y.2.armed = false) : latchArms s i v = s := by
  have hn : ¬ (s.arms.any fun y =>
      let l := tget {} s.cxd.lds (y.1 / 64)
      y.2.armed && y.2.tally.toNat = i && decide (l.tbase.toNat ≤ i) && decide (i < l.tbase.toNat + l.tcount.toNat) &&
        decide (y.2.value.toNat ≤ v.toNat)) = true := by
    simp only [List.any_eq_true, not_exists, not_and]
    intro y hy
    simp [h y hy]
  simp only [latchArms, hn, if_false, Bool.false_eq_true]

/-! ### tallySet -/
@[simp] theorem tallySet_pending (s : State) (i : Nat) (v : Word) : (tallySet s i v).pending = s.pending := by simp [tallySet]
@[simp] theorem tallySet_free (s : State) (i : Nat) (v : Word) : (tallySet s i v).free = s.free := by simp [tallySet]
@[simp] theorem tallySet_phase (s : State) (i : Nat) (v : Word) : (tallySet s i v).phase = s.phase := by simp [tallySet]
@[simp] theorem tallySet_ctxs (s : State) (i : Nat) (v : Word) : (tallySet s i v).ctxs = s.ctxs := by simp [tallySet]
@[simp] theorem tallySet_queues (s : State) (i : Nat) (v : Word) : (tallySet s i v).queues = s.queues := by simp [tallySet]
@[simp] theorem tallySet_clk (s : State) (i : Nat) (v : Word) : (tallySet s i v).clk = s.clk := by simp [tallySet]
@[simp] theorem tallySet_plan (s : State) (i : Nat) (v : Word) : (tallySet s i v).plan = s.plan := by simp [tallySet]
@[simp] theorem tallySet_mem (s : State) (i : Nat) (v : Word) : (tallySet s i v).mem = s.mem := by simp [tallySet]
@[simp] theorem tallySet_units (s : State) (i : Nat) (v : Word) : (tallySet s i v).units = s.units := by simp [tallySet]
@[simp] theorem tallySet_wlk (s : State) (i : Nat) (v : Word) : (tallySet s i v).wlk = s.wlk := by simp [tallySet]
@[simp] theorem tallySet_isf (s : State) (i : Nat) (v : Word) : (tallySet s i v).isf = s.isf := by simp [tallySet]
@[simp] theorem tallySet_qpe (s : State) (i : Nat) (v : Word) : (tallySet s i v).qpe = s.qpe := by simp [tallySet]
@[simp] theorem tallySet_cxd (s : State) (i : Nat) (v : Word) : (tallySet s i v).cxd = s.cxd := by simp [tallySet]
@[simp] theorem tallySet_fls (s : State) (i : Nat) (v : Word) : (tallySet s i v).fls = s.fls := by simp [tallySet]
@[simp] theorem tallySet_sec (s : State) (i : Nat) (v : Word) : (tallySet s i v).sec = s.sec := by simp [tallySet]
@[simp] theorem tallySet_ras (s : State) (i : Nat) (v : Word) : (tallySet s i v).ras = s.ras := by simp [tallySet]
@[simp] theorem tallySet_pwr (s : State) (i : Nat) (v : Word) : (tallySet s i v).pwr = s.pwr := by simp [tallySet]

/-! ### tallyAdd -/
@[simp] theorem tallyAdd_pending (s : State) (i n : Nat) : (tallyAdd s i n).pending = s.pending := by simp [tallyAdd]
@[simp] theorem tallyAdd_free (s : State) (i n : Nat) : (tallyAdd s i n).free = s.free := by simp [tallyAdd]
@[simp] theorem tallyAdd_phase (s : State) (i n : Nat) : (tallyAdd s i n).phase = s.phase := by simp [tallyAdd]
@[simp] theorem tallyAdd_ctxs (s : State) (i n : Nat) : (tallyAdd s i n).ctxs = s.ctxs := by simp [tallyAdd]
@[simp] theorem tallyAdd_queues (s : State) (i n : Nat) : (tallyAdd s i n).queues = s.queues := by simp [tallyAdd]
@[simp] theorem tallyAdd_clk (s : State) (i n : Nat) : (tallyAdd s i n).clk = s.clk := by simp [tallyAdd]
@[simp] theorem tallyAdd_plan (s : State) (i n : Nat) : (tallyAdd s i n).plan = s.plan := by simp [tallyAdd]
@[simp] theorem tallyAdd_mem (s : State) (i n : Nat) : (tallyAdd s i n).mem = s.mem := by simp [tallyAdd]
@[simp] theorem tallyAdd_units (s : State) (i n : Nat) : (tallyAdd s i n).units = s.units := by simp [tallyAdd]
@[simp] theorem tallyAdd_wlk (s : State) (i n : Nat) : (tallyAdd s i n).wlk = s.wlk := by simp [tallyAdd]
@[simp] theorem tallyAdd_isf (s : State) (i n : Nat) : (tallyAdd s i n).isf = s.isf := by simp [tallyAdd]
@[simp] theorem tallyAdd_qpe (s : State) (i n : Nat) : (tallyAdd s i n).qpe = s.qpe := by simp [tallyAdd]
@[simp] theorem tallyAdd_cxd (s : State) (i n : Nat) : (tallyAdd s i n).cxd = s.cxd := by simp [tallyAdd]
@[simp] theorem tallyAdd_fls (s : State) (i n : Nat) : (tallyAdd s i n).fls = s.fls := by simp [tallyAdd]
@[simp] theorem tallyAdd_sec (s : State) (i n : Nat) : (tallyAdd s i n).sec = s.sec := by simp [tallyAdd]
@[simp] theorem tallyAdd_ras (s : State) (i n : Nat) : (tallyAdd s i n).ras = s.ras := by simp [tallyAdd]
@[simp] theorem tallyAdd_pwr (s : State) (i n : Nat) : (tallyAdd s i n).pwr = s.pwr := by simp [tallyAdd]

/-! ### memWrite -/
@[simp] theorem memWrite_pending (s : State) (a : Nat) (bs : List Byte) : (memWrite s a bs).pending = s.pending := by unfold memWrite; split <;> rfl
@[simp] theorem memWrite_free (s : State) (a : Nat) (bs : List Byte) : (memWrite s a bs).free = s.free := by unfold memWrite; split <;> rfl
@[simp] theorem memWrite_phase (s : State) (a : Nat) (bs : List Byte) : (memWrite s a bs).phase = s.phase := by unfold memWrite; split <;> rfl
@[simp] theorem memWrite_ctxs (s : State) (a : Nat) (bs : List Byte) : (memWrite s a bs).ctxs = s.ctxs := by unfold memWrite; split <;> rfl
@[simp] theorem memWrite_queues (s : State) (a : Nat) (bs : List Byte) : (memWrite s a bs).queues = s.queues := by unfold memWrite; split <;> rfl
@[simp] theorem memWrite_ops (s : State) (a : Nat) (bs : List Byte) : (memWrite s a bs).ops = s.ops := by unfold memWrite; split <;> rfl
@[simp] theorem memWrite_tallies (s : State) (a : Nat) (bs : List Byte) : (memWrite s a bs).tallies = s.tallies := by unfold memWrite; split <;> rfl
@[simp] theorem memWrite_arms (s : State) (a : Nat) (bs : List Byte) : (memWrite s a bs).arms = s.arms := by unfold memWrite; split <;> rfl
@[simp] theorem memWrite_clk (s : State) (a : Nat) (bs : List Byte) : (memWrite s a bs).clk = s.clk := by unfold memWrite; split <;> rfl
@[simp] theorem memWrite_plan (s : State) (a : Nat) (bs : List Byte) : (memWrite s a bs).plan = s.plan := by unfold memWrite; split <;> rfl
@[simp] theorem memWrite_units (s : State) (a : Nat) (bs : List Byte) : (memWrite s a bs).units = s.units := by unfold memWrite; split <;> rfl
@[simp] theorem memWrite_ldg (s : State) (a : Nat) (bs : List Byte) : (memWrite s a bs).ldg = s.ldg := by unfold memWrite; split <;> rfl
@[simp] theorem memWrite_wlk (s : State) (a : Nat) (bs : List Byte) : (memWrite s a bs).wlk = s.wlk := by unfold memWrite; split <;> rfl
@[simp] theorem memWrite_isf (s : State) (a : Nat) (bs : List Byte) : (memWrite s a bs).isf = s.isf := by unfold memWrite; split <;> rfl
@[simp] theorem memWrite_qpe (s : State) (a : Nat) (bs : List Byte) : (memWrite s a bs).qpe = s.qpe := by unfold memWrite; split <;> rfl
@[simp] theorem memWrite_cxd (s : State) (a : Nat) (bs : List Byte) : (memWrite s a bs).cxd = s.cxd := by unfold memWrite; split <;> rfl
@[simp] theorem memWrite_fls (s : State) (a : Nat) (bs : List Byte) : (memWrite s a bs).fls = s.fls := by unfold memWrite; split <;> rfl
@[simp] theorem memWrite_sec (s : State) (a : Nat) (bs : List Byte) : (memWrite s a bs).sec = s.sec := by unfold memWrite; split <;> rfl
@[simp] theorem memWrite_ras (s : State) (a : Nat) (bs : List Byte) : (memWrite s a bs).ras = s.ras := by unfold memWrite; split <;> rfl
@[simp] theorem memWrite_pwr (s : State) (a : Nat) (bs : List Byte) : (memWrite s a bs).pwr = s.pwr := by unfold memWrite; split <;> rfl

/-! ### memWriteNum -/
@[simp] theorem memWriteNum_pending (s : State) (a n v : Nat) : (memWriteNum s a n v).pending = s.pending := by simp [memWriteNum]
@[simp] theorem memWriteNum_free (s : State) (a n v : Nat) : (memWriteNum s a n v).free = s.free := by simp [memWriteNum]
@[simp] theorem memWriteNum_phase (s : State) (a n v : Nat) : (memWriteNum s a n v).phase = s.phase := by simp [memWriteNum]
@[simp] theorem memWriteNum_ctxs (s : State) (a n v : Nat) : (memWriteNum s a n v).ctxs = s.ctxs := by simp [memWriteNum]
@[simp] theorem memWriteNum_queues (s : State) (a n v : Nat) : (memWriteNum s a n v).queues = s.queues := by simp [memWriteNum]
@[simp] theorem memWriteNum_ops (s : State) (a n v : Nat) : (memWriteNum s a n v).ops = s.ops := by simp [memWriteNum]
@[simp] theorem memWriteNum_tallies (s : State) (a n v : Nat) : (memWriteNum s a n v).tallies = s.tallies := by simp [memWriteNum]
@[simp] theorem memWriteNum_arms (s : State) (a n v : Nat) : (memWriteNum s a n v).arms = s.arms := by simp [memWriteNum]
@[simp] theorem memWriteNum_clk (s : State) (a n v : Nat) : (memWriteNum s a n v).clk = s.clk := by simp [memWriteNum]
@[simp] theorem memWriteNum_plan (s : State) (a n v : Nat) : (memWriteNum s a n v).plan = s.plan := by simp [memWriteNum]
@[simp] theorem memWriteNum_units (s : State) (a n v : Nat) : (memWriteNum s a n v).units = s.units := by simp [memWriteNum]
@[simp] theorem memWriteNum_ldg (s : State) (a n v : Nat) : (memWriteNum s a n v).ldg = s.ldg := by simp [memWriteNum]
@[simp] theorem memWriteNum_wlk (s : State) (a n v : Nat) : (memWriteNum s a n v).wlk = s.wlk := by simp [memWriteNum]
@[simp] theorem memWriteNum_isf (s : State) (a n v : Nat) : (memWriteNum s a n v).isf = s.isf := by simp [memWriteNum]
@[simp] theorem memWriteNum_qpe (s : State) (a n v : Nat) : (memWriteNum s a n v).qpe = s.qpe := by simp [memWriteNum]
@[simp] theorem memWriteNum_cxd (s : State) (a n v : Nat) : (memWriteNum s a n v).cxd = s.cxd := by simp [memWriteNum]
@[simp] theorem memWriteNum_fls (s : State) (a n v : Nat) : (memWriteNum s a n v).fls = s.fls := by simp [memWriteNum]
@[simp] theorem memWriteNum_sec (s : State) (a n v : Nat) : (memWriteNum s a n v).sec = s.sec := by simp [memWriteNum]
@[simp] theorem memWriteNum_ras (s : State) (a n v : Nat) : (memWriteNum s a n v).ras = s.ras := by simp [memWriteNum]
@[simp] theorem memWriteNum_pwr (s : State) (a n v : Nat) : (memWriteNum s a n v).pwr = s.pwr := by simp [memWriteNum]

/-! ### poisonLine -/
@[simp] theorem poisonLine_pending (s : State) (l : Nat) : (poisonLine s l).pending = s.pending := rfl
@[simp] theorem poisonLine_free (s : State) (l : Nat) : (poisonLine s l).free = s.free := rfl
@[simp] theorem poisonLine_phase (s : State) (l : Nat) : (poisonLine s l).phase = s.phase := rfl
@[simp] theorem poisonLine_turn (s : State) (l : Nat) : (poisonLine s l).turn = s.turn := rfl
@[simp] theorem poisonLine_ctxs (s : State) (l : Nat) : (poisonLine s l).ctxs = s.ctxs := rfl
@[simp] theorem poisonLine_queues (s : State) (l : Nat) : (poisonLine s l).queues = s.queues := rfl
@[simp] theorem poisonLine_ops (s : State) (l : Nat) : (poisonLine s l).ops = s.ops := rfl
@[simp] theorem poisonLine_tallies (s : State) (l : Nat) : (poisonLine s l).tallies = s.tallies := rfl
@[simp] theorem poisonLine_arms (s : State) (l : Nat) : (poisonLine s l).arms = s.arms := rfl
@[simp] theorem poisonLine_clk (s : State) (l : Nat) : (poisonLine s l).clk = s.clk := rfl
@[simp] theorem poisonLine_plan (s : State) (l : Nat) : (poisonLine s l).plan = s.plan := rfl
@[simp] theorem poisonLine_units (s : State) (l : Nat) : (poisonLine s l).units = s.units := rfl
@[simp] theorem poisonLine_ldg (s : State) (l : Nat) : (poisonLine s l).ldg = s.ldg := rfl
@[simp] theorem poisonLine_wlk (s : State) (l : Nat) : (poisonLine s l).wlk = s.wlk := rfl
@[simp] theorem poisonLine_isf (s : State) (l : Nat) : (poisonLine s l).isf = s.isf := rfl
@[simp] theorem poisonLine_qpe (s : State) (l : Nat) : (poisonLine s l).qpe = s.qpe := rfl
@[simp] theorem poisonLine_cxd (s : State) (l : Nat) : (poisonLine s l).cxd = s.cxd := rfl
@[simp] theorem poisonLine_fls (s : State) (l : Nat) : (poisonLine s l).fls = s.fls := rfl
@[simp] theorem poisonLine_sec (s : State) (l : Nat) : (poisonLine s l).sec = s.sec := rfl
@[simp] theorem poisonLine_ras (s : State) (l : Nat) : (poisonLine s l).ras = s.ras := rfl
@[simp] theorem poisonLine_pwr (s : State) (l : Nat) : (poisonLine s l).pwr = s.pwr := rfl

/-! ### bumpChange -/
@[simp] theorem bumpChange_pending (s : State) : (bumpChange s).pending = s.pending := rfl
@[simp] theorem bumpChange_free (s : State) : (bumpChange s).free = s.free := rfl
@[simp] theorem bumpChange_phase (s : State) : (bumpChange s).phase = s.phase := rfl
@[simp] theorem bumpChange_turn (s : State) : (bumpChange s).turn = s.turn := rfl
@[simp] theorem bumpChange_ctxs (s : State) : (bumpChange s).ctxs = s.ctxs := rfl
@[simp] theorem bumpChange_queues (s : State) : (bumpChange s).queues = s.queues := rfl
@[simp] theorem bumpChange_ops (s : State) : (bumpChange s).ops = s.ops := rfl
@[simp] theorem bumpChange_tallies (s : State) : (bumpChange s).tallies = s.tallies := rfl
@[simp] theorem bumpChange_arms (s : State) : (bumpChange s).arms = s.arms := rfl
@[simp] theorem bumpChange_clk (s : State) : (bumpChange s).clk = s.clk := rfl
@[simp] theorem bumpChange_mem (s : State) : (bumpChange s).mem = s.mem := rfl
@[simp] theorem bumpChange_units (s : State) : (bumpChange s).units = s.units := rfl
@[simp] theorem bumpChange_ldg (s : State) : (bumpChange s).ldg = s.ldg := rfl
@[simp] theorem bumpChange_wlk (s : State) : (bumpChange s).wlk = s.wlk := rfl
@[simp] theorem bumpChange_isf (s : State) : (bumpChange s).isf = s.isf := rfl
@[simp] theorem bumpChange_qpe (s : State) : (bumpChange s).qpe = s.qpe := rfl
@[simp] theorem bumpChange_cxd (s : State) : (bumpChange s).cxd = s.cxd := rfl
@[simp] theorem bumpChange_fls (s : State) : (bumpChange s).fls = s.fls := rfl
@[simp] theorem bumpChange_sec (s : State) : (bumpChange s).sec = s.sec := rfl
@[simp] theorem bumpChange_ras (s : State) : (bumpChange s).ras = s.ras := rfl
@[simp] theorem bumpChange_pwr (s : State) : (bumpChange s).pwr = s.pwr := rfl

/-! ### failsOver -/
@[simp] theorem failsOver_pending (s : State) (u : UnitId) : (failsOver s u).pending = s.pending := rfl
@[simp] theorem failsOver_free (s : State) (u : UnitId) : (failsOver s u).free = s.free := rfl
@[simp] theorem failsOver_phase (s : State) (u : UnitId) : (failsOver s u).phase = s.phase := rfl
@[simp] theorem failsOver_turn (s : State) (u : UnitId) : (failsOver s u).turn = s.turn := rfl
@[simp] theorem failsOver_ctxs (s : State) (u : UnitId) : (failsOver s u).ctxs = s.ctxs := rfl
@[simp] theorem failsOver_queues (s : State) (u : UnitId) : (failsOver s u).queues = s.queues := rfl
@[simp] theorem failsOver_ops (s : State) (u : UnitId) : (failsOver s u).ops = s.ops := rfl
@[simp] theorem failsOver_tallies (s : State) (u : UnitId) : (failsOver s u).tallies = s.tallies := rfl
@[simp] theorem failsOver_arms (s : State) (u : UnitId) : (failsOver s u).arms = s.arms := rfl
@[simp] theorem failsOver_clk (s : State) (u : UnitId) : (failsOver s u).clk = s.clk := rfl
@[simp] theorem failsOver_plan (s : State) (u : UnitId) : (failsOver s u).plan = s.plan := rfl
@[simp] theorem failsOver_mem (s : State) (u : UnitId) : (failsOver s u).mem = s.mem := rfl
@[simp] theorem failsOver_units (s : State) (u : UnitId) : (failsOver s u).units = s.units := rfl
@[simp] theorem failsOver_ldg (s : State) (u : UnitId) : (failsOver s u).ldg = s.ldg := rfl
@[simp] theorem failsOver_wlk (s : State) (u : UnitId) : (failsOver s u).wlk = s.wlk := rfl
@[simp] theorem failsOver_isf (s : State) (u : UnitId) : (failsOver s u).isf = s.isf := rfl
@[simp] theorem failsOver_qpe (s : State) (u : UnitId) : (failsOver s u).qpe = s.qpe := rfl
@[simp] theorem failsOver_cxd (s : State) (u : UnitId) : (failsOver s u).cxd = s.cxd := rfl
@[simp] theorem failsOver_fls (s : State) (u : UnitId) : (failsOver s u).fls = s.fls := rfl
@[simp] theorem failsOver_sec (s : State) (u : UnitId) : (failsOver s u).sec = s.sec := rfl
@[simp] theorem failsOver_pwr (s : State) (u : UnitId) : (failsOver s u).pwr = s.pwr := rfl

/-! ### setRetired -/
@[simp] theorem setRetired_pending (s : State) (u : UnitId) : (setRetired s u).pending = s.pending := rfl
@[simp] theorem setRetired_free (s : State) (u : UnitId) : (setRetired s u).free = s.free := rfl
@[simp] theorem setRetired_phase (s : State) (u : UnitId) : (setRetired s u).phase = s.phase := rfl
@[simp] theorem setRetired_turn (s : State) (u : UnitId) : (setRetired s u).turn = s.turn := rfl
@[simp] theorem setRetired_ctxs (s : State) (u : UnitId) : (setRetired s u).ctxs = s.ctxs := rfl
@[simp] theorem setRetired_queues (s : State) (u : UnitId) : (setRetired s u).queues = s.queues := rfl
@[simp] theorem setRetired_ops (s : State) (u : UnitId) : (setRetired s u).ops = s.ops := rfl
@[simp] theorem setRetired_tallies (s : State) (u : UnitId) : (setRetired s u).tallies = s.tallies := rfl
@[simp] theorem setRetired_arms (s : State) (u : UnitId) : (setRetired s u).arms = s.arms := rfl
@[simp] theorem setRetired_clk (s : State) (u : UnitId) : (setRetired s u).clk = s.clk := rfl
@[simp] theorem setRetired_mem (s : State) (u : UnitId) : (setRetired s u).mem = s.mem := rfl
@[simp] theorem setRetired_units (s : State) (u : UnitId) : (setRetired s u).units = s.units := rfl
@[simp] theorem setRetired_ldg (s : State) (u : UnitId) : (setRetired s u).ldg = s.ldg := rfl
@[simp] theorem setRetired_wlk (s : State) (u : UnitId) : (setRetired s u).wlk = s.wlk := rfl
@[simp] theorem setRetired_isf (s : State) (u : UnitId) : (setRetired s u).isf = s.isf := rfl
@[simp] theorem setRetired_qpe (s : State) (u : UnitId) : (setRetired s u).qpe = s.qpe := rfl
@[simp] theorem setRetired_cxd (s : State) (u : UnitId) : (setRetired s u).cxd = s.cxd := rfl
@[simp] theorem setRetired_fls (s : State) (u : UnitId) : (setRetired s u).fls = s.fls := rfl
@[simp] theorem setRetired_sec (s : State) (u : UnitId) : (setRetired s u).sec = s.sec := rfl
@[simp] theorem setRetired_pwr (s : State) (u : UnitId) : (setRetired s u).pwr = s.pwr := rfl

/-! ### setBound -/
@[simp] theorem setBound_pending (s : State) (u : UnitId) (k : Nat) : (setBound s u k).pending = s.pending := rfl
@[simp] theorem setBound_free (s : State) (u : UnitId) (k : Nat) : (setBound s u k).free = s.free := rfl
@[simp] theorem setBound_phase (s : State) (u : UnitId) (k : Nat) : (setBound s u k).phase = s.phase := rfl
@[simp] theorem setBound_turn (s : State) (u : UnitId) (k : Nat) : (setBound s u k).turn = s.turn := rfl
@[simp] theorem setBound_ctxs (s : State) (u : UnitId) (k : Nat) : (setBound s u k).ctxs = s.ctxs := rfl
@[simp] theorem setBound_queues (s : State) (u : UnitId) (k : Nat) : (setBound s u k).queues = s.queues := rfl
@[simp] theorem setBound_ops (s : State) (u : UnitId) (k : Nat) : (setBound s u k).ops = s.ops := rfl
@[simp] theorem setBound_tallies (s : State) (u : UnitId) (k : Nat) : (setBound s u k).tallies = s.tallies := rfl
@[simp] theorem setBound_arms (s : State) (u : UnitId) (k : Nat) : (setBound s u k).arms = s.arms := rfl
@[simp] theorem setBound_clk (s : State) (u : UnitId) (k : Nat) : (setBound s u k).clk = s.clk := rfl
@[simp] theorem setBound_mem (s : State) (u : UnitId) (k : Nat) : (setBound s u k).mem = s.mem := rfl
@[simp] theorem setBound_units (s : State) (u : UnitId) (k : Nat) : (setBound s u k).units = s.units := rfl
@[simp] theorem setBound_ldg (s : State) (u : UnitId) (k : Nat) : (setBound s u k).ldg = s.ldg := rfl
@[simp] theorem setBound_wlk (s : State) (u : UnitId) (k : Nat) : (setBound s u k).wlk = s.wlk := rfl
@[simp] theorem setBound_isf (s : State) (u : UnitId) (k : Nat) : (setBound s u k).isf = s.isf := rfl
@[simp] theorem setBound_qpe (s : State) (u : UnitId) (k : Nat) : (setBound s u k).qpe = s.qpe := rfl
@[simp] theorem setBound_cxd (s : State) (u : UnitId) (k : Nat) : (setBound s u k).cxd = s.cxd := rfl
@[simp] theorem setBound_fls (s : State) (u : UnitId) (k : Nat) : (setBound s u k).fls = s.fls := rfl
@[simp] theorem setBound_sec (s : State) (u : UnitId) (k : Nat) : (setBound s u k).sec = s.sec := rfl
@[simp] theorem setBound_pwr (s : State) (u : UnitId) (k : Nat) : (setBound s u k).pwr = s.pwr := rfl

/-! ### queueRepair -/
@[simp] theorem queueRepair_pending (s : State) (b : List Byte) : (queueRepair s b).pending = s.pending := rfl
@[simp] theorem queueRepair_free (s : State) (b : List Byte) : (queueRepair s b).free = s.free := rfl
@[simp] theorem queueRepair_phase (s : State) (b : List Byte) : (queueRepair s b).phase = s.phase := rfl
@[simp] theorem queueRepair_turn (s : State) (b : List Byte) : (queueRepair s b).turn = s.turn := rfl
@[simp] theorem queueRepair_ctxs (s : State) (b : List Byte) : (queueRepair s b).ctxs = s.ctxs := rfl
@[simp] theorem queueRepair_queues (s : State) (b : List Byte) : (queueRepair s b).queues = s.queues := rfl
@[simp] theorem queueRepair_ops (s : State) (b : List Byte) : (queueRepair s b).ops = s.ops := rfl
@[simp] theorem queueRepair_tallies (s : State) (b : List Byte) : (queueRepair s b).tallies = s.tallies := rfl
@[simp] theorem queueRepair_arms (s : State) (b : List Byte) : (queueRepair s b).arms = s.arms := rfl
@[simp] theorem queueRepair_clk (s : State) (b : List Byte) : (queueRepair s b).clk = s.clk := rfl
@[simp] theorem queueRepair_plan (s : State) (b : List Byte) : (queueRepair s b).plan = s.plan := rfl
@[simp] theorem queueRepair_mem (s : State) (b : List Byte) : (queueRepair s b).mem = s.mem := rfl
@[simp] theorem queueRepair_units (s : State) (b : List Byte) : (queueRepair s b).units = s.units := rfl
@[simp] theorem queueRepair_ldg (s : State) (b : List Byte) : (queueRepair s b).ldg = s.ldg := rfl
@[simp] theorem queueRepair_wlk (s : State) (b : List Byte) : (queueRepair s b).wlk = s.wlk := rfl
@[simp] theorem queueRepair_isf (s : State) (b : List Byte) : (queueRepair s b).isf = s.isf := rfl
@[simp] theorem queueRepair_qpe (s : State) (b : List Byte) : (queueRepair s b).qpe = s.qpe := rfl
@[simp] theorem queueRepair_cxd (s : State) (b : List Byte) : (queueRepair s b).cxd = s.cxd := rfl
@[simp] theorem queueRepair_fls (s : State) (b : List Byte) : (queueRepair s b).fls = s.fls := rfl
@[simp] theorem queueRepair_ras (s : State) (b : List Byte) : (queueRepair s b).ras = s.ras := rfl
@[simp] theorem queueRepair_pwr (s : State) (b : List Byte) : (queueRepair s b).pwr = s.pwr := rfl

/-! ### raiseMsi -/
@[simp] theorem raiseMsi_pending (s : State) (ld v : Nat) : (raiseMsi s ld v).pending = s.pending := by simp only [raiseMsi]; split <;> rfl
@[simp] theorem raiseMsi_free (s : State) (ld v : Nat) : (raiseMsi s ld v).free = s.free := by simp only [raiseMsi]; split <;> rfl
@[simp] theorem raiseMsi_phase (s : State) (ld v : Nat) : (raiseMsi s ld v).phase = s.phase := by simp only [raiseMsi]; split <;> rfl
@[simp] theorem raiseMsi_ctxs (s : State) (ld v : Nat) : (raiseMsi s ld v).ctxs = s.ctxs := by simp only [raiseMsi]; split <;> rfl
@[simp] theorem raiseMsi_queues (s : State) (ld v : Nat) : (raiseMsi s ld v).queues = s.queues := by simp only [raiseMsi]; split <;> rfl
@[simp] theorem raiseMsi_ops (s : State) (ld v : Nat) : (raiseMsi s ld v).ops = s.ops := by simp only [raiseMsi]; split <;> rfl
@[simp] theorem raiseMsi_tallies (s : State) (ld v : Nat) : (raiseMsi s ld v).tallies = s.tallies := by simp only [raiseMsi]; split <;> rfl
@[simp] theorem raiseMsi_arms (s : State) (ld v : Nat) : (raiseMsi s ld v).arms = s.arms := by simp only [raiseMsi]; split <;> rfl
@[simp] theorem raiseMsi_clk (s : State) (ld v : Nat) : (raiseMsi s ld v).clk = s.clk := by simp only [raiseMsi]; split <;> rfl
@[simp] theorem raiseMsi_plan (s : State) (ld v : Nat) : (raiseMsi s ld v).plan = s.plan := by simp only [raiseMsi]; split <;> rfl
@[simp] theorem raiseMsi_mem (s : State) (ld v : Nat) : (raiseMsi s ld v).mem = s.mem := by simp only [raiseMsi]; split <;> rfl
@[simp] theorem raiseMsi_units (s : State) (ld v : Nat) : (raiseMsi s ld v).units = s.units := by simp only [raiseMsi]; split <;> rfl
@[simp] theorem raiseMsi_ldg (s : State) (ld v : Nat) : (raiseMsi s ld v).ldg = s.ldg := by simp only [raiseMsi]; split <;> rfl
@[simp] theorem raiseMsi_wlk (s : State) (ld v : Nat) : (raiseMsi s ld v).wlk = s.wlk := by simp only [raiseMsi]; split <;> rfl
@[simp] theorem raiseMsi_isf (s : State) (ld v : Nat) : (raiseMsi s ld v).isf = s.isf := by simp only [raiseMsi]; split <;> rfl
@[simp] theorem raiseMsi_qpe (s : State) (ld v : Nat) : (raiseMsi s ld v).qpe = s.qpe := by simp only [raiseMsi]; split <;> rfl
@[simp] theorem raiseMsi_fls (s : State) (ld v : Nat) : (raiseMsi s ld v).fls = s.fls := by simp only [raiseMsi]; split <;> rfl
@[simp] theorem raiseMsi_sec (s : State) (ld v : Nat) : (raiseMsi s ld v).sec = s.sec := by simp only [raiseMsi]; split <;> rfl
@[simp] theorem raiseMsi_ras (s : State) (ld v : Nat) : (raiseMsi s ld v).ras = s.ras := by simp only [raiseMsi]; split <;> rfl
@[simp] theorem raiseMsi_pwr (s : State) (ld v : Nat) : (raiseMsi s ld v).pwr = s.pwr := by simp only [raiseMsi]; split <;> rfl

/-! ### noteVendor -/
@[simp] theorem noteVendor_pending (s : State) (k b : Nat) : (noteVendor s k b).pending = s.pending := by simp only [noteVendor]; split <;> rfl
@[simp] theorem noteVendor_free (s : State) (k b : Nat) : (noteVendor s k b).free = s.free := by simp only [noteVendor]; split <;> rfl
@[simp] theorem noteVendor_phase (s : State) (k b : Nat) : (noteVendor s k b).phase = s.phase := by simp only [noteVendor]; split <;> rfl
@[simp] theorem noteVendor_ctxs (s : State) (k b : Nat) : (noteVendor s k b).ctxs = s.ctxs := by simp only [noteVendor]; split <;> rfl
@[simp] theorem noteVendor_queues (s : State) (k b : Nat) : (noteVendor s k b).queues = s.queues := by simp only [noteVendor]; split <;> rfl
@[simp] theorem noteVendor_ops (s : State) (k b : Nat) : (noteVendor s k b).ops = s.ops := by simp only [noteVendor]; split <;> rfl
@[simp] theorem noteVendor_tallies (s : State) (k b : Nat) : (noteVendor s k b).tallies = s.tallies := by simp only [noteVendor]; split <;> rfl
@[simp] theorem noteVendor_arms (s : State) (k b : Nat) : (noteVendor s k b).arms = s.arms := by simp only [noteVendor]; split <;> rfl
@[simp] theorem noteVendor_clk (s : State) (k b : Nat) : (noteVendor s k b).clk = s.clk := by simp only [noteVendor]; split <;> rfl
@[simp] theorem noteVendor_plan (s : State) (k b : Nat) : (noteVendor s k b).plan = s.plan := by simp only [noteVendor]; split <;> rfl
@[simp] theorem noteVendor_mem (s : State) (k b : Nat) : (noteVendor s k b).mem = s.mem := by simp only [noteVendor]; split <;> rfl
@[simp] theorem noteVendor_units (s : State) (k b : Nat) : (noteVendor s k b).units = s.units := by simp only [noteVendor]; split <;> rfl
@[simp] theorem noteVendor_ldg (s : State) (k b : Nat) : (noteVendor s k b).ldg = s.ldg := by simp only [noteVendor]; split <;> rfl
@[simp] theorem noteVendor_wlk (s : State) (k b : Nat) : (noteVendor s k b).wlk = s.wlk := by simp only [noteVendor]; split <;> rfl
@[simp] theorem noteVendor_isf (s : State) (k b : Nat) : (noteVendor s k b).isf = s.isf := by simp only [noteVendor]; split <;> rfl
@[simp] theorem noteVendor_qpe (s : State) (k b : Nat) : (noteVendor s k b).qpe = s.qpe := by simp only [noteVendor]; split <;> rfl
@[simp] theorem noteVendor_fls (s : State) (k b : Nat) : (noteVendor s k b).fls = s.fls := by simp only [noteVendor]; split <;> rfl
@[simp] theorem noteVendor_sec (s : State) (k b : Nat) : (noteVendor s k b).sec = s.sec := by simp only [noteVendor]; split <;> rfl
@[simp] theorem noteVendor_ras (s : State) (k b : Nat) : (noteVendor s k b).ras = s.ras := by simp only [noteVendor]; split <;> rfl
@[simp] theorem noteVendor_pwr (s : State) (k b : Nat) : (noteVendor s k b).pwr = s.pwr := by simp only [noteVendor]; split <;> rfl

/-! ### countCorr -/
@[simp] theorem countCorr_pending (s : State) (u : UnitId) : (countCorr s u).pending = s.pending := by simp only [countCorr]; split <;> rfl
@[simp] theorem countCorr_free (s : State) (u : UnitId) : (countCorr s u).free = s.free := by simp only [countCorr]; split <;> rfl
@[simp] theorem countCorr_phase (s : State) (u : UnitId) : (countCorr s u).phase = s.phase := by simp only [countCorr]; split <;> rfl
@[simp] theorem countCorr_ctxs (s : State) (u : UnitId) : (countCorr s u).ctxs = s.ctxs := by simp only [countCorr]; split <;> rfl
@[simp] theorem countCorr_queues (s : State) (u : UnitId) : (countCorr s u).queues = s.queues := by simp only [countCorr]; split <;> rfl
@[simp] theorem countCorr_ops (s : State) (u : UnitId) : (countCorr s u).ops = s.ops := by simp only [countCorr]; split <;> rfl
@[simp] theorem countCorr_tallies (s : State) (u : UnitId) : (countCorr s u).tallies = s.tallies := by simp only [countCorr]; split <;> rfl
@[simp] theorem countCorr_arms (s : State) (u : UnitId) : (countCorr s u).arms = s.arms := by simp only [countCorr]; split <;> rfl
@[simp] theorem countCorr_clk (s : State) (u : UnitId) : (countCorr s u).clk = s.clk := by simp only [countCorr]; split <;> rfl
@[simp] theorem countCorr_mem (s : State) (u : UnitId) : (countCorr s u).mem = s.mem := by simp only [countCorr]; split <;> rfl
@[simp] theorem countCorr_units (s : State) (u : UnitId) : (countCorr s u).units = s.units := by simp only [countCorr]; split <;> rfl
@[simp] theorem countCorr_ldg (s : State) (u : UnitId) : (countCorr s u).ldg = s.ldg := by simp only [countCorr]; split <;> rfl
@[simp] theorem countCorr_wlk (s : State) (u : UnitId) : (countCorr s u).wlk = s.wlk := by simp only [countCorr]; split <;> rfl
@[simp] theorem countCorr_isf (s : State) (u : UnitId) : (countCorr s u).isf = s.isf := by simp only [countCorr]; split <;> rfl
@[simp] theorem countCorr_qpe (s : State) (u : UnitId) : (countCorr s u).qpe = s.qpe := by simp only [countCorr]; split <;> rfl
@[simp] theorem countCorr_cxd (s : State) (u : UnitId) : (countCorr s u).cxd = s.cxd := by simp only [countCorr]; split <;> rfl
@[simp] theorem countCorr_fls (s : State) (u : UnitId) : (countCorr s u).fls = s.fls := by simp only [countCorr]; split <;> rfl
@[simp] theorem countCorr_sec (s : State) (u : UnitId) : (countCorr s u).sec = s.sec := by simp only [countCorr]; split <;> rfl
@[simp] theorem countCorr_ras (s : State) (u : UnitId) : (countCorr s u).ras = s.ras := by simp only [countCorr]; split <;> rfl
@[simp] theorem countCorr_pwr (s : State) (u : UnitId) : (countCorr s u).pwr = s.pwr := by simp only [countCorr]; split <;> rfl

/-! ### raise -/
@[simp] theorem raise_pending (s : State) (k p : Nat) (u : UnitId) (a b : Nat) : (raise s k p u a b).pending = s.pending := by simp only [raise]; split <;> split <;> simp
@[simp] theorem raise_free (s : State) (k p : Nat) (u : UnitId) (a b : Nat) : (raise s k p u a b).free = s.free := by simp only [raise]; split <;> split <;> simp
@[simp] theorem raise_phase (s : State) (k p : Nat) (u : UnitId) (a b : Nat) : (raise s k p u a b).phase = s.phase := by simp only [raise]; split <;> split <;> simp
@[simp] theorem raise_ctxs (s : State) (k p : Nat) (u : UnitId) (a b : Nat) : (raise s k p u a b).ctxs = s.ctxs := by simp only [raise]; split <;> split <;> simp
@[simp] theorem raise_queues (s : State) (k p : Nat) (u : UnitId) (a b : Nat) : (raise s k p u a b).queues = s.queues := by simp only [raise]; split <;> split <;> simp
@[simp] theorem raise_ops (s : State) (k p : Nat) (u : UnitId) (a b : Nat) : (raise s k p u a b).ops = s.ops := by simp only [raise]; split <;> split <;> simp
@[simp] theorem raise_tallies (s : State) (k p : Nat) (u : UnitId) (a b : Nat) : (raise s k p u a b).tallies = s.tallies := by simp only [raise]; split <;> split <;> simp
@[simp] theorem raise_arms (s : State) (k p : Nat) (u : UnitId) (a b : Nat) : (raise s k p u a b).arms = s.arms := by simp only [raise]; split <;> split <;> simp
@[simp] theorem raise_clk (s : State) (k p : Nat) (u : UnitId) (a b : Nat) : (raise s k p u a b).clk = s.clk := by simp only [raise]; split <;> split <;> simp
@[simp] theorem raise_mem (s : State) (k p : Nat) (u : UnitId) (a b : Nat) : (raise s k p u a b).mem = s.mem := by simp only [raise]; split <;> split <;> simp
@[simp] theorem raise_units (s : State) (k p : Nat) (u : UnitId) (a b : Nat) : (raise s k p u a b).units = s.units := by simp only [raise]; split <;> split <;> simp
@[simp] theorem raise_ldg (s : State) (k p : Nat) (u : UnitId) (a b : Nat) : (raise s k p u a b).ldg = s.ldg := by simp only [raise]; split <;> split <;> simp
@[simp] theorem raise_wlk (s : State) (k p : Nat) (u : UnitId) (a b : Nat) : (raise s k p u a b).wlk = s.wlk := by simp only [raise]; split <;> split <;> simp
@[simp] theorem raise_isf (s : State) (k p : Nat) (u : UnitId) (a b : Nat) : (raise s k p u a b).isf = s.isf := by simp only [raise]; split <;> split <;> simp
@[simp] theorem raise_qpe (s : State) (k p : Nat) (u : UnitId) (a b : Nat) : (raise s k p u a b).qpe = s.qpe := by simp only [raise]; split <;> split <;> simp
@[simp] theorem raise_fls (s : State) (k p : Nat) (u : UnitId) (a b : Nat) : (raise s k p u a b).fls = s.fls := by simp only [raise]; split <;> split <;> simp
@[simp] theorem raise_sec (s : State) (k p : Nat) (u : UnitId) (a b : Nat) : (raise s k p u a b).sec = s.sec := by simp only [raise]; split <;> split <;> simp
@[simp] theorem raise_pwr (s : State) (k p : Nat) (u : UnitId) (a b : Nat) : (raise s k p u a b).pwr = s.pwr := by simp only [raise]; split <;> split <;> simp

/-! ### setRole -/
@[simp] theorem setRole_pending (s : State) (p : Nat) (r : RoleSt) : (setRole s p r).pending = s.pending := rfl
@[simp] theorem setRole_free (s : State) (p : Nat) (r : RoleSt) : (setRole s p r).free = s.free := rfl
@[simp] theorem setRole_phase (s : State) (p : Nat) (r : RoleSt) : (setRole s p r).phase = s.phase := rfl
@[simp] theorem setRole_turn (s : State) (p : Nat) (r : RoleSt) : (setRole s p r).turn = s.turn := rfl
@[simp] theorem setRole_ctxs (s : State) (p : Nat) (r : RoleSt) : (setRole s p r).ctxs = s.ctxs := rfl
@[simp] theorem setRole_queues (s : State) (p : Nat) (r : RoleSt) : (setRole s p r).queues = s.queues := rfl
@[simp] theorem setRole_ops (s : State) (p : Nat) (r : RoleSt) : (setRole s p r).ops = s.ops := rfl
@[simp] theorem setRole_tallies (s : State) (p : Nat) (r : RoleSt) : (setRole s p r).tallies = s.tallies := rfl
@[simp] theorem setRole_arms (s : State) (p : Nat) (r : RoleSt) : (setRole s p r).arms = s.arms := rfl
@[simp] theorem setRole_clk (s : State) (p : Nat) (r : RoleSt) : (setRole s p r).clk = s.clk := rfl
@[simp] theorem setRole_mem (s : State) (p : Nat) (r : RoleSt) : (setRole s p r).mem = s.mem := rfl
@[simp] theorem setRole_units (s : State) (p : Nat) (r : RoleSt) : (setRole s p r).units = s.units := rfl
@[simp] theorem setRole_ldg (s : State) (p : Nat) (r : RoleSt) : (setRole s p r).ldg = s.ldg := rfl
@[simp] theorem setRole_wlk (s : State) (p : Nat) (r : RoleSt) : (setRole s p r).wlk = s.wlk := rfl
@[simp] theorem setRole_isf (s : State) (p : Nat) (r : RoleSt) : (setRole s p r).isf = s.isf := rfl
@[simp] theorem setRole_qpe (s : State) (p : Nat) (r : RoleSt) : (setRole s p r).qpe = s.qpe := rfl
@[simp] theorem setRole_cxd (s : State) (p : Nat) (r : RoleSt) : (setRole s p r).cxd = s.cxd := rfl
@[simp] theorem setRole_fls (s : State) (p : Nat) (r : RoleSt) : (setRole s p r).fls = s.fls := rfl
@[simp] theorem setRole_sec (s : State) (p : Nat) (r : RoleSt) : (setRole s p r).sec = s.sec := rfl
@[simp] theorem setRole_ras (s : State) (p : Nat) (r : RoleSt) : (setRole s p r).ras = s.ras := rfl
@[simp] theorem setRole_pwr (s : State) (p : Nat) (r : RoleSt) : (setRole s p r).pwr = s.pwr := rfl
@[simp] theorem setRole_zero (s : State) (r : RoleSt) : roleOfPart (setRole s 0 r) 0 = r := rfl
@[simp] theorem setRole_one (s : State) (r : RoleSt) : roleOfPart (setRole s 1 r) 1 = r := rfl

/-! ### noAccess: only the tried access is dropped -/
@[simp] theorem noAccess_pending (s : State) : (noAccess s).pending = s.pending := rfl
@[simp] theorem noAccess_free (s : State) : (noAccess s).free = s.free := rfl
@[simp] theorem noAccess_phase (s : State) : (noAccess s).phase = s.phase := rfl
@[simp] theorem noAccess_turn (s : State) : (noAccess s).turn = s.turn := rfl
@[simp] theorem noAccess_ctxs (s : State) : (noAccess s).ctxs = s.ctxs := rfl
@[simp] theorem noAccess_queues (s : State) : (noAccess s).queues = s.queues := rfl
@[simp] theorem noAccess_ops (s : State) : (noAccess s).ops = s.ops := rfl
@[simp] theorem noAccess_tallies (s : State) : (noAccess s).tallies = s.tallies := rfl
@[simp] theorem noAccess_arms (s : State) : (noAccess s).arms = s.arms := rfl
@[simp] theorem noAccess_clk (s : State) : (noAccess s).clk = s.clk := rfl
@[simp] theorem noAccess_units (s : State) : (noAccess s).units = s.units := rfl
@[simp] theorem noAccess_ldg (s : State) : (noAccess s).ldg = s.ldg := rfl
@[simp] theorem noAccess_wlk (s : State) : (noAccess s).wlk = s.wlk := rfl
@[simp] theorem noAccess_isf (s : State) : (noAccess s).isf = s.isf := rfl
@[simp] theorem noAccess_qpe (s : State) : (noAccess s).qpe = s.qpe := rfl
@[simp] theorem noAccess_cxd (s : State) : (noAccess s).cxd = s.cxd := rfl
@[simp] theorem noAccess_fls (s : State) : (noAccess s).fls = s.fls := rfl
@[simp] theorem noAccess_sec (s : State) : (noAccess s).sec = s.sec := rfl
@[simp] theorem noAccess_ras (s : State) : (noAccess s).ras = s.ras := rfl
@[simp] theorem noAccess_pwr (s : State) : (noAccess s).pwr = s.pwr := rfl
@[simp] theorem noAccess_cells (s : State) : (noAccess s).mem.cells = s.mem.cells := rfl
@[simp] theorem noAccess_access (s : State) : (noAccess s).mem.access = none := rfl

end Sys2Proof.Machine
end

