-- ==== Sys2Proof/Laws/Issue.lean ====
section
/-! SUPPORT. Contexts and their registers read back, and what the issue of an instruction does once its conditions hold. -/
namespace Sys2Proof.Machine

/-! ### Contexts -/

@[simp] theorem ctxGet_ctxSet_same (s : State) (c : Nat) (x : Ctx) : ctxGet (ctxSet s c x) c = x := tget_tset_same _ _ _ _

theorem ctxGet_ctxSet_ne (s : State) {c d : Nat} (x : Ctx) (h : d ≠ c) : ctxGet (ctxSet s c x) d = ctxGet s d :=
  tget_tset_ne _ _ _ h

theorem ctxGet_ctxSet (s : State) (c d : Nat) (x : Ctx) : ctxGet (ctxSet s c x) d = if d = c then x else ctxGet s d :=
  tget_tset _ _ _ _ _

theorem ctxGet_congr {s t : State} (h : t.ctxs = s.ctxs) (c : Nat) : ctxGet t c = ctxGet s c := by rw [ctxGet, ctxGet, h]

/-! ### Registers -/

theorem getS_setS (x : Ctx) (i j : Nat) (v : Word) :
    getS (setS x i v) j = if j = i ∧ i ≠ 0 then v else getS x j := by
  unfold setS getS
  by_cases hi : i = 0
  · simp [hi]
  · by_cases hj : j = 0
    · subst hj; simp [Ne.symm hi]
    · simp [hi, hj, tget_tset]

@[simp] theorem setS_pc (x : Ctx) (i : Nat) (v : Word) : (setS x i v).pc = x.pc := by unfold setS; split <;> rfl
@[simp] theorem setS_cs (x : Ctx) (i : Nat) (v : Word) : (setS x i v).cs = x.cs := by unfold setS; split <;> rfl
@[simp] theorem setS_p (x : Ctx) (i : Nat) (v : Word) : (setS x i v).p = x.p := by unfold setS; split <;> rfl
@[simp] theorem setS_q (x : Ctx) (i : Nat) (v : Word) : (setS x i v).q = x.q := by unfold setS; split <;> rfl
@[simp] theorem setS_t (x : Ctx) (i : Nat) (v : Word) : (setS x i v).t = x.t := by unfold setS; split <;> rfl
@[simp] theorem setP_s (x : Ctx) (i : Nat) (b : Bool) : (setP x i b).s = x.s := by unfold setP; split <;> rfl
@[simp] theorem setP_pc (x : Ctx) (i : Nat) (b : Bool) : (setP x i b).pc = x.pc := by unfold setP; split <;> rfl
@[simp] theorem setP_cs (x : Ctx) (i : Nat) (b : Bool) : (setP x i b).cs = x.cs := by unfold setP; split <;> rfl

/-- Only the scalar registers of a context change with one of them. -/
theorem setS_rest (x : Ctx) (i : Nat) (v : Word) : setS x i v = { x with s := (setS x i v).s } := by
  unfold setS; split <;> rfl

/-! ### Bit fields -/

/-- A field set, as a number: the bits below, the field, the bits above. -/
theorem setF_toNat {n : Nat} (x : BitVec n) (lo w v : Nat) (h : lo + w ≤ n) :
    (setF x lo w v).toNat = x.toNat % 2 ^ lo + 2 ^ lo * (v % 2 ^ w + 2 ^ w * (x.toNat / 2 ^ lo / 2 ^ w)) := by
  have hx := x.isLt
  have e2 : 2 ^ n = 2 ^ lo * 2 ^ w * 2 ^ (n - lo - w) := by rw [← pow_add, ← pow_add]; congr 1; omega
  have hp : 0 < 2 ^ lo := Nat.two_pow_pos _
  unfold setF bf
  rw [BitVec.toNat_ofNat, Nat.shiftRight_eq_div_pow]
  generalize x.toNat = m at *
  have hm : m = m % 2 ^ lo + 2 ^ lo * (m / 2 ^ lo) := by rw [Nat.add_comm]; exact (Nat.div_add_mod m (2 ^ lo)).symm
  have hal : m % 2 ^ lo < 2 ^ lo := Nat.mod_lt _ hp
  have hlt : m / 2 ^ lo / 2 ^ w < 2 ^ (n - lo - w) := by
    rw [Nat.div_div_eq_div_mul, Nat.div_lt_iff_lt_mul (by positivity)]
    calc m < 2 ^ n := hx
      _ = _ := by rw [e2]; ring
  generalize m / 2 ^ lo = q at *
  generalize m % 2 ^ lo = a at *
  have hq2 : q = q % 2 ^ w + 2 ^ w * (q / 2 ^ w) := by rw [Nat.add_comm]; exact (Nat.div_add_mod q (2 ^ w)).symm
  have e3 : m - q % 2 ^ w * 2 ^ lo + v % 2 ^ w * 2 ^ lo = a + 2 ^ lo * (v % 2 ^ w + 2 ^ w * (q / 2 ^ w)) := by
    have : m = a + 2 ^ lo * (q / 2 ^ w * 2 ^ w) + q % 2 ^ w * 2 ^ lo := by
      conv_lhs => rw [hm, hq2]
      ring
    rw [this, Nat.add_sub_cancel]; ring
  have hv : v % 2 ^ w < 2 ^ w := Nat.mod_lt _ (Nat.two_pow_pos _)
  have hb : v % 2 ^ w + 2 ^ w * (q / 2 ^ w) < 2 ^ w * 2 ^ (n - lo - w) := by
    calc v % 2 ^ w + 2 ^ w * (q / 2 ^ w) < 2 ^ w + 2 ^ w * (q / 2 ^ w) := by omega
      _ = 2 ^ w * (q / 2 ^ w + 1) := by ring
      _ ≤ 2 ^ w * 2 ^ (n - lo - w) := Nat.mul_le_mul_left _ hlt
  have hc : a + 2 ^ lo * (v % 2 ^ w + 2 ^ w * (q / 2 ^ w)) < 2 ^ n := by
    calc a + 2 ^ lo * (v % 2 ^ w + 2 ^ w * (q / 2 ^ w)) < 2 ^ lo + 2 ^ lo * (v % 2 ^ w + 2 ^ w * (q / 2 ^ w)) := by omega
      _ = 2 ^ lo * (v % 2 ^ w + 2 ^ w * (q / 2 ^ w) + 1) := by ring
      _ ≤ 2 ^ lo * (2 ^ w * 2 ^ (n - lo - w)) := Nat.mul_le_mul_left _ hb
      _ = 2 ^ n := by rw [e2]; ring
  rw [e3, Nat.mod_eq_of_lt hc]

/-- A field just set. -/
theorem getF_setF_same {n : Nat} (x : BitVec n) (lo w v : Nat) (h : lo + w ≤ n) : getF (setF x lo w v) lo w = v % 2 ^ w := by
  have hp : 0 < 2 ^ lo := Nat.two_pow_pos _
  unfold getF bf
  rw [setF_toNat x lo w v h, Nat.shiftRight_eq_div_pow, Nat.add_mul_div_left _ _ hp,
    Nat.div_eq_of_lt (Nat.mod_lt _ hp), Nat.zero_add, Nat.add_mul_mod_self_left, Nat.mod_mod]

/-- A bit of a word with a field set. -/
theorem testBit_setF {n : Nat} (x : BitVec n) (lo w v i : Nat) (h : lo + w ≤ n) :
    (setF x lo w v).toNat.testBit i = if lo ≤ i ∧ i < lo + w then v.testBit (i - lo) else x.toNat.testBit i := by
  have hm : x.toNat % 2 ^ lo < 2 ^ lo := Nat.mod_lt _ (Nat.two_pow_pos _)
  have hv : v % 2 ^ w < 2 ^ w := Nat.mod_lt _ (Nat.two_pow_pos _)
  rw [setF_toNat x lo w v h, Nat.add_comm, Nat.testBit_two_pow_mul_add _ hm, Nat.add_comm (v % 2 ^ w)]
  by_cases h1 : i < lo
  · rw [if_pos h1, if_neg (by omega), Nat.testBit_mod_two_pow]; simp [h1]
  · rw [if_neg h1, Nat.testBit_two_pow_mul_add _ hv]
    by_cases h2 : i - lo < w
    · rw [if_pos h2, if_pos (by omega), Nat.testBit_mod_two_pow]; simp [h2]
    · rw [if_neg h2, if_neg (by omega), Nat.testBit_div_two_pow, Nat.testBit_div_two_pow]
      congr 1; omega

/-- A field apart from the one set is as it was. -/
theorem getF_setF_apart {n : Nat} (x : BitVec n) {lo w v lo' w' : Nat} (h : lo + w ≤ n)
    (ha : lo' + w' ≤ lo ∨ lo + w ≤ lo') : getF (setF x lo w v) lo' w' = getF x lo' w' := by
  unfold getF bf
  apply Nat.eq_of_testBit_eq
  intro i
  simp only [Nat.testBit_mod_two_pow, Nat.testBit_shiftRight, testBit_setF x lo w v _ h]
  by_cases hi : i < w'
  · rw [if_neg (by omega)]
  · simp [hi]

@[simp] theorem privOf_withState (x : Ctx) (n : Nat) : privOf (withState x n) = privOf x :=
  getF_setF_apart x.cs (by omega) (by omega)
@[simp] theorem partOf_withState (x : Ctx) (n : Nat) : partOf (withState x n) = partOf x := by
  unfold partOf withState; rw [testBit_setF _ _ _ _ _ (by omega)]; simp
@[simp] theorem prioOf_withState (x : Ctx) (n : Nat) : prioOf (withState x n) = prioOf x :=
  getF_setF_apart x.cs (by omega) (by omega)
@[simp] theorem shareOf_withState (x : Ctx) (n : Nat) : shareOf (withState x n) = shareOf x :=
  getF_setF_apart x.cs (by omega) (by omega)
@[simp] theorem ldOf_withState (x : Ctx) (n : Nat) : ldOf (withState x n) = ldOf x :=
  getF_setF_apart x.cs (by omega) (by omega)
@[simp] theorem ordOnly_withState (x : Ctx) (n : Nat) : ordOnly (withState x n) = ordOnly x := by
  unfold ordOnly withState; rw [testBit_setF _ _ _ _ _ (by omega)]; simp
@[simp] theorem stateOf_withState (x : Ctx) (n : Nat) : stateOf (withState x n) = n % 8 :=
  getF_setF_same x.cs 13 3 n (by omega)
@[simp] theorem stateOf_withPriv (x : Ctx) (n : Nat) : stateOf (withPriv x n) = stateOf x :=
  getF_setF_apart x.cs (by omega) (by omega)
@[simp] theorem privOf_withPriv (x : Ctx) (n : Nat) : privOf (withPriv x n) = n % 4 :=
  getF_setF_same x.cs 16 2 n (by omega)
@[simp] theorem stateOf_withCause (x : Ctx) (n : Nat) : stateOf (withCause x n) = stateOf x :=
  getF_setF_apart x.cs (by omega) (by omega)
@[simp] theorem privOf_withCause (x : Ctx) (n : Nat) : privOf (withCause x n) = privOf x :=
  getF_setF_apart x.cs (by omega) (by omega)

/-! ### Issue -/

@[simp] theorem runCtx_s (x : Ctx) : (runCtx x).s = x.s := by unfold runCtx withState; rfl
@[simp] theorem runCtx_p (x : Ctx) : (runCtx x).p = x.p := by unfold runCtx withState; rfl
@[simp] theorem runCtx_q (x : Ctx) : (runCtx x).q = x.q := by unfold runCtx withState; rfl
@[simp] theorem runCtx_t (x : Ctx) : (runCtx x).t = x.t := by unfold runCtx withState; rfl
@[simp] theorem runCtx_pc (x : Ctx) : (runCtx x).pc = x.pc := by unfold runCtx withState; rfl
@[simp] theorem getS_runCtx (x : Ctx) (i : Nat) : getS (runCtx x) i = getS x i := by unfold getS; rw [runCtx_s]
@[simp] theorem getP_runCtx (x : Ctx) (i : Nat) : getP (runCtx x) i = getP x i := by unfold getP; rw [runCtx_p]
@[simp] theorem privOf_runCtx (x : Ctx) : privOf (runCtx x) = privOf x := by
  rw [← privOf_withState x 2]; unfold runCtx privOf; rfl
@[simp] theorem partOf_runCtx (x : Ctx) : partOf (runCtx x) = partOf x := by
  rw [← partOf_withState x 2]; unfold runCtx partOf; rfl
@[simp] theorem stateOf_runCtx (x : Ctx) : stateOf (runCtx x) = 2 := by
  have h := stateOf_withState x 2; unfold runCtx stateOf at *; exact h

/-- A fold of context updates leaves everything but the contexts. -/
theorem foldl_ctxs (l : List Nat) (f : State → Nat → State) (hf : ∀ s d, f s d = { s with ctxs := (f s d).ctxs }) (s : State) :
    l.foldl f s = { s with ctxs := (l.foldl f s).ctxs } := by
  induction l generalizing s with
  | nil => rfl
  | cons d r ih =>
    simp only [List.foldl_cons]
    have h := ih (f s d)
    rw [h, hf s d]

/-- The issue of an instruction changes contexts alone. -/
theorem startIssue_rest (s : State) (c : CtxId) : startIssue s c = { s with ctxs := (startIssue s c).ctxs } := by
  unfold startIssue
  simp only
  rw [foldl_ctxs]
  · rfl
  · intro s d; split <;> rfl

theorem foldl_ctxGet_keep (l : List Nat) (f : State → Nat → State) (e : Nat)
    (hf : ∀ s d, d ∈ l → ctxGet (f s d) e = ctxGet s e) (s : State) : ctxGet (l.foldl f s) e = ctxGet s e := by
  induction l generalizing s with
  | nil => rfl
  | cons d r ih =>
    simp only [List.foldl_cons]
    rw [ih (fun s d hd => hf s d (by simp [hd])), hf s d (by simp)]

/-- The issuing context itself: RUN, its registers as they were. -/
@[simp] theorem startIssue_ctxGet (s : State) (c : CtxId) :
    ctxGet (startIssue s c) c = runCtx (ctxGet s c) := by
  unfold startIssue
  simp only [ctxGet_ctxSet_same]
  rw [foldl_ctxGet_keep]
  intro s d _
  split
  · rfl
  · next h => exact ctxGet_ctxSet_ne _ _ (Ne.symm h)

/-- A context of another core slot is not touched by an issue. -/
theorem startIssue_other (s : State) (c : CtxId) {d : Nat} (h : d / 8 ≠ c.val / 8) :
    ctxGet (startIssue s c) d = ctxGet s d := by
  have hm : ∀ e ∈ slotCtxs c, e / 8 = c.val / 8 := by
    intro e he
    simp only [slotCtxs, List.mem_map, List.mem_range] at he
    obtain ⟨i, hi, rfl⟩ := he
    omega
  have hc : d ≠ c.val := fun e => h (by rw [e])
  unfold startIssue
  simp only
  rw [ctxGet_ctxSet_ne _ _ hc, foldl_ctxGet_keep]
  intro s e he
  split
  · rfl
  · refine ctxGet_ctxSet_ne _ _ fun h2 => h ?_
    rw [h2, hm e he]

/-- Reads that a fetch makes do not depend on what an issue changes. -/
theorem fetchOk_startIssue (s : State) (c : CtxId) (n : Nat) : fetchOk (startIssue s c) c n = fetchOk s c n := by
  have h := startIssue_rest s c
  unfold fetchOk
  simp only [ctxMemOk, startIssue_ctxGet, privOf_runCtx, partOf_runCtx, runCtx_pc]
  rw [h]
  rfl

theorem poisoned_startIssue (s : State) (c : CtxId) (a n : Nat) : poisoned (startIssue s c) a n = poisoned s a n := by
  rw [startIssue_rest s c]; rfl

/-- An instruction whose conditions hold has its effect, on the state in which its context runs; what follows the effect
is its context's (R60, R80). -/
theorem issue_effect {n level : Nat} {fmt : Bool} {pred : BitVec 3} {pneg : Bool} {c : CtxId} {s : State}
    (h : Issues n level fmt pred pneg c s) (eff : State → After) :
    issue n level fmt pred pneg c eff s = finish c n (eff (startIssue s c)) := by
  obtain ⟨h1, h2, h3, h4, h5, h6, h7⟩ := h
  unfold issue
  have hp : predicate (runCtx (ctxGet s c)) pred pneg = true := by unfold predicate; rw [getP_runCtx]; exact h6
  have hl : ¬ privOf (ctxGet s c) < level := by omega
  simp only [h1, startIssue_ctxGet, runCtx_pc, privOf_runCtx, h2, fetchOk_startIssue, h3, poisoned_startIssue, h4, h5, hp, hl]
  simp

end Sys2Proof.Machine
end

