-- ==== Sys2Proof/Laws/Context.lean ====
section
/-! SUPPORT. What the issue and the end of an instruction leave, in the words of the statements: one context's registers
changed, the others of its slot at most READY, everything else as it was. -/
namespace Sys2Proof.Machine

/-! ### Tables -/

theorem tdel_tins {α : Type} (k : Nat) (v : α) (t : Table α) : tdel (tins k v t) k = tdel t k := by
  induction t with
  | nil => simp [tins, tdel]
  | cons x r ih =>
    obtain ⟨j, y⟩ := x
    unfold tins
    split
    · simp [tdel]
    · simp only [tdel, ih]

theorem tdel_tdel {α : Type} (k : Nat) (t : Table α) : tdel (tdel t k) k = tdel t k := by
  induction t with
  | nil => rfl
  | cons x r ih =>
    obtain ⟨j, y⟩ := x
    simp only [tdel]
    split
    · exact ih
    · next h => simp only [tdel, ih, if_neg h]

/-- The later of two changes of one key stands. -/
theorem tset_tset {α : Type} [DecidableEq α] (d : α) (t : Table α) (k : Nat) (v w : α) :
    tset d (tset d t k v) k w = tset d t k w := by
  have h : tdel (tset d t k v) k = tdel t k := by
    unfold tset; split
    · exact tdel_tdel _ _
    · rw [tdel_tins, tdel_tdel]
  unfold tset at h ⊢
  rw [h]

@[simp] theorem ctxSet_ctxSet (s : State) (c : Nat) (x y : Ctx) : ctxSet (ctxSet s c x) c y = ctxSet s c y := by
  unfold ctxSet; simp only [tset_tset]

theorem setF_setF {n : Nat} (x : BitVec n) (lo w v v' : Nat) (h : lo + w ≤ n) : setF (setF x lo w v) lo w v' = setF x lo w v' := by
  apply BitVec.eq_of_toNat_eq
  apply Nat.eq_of_testBit_eq
  intro i
  rw [testBit_setF _ _ _ _ _ h, testBit_setF _ _ _ _ _ h, testBit_setF _ _ _ _ _ h]
  split <;> rfl

/-! ### What an issue leaves of the contexts -/

theorem sameRegs_refl (x : Ctx) : Say.sameRegs x x := ⟨rfl, rfl⟩

theorem sameRegs_trans {x y z : Ctx} (h : Say.sameRegs x y) (g : Say.sameRegs y z) : Say.sameRegs x z := by
  obtain ⟨h1, h2⟩ := h; obtain ⟨g1, g2⟩ := g
  refine ⟨?_, g2.trans h2⟩
  rw [g1, h1]

theorem sameRegs_state (x : Ctx) (n : Nat) (l : List Nat) (b : Bool) :
    Say.sameRegs x { withState x n with yieldFor := l, last := b } := by
  constructor
  · unfold withState; rfl
  · unfold withState; exact setF_setF _ _ _ _ _ (by omega)

theorem startIssue_sameRegs (s : State) (c : CtxId) (d : Nat) (h : d ≠ c.val) :
    Say.sameRegs (ctxGet s d) (ctxGet (startIssue s c) d) := by
  unfold startIssue
  simp only
  rw [ctxGet_ctxSet_ne _ _ h]
  generalize slotCtxs c = l
  induction l generalizing s with
  | nil => exact sameRegs_refl _
  | cons e r ih =>
    simp only [List.foldl_cons]
    refine sameRegs_trans ?_ (ih _)
    split
    · exact sameRegs_refl _
    · by_cases hd : d = e
      · subst hd
        rw [ctxGet_ctxSet_same]
        split
        · exact sameRegs_state _ _ _ _
        · exact ⟨rfl, rfl⟩
      · rw [ctxGet_ctxSet_ne _ _ hd]; exact sameRegs_refl _

theorem others_startIssue (s : State) (c : CtxId) (x : Ctx) : Say.others s (ctxSet (startIssue s c) c x) c := by
  constructor
  · intro d hd
    rw [ctxGet_ctxSet_ne _ _ (fun e => hd (by rw [e])), startIssue_other _ _ hd]
  · intro d hd
    rw [ctxGet_ctxSet_ne _ _ hd]; exact startIssue_sameRegs s c d hd

theorem onlyCtx_startIssue (s : State) (c : CtxId) (x : Ctx) : Say.onlyCtx s (ctxSet (startIssue s c) c x) c := by
  refine ⟨?_, others_startIssue s c x⟩
  unfold ctxSet; rw [startIssue_rest]

/-- The pc of an instruction's context moved on, after its registers. -/
theorem advance_regSet (s : State) (c : CtxId) (i : Nat) (v : Word) (n : Nat) :
    advance (regSet (startIssue s c) c i v) c n =
      ctxSet (startIssue s c) c { setS (runCtx (ctxGet s c)) i v with pc := (ctxGet s c).pc + BitVec.ofNat 64 n } := by
  unfold advance regSet
  simp

/-- An issue leaves everything but the contexts. -/
theorem startIssue_with (s : State) (c : CtxId) : ∃ l, startIssue s c = { s with ctxs := l } := ⟨_, startIssue_rest s c⟩

end Sys2Proof.Machine
end

