-- ==== Sys2Proof/Laws/Crypto.lean ====
section
/-! SUPPORT. What AES-256 and AES-256-GCM give back: blocks of 16 bytes, and a tag that opens what it was made for. -/
namespace Sys2Proof.Machine

/-! ### AES-256 -/

theorem length_chunks {α : Type} (k n : Nat) (xs : List α) : (chunks k n xs).length = n := by simp [chunks]

theorem length_mem_chunks {α : Type} {k n : Nat} {xs : List α} (h : k * n ≤ xs.length) : ∀ c ∈ chunks k n xs, c.length = k := by
  intro c hc
  simp only [chunks, List.mem_map, List.mem_range] at hc
  obtain ⟨i, hi, rfl⟩ := hc
  have : k * (i + 1) ≤ k * n := Nat.mul_le_mul_left k hi
  rw [List.length_take, List.length_drop]
  rw [Nat.mul_add] at this
  omega

theorem length_xorL (a b : List Nat) : (xorL a b).length = min a.length b.length := by simp [xorL]

/-- The key schedule adds words of four bytes. -/
theorem aesExpand_words (n : Nat) : ∀ (i rc : Nat) (w : List (List Nat)), 8 ≤ i → w.length = i → (∀ x ∈ w, x.length = 4) →
    (aesExpand n i rc w).length = i + n ∧ ∀ x ∈ aesExpand n i rc w, x.length = 4 := by
  induction n with
  | zero => intro i rc w _ hw h; exact ⟨hw, h⟩
  | succ n ih =>
    intro i rc w hi hw h
    have last : (w.getLastD []).length = 4 := by
      have hne : w ≠ [] := by intro e; rw [e] at hw; simp at hw; omega
      rw [List.getLastD_eq_getLast?, List.getLast?_eq_some_getLast hne]
      exact h _ (List.getLast_mem hne)
    have prev : (w.getD (i - 8) []).length = 4 := by
      rw [List.getD_eq_getElem _ _ (by omega : i - 8 < w.length)]
      exact h _ (List.getElem_mem _)
    have turn : ∀ t : List Nat, t.length = 4 →
        (match t with | [a, b, c, d] => [sbox b ^^^ rc, sbox c, sbox d, sbox a] | t => t).length = 4 := by
      intro t ht
      match t, ht with
      | [a, b, c, d], _ => rfl
    unfold aesExpand
    simp only
    have step : ∀ (t : List Nat) (r : Nat), t.length = 4 →
        (aesExpand n (i + 1) r (w ++ [List.zipWith (fun x y => x ^^^ y) (w.getD (i - 8) []) t])).length = i + (n + 1) ∧
        ∀ x ∈ aesExpand n (i + 1) r (w ++ [List.zipWith (fun x y => x ^^^ y) (w.getD (i - 8) []) t]), x.length = 4 := by
      intro t r ht
      have := ih (i + 1) r (w ++ [List.zipWith (fun x y => x ^^^ y) (w.getD (i - 8) []) t]) (by omega) (by simp [hw]) (by
        intro x hx
        rw [List.mem_append, List.mem_singleton] at hx
        rcases hx with hx | rfl
        · exact h x hx
        · simp only [List.length_zipWith]; omega)
      exact ⟨by omega, this.2⟩
    split
    · exact step _ _ (turn _ last)
    · split
      · exact step _ _ (by simpa using last)
      · exact step _ _ last

/-- The round keys of a 32-byte key: fifteen of 16 bytes. -/
theorem aesKeys_shape (key : List Nat) (h : key.length = 32) : (aesKeys key).length = 15 ∧ ∀ k ∈ aesKeys key, k.length = 16 := by
  have w := aesExpand_words 52 8 1 (chunks 4 8 key) (by omega) (length_chunks _ _ _) (length_mem_chunks (by omega))
  refine ⟨by simp [aesKeys, length_chunks], ?_⟩
  intro k hk
  simp only [aesKeys, List.mem_map] at hk
  obtain ⟨l, hl, rfl⟩ := hk
  have hlen := length_mem_chunks (by rw [w.1]) l hl
  have hall : ∀ x ∈ l, x.length = 4 := by
    intro x hx
    simp only [chunks, List.mem_map] at hl
    obtain ⟨i, -, rfl⟩ := hl
    exact w.2 x (List.mem_of_mem_drop (List.mem_of_mem_take hx))
  rw [List.length_flatten]
  have : l.map List.length = List.replicate 4 4 := by
    rw [List.eq_replicate_iff]
    exact ⟨by simp [hlen], by simpa using hall⟩
  rw [this]; rfl

/-- A block is encrypted to 16 bytes. -/
theorem length_aesEnc (key blk : List Nat) (h : key.length = 32) : (aesEnc key blk).length = 16 := by
  obtain ⟨n, k⟩ := aesKeys_shape key h
  unfold aesEnc
  split
  · next e => rw [e] at n; simp at n
  · next k0 ks e =>
    rw [e] at n k
    have hl : 13 < ks.length := by simp at n; omega
    rw [length_xorL, List.getD_eq_getElem _ _ hl, k _ (List.mem_cons_of_mem _ (List.getElem_mem hl))]
    simp [shiftRows]

/-! ### AES-256-GCM -/

/-- The tag of a ciphertext. -/
def gcmTag (key nonce aad ct : List Byte) : List Byte :=
  toBytes (xorL (toNats (beBytes 16 (ghash (beNum (aesEnc (toNats key) (List.replicate 16 0))) (toNats aad) (toNats ct))))
    (aesEnc (toNats key) (toNats nonce ++ [0, 0, 0, 1])))

theorem length_gcmTag (key nonce aad ct : List Byte) (h : key.length = 32) : (gcmTag key nonce aad ct).length = 16 := by
  unfold gcmTag toBytes
  rw [List.length_map, length_xorL, length_aesEnc _ _ (by simpa [toNats] using h)]
  simp [toNats, beBytes, leBytes_length]

/-- A ciphertext opens with its tag. -/
theorem gcmDecrypt_tag (key nonce aad ct : List Byte) : (gcmDecrypt key nonce aad ct (gcmTag key nonce aad ct)).2 = true := by
  simp [gcmDecrypt, gcmTag]

/-- Nothing decrypts to nothing. -/
theorem gcmDecrypt_nil (key nonce aad tag : List Byte) : (gcmDecrypt key nonce aad [] tag).1 = [] := by
  simp [gcmDecrypt, toNats, toBytes]

/-! ### Queue-pair packets -/

/-- A packet of a kind without data opens at its queue pair, sealed for it in a slot it has keys for (R273). -/
theorem qpOpen_tag (s : State) (n : Nat) (k : Packet) (hdr : List Byte) (h : Nat) (hl : hdr.length = 32) (hh : ofLe hdr = h)
    (hk : k.data = hdr ++ gcmTag (qpKey (qpGet s n) (hPhase h)) (qpNonce (qpGet s n) (hPhase h) (hTxc h))
      (qpAad h k.src k.dst k.arg.toNat) []) (hv : (qpGet s n).kvalid.toNat.testBit (hPhase h) = true) :
    qpHdr k = h ∧ k.data.length = 48 ∧ qpOpen s n k = some [] := by
  have hq : qpHdr k = h := by unfold qpHdr; rw [hk, List.take_left' hl, hh]
  have ht := length_gcmTag (qpKey (qpGet s n) (hPhase h)) (qpNonce (qpGet s n) (hPhase h) (hTxc h))
    (qpAad h k.src k.dst k.arg.toNat) [] (by simp [qpKey, leBytes_length])
  have hlen : k.data.length = 48 := by rw [hk, List.length_append, hl, ht]
  refine ⟨hq, hlen, ?_⟩
  have hd : k.data.drop 32 = gcmTag (qpKey (qpGet s n) (hPhase h)) (qpNonce (qpGet s n) (hPhase h) (hTxc h))
      (qpAad h k.src k.dst k.arg.toNat) [] := by rw [hk, List.drop_left' hl]
  unfold qpOpen
  simp only [hq, hlen, hd, Nat.sub_self, List.take_zero]
  rw [gcmDecrypt_nil, gcmDecrypt_tag]
  simp [hv]

end Sys2Proof.Machine
end

