-- ==== Sys2Proof/WellFormed.lean ====
section
/-! DEFINITION. The well-formedness of a command: the bounds its operands keep that their types do not say. The meanings
do not rest on it: exec is total. -/
namespace Sys2Proof

/-- A register access names a size other than 4 and 8 only by the third constructor (R386). -/
def AccessWidth.wf : AccessWidth → Bool
  | .other n => n ≠ 4 && n ≠ 8
  | _ => true

/-- A control flit grants credits on each of the four virtual channels (R243). -/
def CtlFlit.wf (f : CtlFlit) : Bool := f.credits.length = 4 && f.credits.all fun c => decide (c < 2 ^ 28)

/-- A port trains to 1, 2, 4, 8 or 16 lanes and learns the credits of four channels (R241, R243). -/
def PortTraining.wf (t : PortTraining) : Bool :=
  [1, 2, 4, 8, 16].contains t.width && t.credits.length = 4 && t.credits.all fun c => decide (c < 2 ^ 28)

/-- A packet carries at most 4,096 bytes (R245). -/
def Packet.wf (k : Packet) : Bool := decide (k.data.length ≤ 4096)

/-- The well-formed commands. -/
def Instr.wf : Instr → Bool
  | .registerWrite _ _ w _ => w.wf
  | .controlFlit _ f => f.wf
  | .portTrained _ t => t.wf
  | .read k | .readResp k | .write k | .ack k | .atomic k | .atomicResp k | .reduce k | .inval k | .hand k
  | .handResponse k | .memberHello k | .memberBeat k | .memberPropose k | .memberAccept k | .memberCommit k
  | .memberLeave k | .memberOffer k | .qpData k | .qpAck k | .qpRnr k | .qpNak k | .qpCancel k => k.wf
  | _ => true

end Sys2Proof
end

