-- ==== Sys2Proof/Tests/Slice0.lean ====
section
/-! SUPPORT. Small states, ill-formed commands that WellFormed refuses, the decoder on words written out from the spec, single steps
against the spec's own words, and states and operands that meet the hypotheses of the statements. -/
namespace Sys2Proof.Tests

open Machine

/-! ## Small states -/

/-- A protection entry that grants every address to both partitions and all levels. -/
def grantAll : ProtEntry := BitVec.ofNat 128 (40 * 2 ^ 70 + 2 * 2 ^ 52 + 2 ^ 44)

/-- A UD7340-48LC that runs: its stacks ready, its clusters powered, its clock running, every address granted. -/
def base : State :=
  { State.reset with
    phase := .running
    plan := { State.reset.plan with code := 1 }
    mem := { State.reset.mem with ready := 0xFFFF_FFFF }
    pwr := { State.reset.pwr with waves := 0xFF }
    units := { State.reset.units with gated := 0, tileUp := 0x3FFFF }
    clk := { State.reset.clk with locked := true, refPresent := true, run := true, bell := 1000 }
    sec := { State.reset.sec with prot := [(0, grantAll)] } }

/-- Bytes at an address, from the lowest up. -/
def cells (a : Nat) (bs : List Nat) : Memory :=
  (bs.zipIdx.filter fun x => x.1 ≠ 0).map fun x => (a + x.2, (BitVec.ofNat 8 x.1 : Byte))

/-- Context 0 READY at a level. -/
def at0 (level : Nat) (x : Ctx) : State :=
  { base with ctxs := [(0, { x with cs := BitVec.ofNat 64 (0x2000 + level * 2 ^ 16) })] }

/-- The state that a command answers. -/
def after (i : Instr) (s : State) : State := match exec i s with | .next t => t | _ => s

/-- A 64-bit instruction word that names s3, s1 and s2. -/
def w64 : Ins64 := { imm := 0, ib := false, sb := 2, sa := 1, sd := 3, pneg := false, pred := 0, len := false }

/-- A 128-bit instruction word with no post field, that names s3, s1 and s2. -/
def w128 : Ins128 :=
  { imm64 := 0, resv := 0, ord := false, whn := 0, tl := 0, tc := 0, q := 0, sc := 0, sb := 2, sa := 1, sd := 3, pneg := false,
    pred := 0, len := true }

/-! ## Ill-formed commands: each check of WellFormed refuses one -/

theorem test_wf_access_width : Instr.wf (.registerWrite (.core 0) (.bar 0) (.other 4) 0) = false := by decide

theorem test_wf_control_flit : Instr.wf (.controlFlit 0 { ack := 0, nak := false, credits := [1, 2, 3] }) = false := by decide

theorem test_wf_port_training : Instr.wf (.portTrained 0 { width := 3, pam4 := false, credits := [1, 1, 1, 1] }) = false := by decide

theorem test_wf_packet : Instr.wf (.read { data := List.replicate 4097 0 }) = false := by
  simp only [Instr.wf, Packet.wf, List.length_replicate]; decide

/-! ## The decoder: words written out from the encodings of R59

Class stands at bits 4:1, op at 12:5, sd, sa and sb at bits 17, 23 and 29. -/

theorem test_no_word_spells_a_command : decodeTableWord 64 0x1 = none := by decide

theorem test_decode_add : decodeIns 5 (3 * 2 ^ 17 + 1 * 2 ^ 23 + 2 * 2 ^ 29) = some (.add 5 w64) := by decide

theorem test_decode_brk : decodeIns 0 (5 * 2 ^ 5 + 1 * 2) =
    some (.brk 0 { w64 with sd := 0, sa := 0, sb := 0 }) := by decide

theorem test_decode_reserved_class : decodeIns 0 (0xC * 2) = none := by decide

/-! ## Single steps against the spec's words -/

/-- ADD wraps (R84). -/
theorem test_add_wraps :
    getS (ctxGet (after (.add 0 w64) (at0 1 { s := [(1, 0xFFFF_FFFF_FFFF_FFFF), (2, 3)] })) 0) 3 = 2 := by decide

/-- s0 discards a write (R55). -/
theorem test_s0_discards :
    getS (ctxGet (after (.add 0 { w64 with sd := 0 }) (at0 1 { s := [(1, 7), (2, 3)] })) 0) 0 = 0 := by decide

/-- DIVU by zero gives all ones, REMU the dividend (R84). -/
theorem test_div_by_zero :
    getS (ctxGet (after (.divu 0 { w64 with sb := 0 }) (at0 1 { s := [(1, 7)] })) 0) 3 = 0xFFFF_FFFF_FFFF_FFFF ∧
    getS (ctxGet (after (.remu 0 { w64 with sb := 0 }) (at0 1 { s := [(1, 7)] })) 0) 3 = 7 := by decide

/-- A shift uses the low six bits of b (R84). -/
theorem test_shift_is_modulo_64 :
    getS (ctxGet (after (.shl 0 w64) (at0 1 { s := [(1, 1), (2, 65)] })) 0) 3 = 2 := by decide

/-- BREAK at tenant level: the pc and cs are saved at operator level, the pc is the handler's entry 7 (R80, R81). -/
theorem test_break_enters_handler :
    (ctxGet (after (.brk 0 w64) (at0 0 { pc := 0x100, hbOp := 0x4000 })) 0).pc = 0x4000 + 64 * 7 ∧
    (ctxGet (after (.brk 0 w64) (at0 0 { pc := 0x100, hbOp := 0x4000 })) 0).epcOp = 0x100 ∧
    privOf (ctxGet (after (.brk 0 w64) (at0 0 { pc := 0x100, hbOp := 0x4000 })) 0) = 1 := by decide

/-- BREAK at steward level halts the context (R81). -/
theorem test_break_at_steward_halts : stateOf (ctxGet (after (.brk 0 w64) (at0 2 {})) 0) = 4 := by decide

/-- ERET goes back to the saved pc at the saved level (R81). -/
theorem test_eret_returns :
    (ctxGet (after (.eret 0 w64) (at0 1 { epcOp := 0x200, ecsOp := 0x2000 })) 0).pc = 0x200 ∧
    privOf (ctxGet (after (.eret 0 w64) (at0 1 { epcOp := 0x200, ecsOp := 0x2000 })) 0) = 0 := by decide

/-- An addition to a tally saturates (R73). -/
theorem test_tally_saturates : tally (tallyAdd (tallySet base 5 0xFFFF_FFFF_FFFF_FFF0) 5 0x20) 5 = 0xFFFF_FFFF_FFFF_FFFF := by decide

/-- MULHU is the upper half of the product (R84). -/
theorem test_mulhu :
    getS (ctxGet (after (.mulhu 0 w64) (at0 1 { s := [(1, 0x8000_0000_0000_0000), (2, 6)] })) 0) 3 = 3 := by decide

/-- A store to shared SRAM reads back, least significant byte first (R5, R88). -/
theorem test_store_is_little_endian :
    memRead (after (.st32 0 { w64 with sd := 3, sb := 0 }) (at0 1 { s := [(1, 0x200_0000_0040), (3, 0x11223344)] })) 0x200_0000_0040 4 =
      [0x44, 0x33, 0x22, 0x11] := by decide

/-- On an empty queue with no context that may issue the block idles (log entry 1). -/
theorem test_idle : step base = .next base := by rfl

/-- A command at the front of the queue runs with the rest of it. -/
theorem test_step_takes_front : step { base with pending := [.bellEdge, .hostLinkDown] } = exec .bellEdge { base with pending := [.hostLinkDown] } := by
  rfl

/-- The bell counts an edge (R42). -/
theorem test_bell_counts : (after .bellEdge base).clk.bell = 1001 := by decide

/-- The storage of the reset state is in canonical form. -/
theorem test_reset_storage : Memory.wf State.reset.mem.cells = true := by decide

/-! ## States and operands that meet the hypotheses of the statements

Each theorem names its statement. What quantifies over all addresses is proved of the state by its link being down. -/

theorem unshared_of {s : State} (h : s.mem.access = none ∧ s.cxd.dir = [] ∧ s.cxd.memok = false) : Unshared s :=
  ⟨h.1, h.2.1, fun a n => by simp [hdmHBlocked, h.2.2]⟩

theorem quiet_of {s : State} (h : (s.mem.access = none ∧ s.cxd.dir = [] ∧ s.cxd.memok = false) ∧ s.mem.selfRefresh = 0 ∧
    ∀ o ∈ s.ops, inBankOn o = false) : Quiet s := ⟨unshared_of h.1, h.2⟩

theorem runs_of {cls op : Nat} {t : Ticket} {o : Op} {s : State} (h : opGet s t = some o ∧ opRunnable s o = true ∧ o.cls = cls ∧ o.op = op ∧ o.due = none)
    (q : (s.mem.access = none ∧ s.cxd.dir = [] ∧ s.cxd.memok = false) ∧ s.mem.selfRefresh = 0 ∧
      (cls ≠ 5 → ∀ o ∈ s.ops, inBankOn o = false)) : Runs cls op t o s :=
  ⟨h.1, h.2.1, h.2.2.1, h.2.2.2.1, h.2.2.2.2, unshared_of q.1, fun n => ⟨unshared_of q.1, q.2.1, q.2.2 n⟩⟩

/-- A launched operation of operator code, its body the sum of its fields. -/
def launched (cls op : Nat) (engine : Byte) (body : Nat) : Op :=
  { ticket := 7, level := 1, cls := cls, op := op, engine := engine, phase := .launched, body := BitVec.ofNat 384 body, launchNo := 1 }

/-- A running device with one operation. -/
def withOp (o : Op) : State := { base with ops := [o] }

theorem witness_ScalarResult : Issues64 0 true 0 w64 (at0 1 { s := [(1, 5), (2, 3)] }) := by unfold Issues64 Issues; decide

theorem witness_ComparesAndPredicates :
    Issues64 0 (decide (w64.sd.toNat < 8) && decide (w64.sa.toNat < 8) && decide (w64.sb.toNat < 8)) 0 w64 (at0 0 {}) := by
  unfold Issues64 Issues; decide

theorem witness_MovesAndSpecials :
    Issues128 0 0 w128 (at0 0 {}) ∧ Issues64 0 (decide (({ w64 with imm := 11 } : Ins64).imm.toNat < 12)) 0 { w64 with imm := 11 } (at0 2 {}) ∧
    2 ≤ privOf (ctxGet (at0 2 {}) 0) := by unfold Issues128 Issues64 Issues; decide

theorem witness_IssueChangesContextsOnly :
    (at0 0 {}).pending = [] ∧ nextIssue (at0 0 {}) = some (0, 0) ∧
    decodeIns 0 0 = some (.add 0 { w64 with sd := 0, sa := 0, sb := 0 }) :=
  ⟨by decide, by decide, by rfl⟩

theorem witness_LevelsAndPredicates :
    Issues64 0 (decide (w64.imm.toNat < 12)) 0 w64 (at0 1 {}) ∧ w64.imm.toNat = 0 ∧ predicate (ctxGet (at0 1 {}) 0) 0 true = false ∧
    privOf (ctxGet (at0 1 {}) 0) < 2 := by unfold Issues64 Issues; decide

theorem witness_ExceptionsAndReturn :
    Issues64 0 true 0 w64 (at0 2 {}) ∧ privOf (ctxGet (at0 2 {}) 0) = 2 ∧ privOf (ctxGet (at0 1 {}) 0) = 1 ∧
    privOf (ctxGet (at0 0 {}) 0) = 0 := by unfold Issues64 Issues; decide

theorem witness_LoadsAndStores :
    Issues64 0 true 0 w64 (at0 1 { s := [(1, 0x200_0000_0040)] }) ∧
    (match ctxRoute (at0 1 {}) 0 true 0x200_0000_0040 8 with | .ok (.own k false) => k == 0x200_0000_0040 | _ => false) = true ∧
    (match ctxRoute (at0 1 {}) 0 false 0x40 8 with | .ok (.own k true) => k == 0x40 | _ => false) = true ∧
    (match ctxRoute (at0 1 {}) 0 false 0x41 8 with | .error x => x.1 == 4 | _ => false) = true := by
  unfold Issues64 Issues; decide

theorem witness_MemoryAccess :
    let s := { base with ctxs := [(0, { cs := 0x1_6000, wait := .store 8 0x1000 5 })] }
    s.phase = .running ∧ stateOf (ctxGet s 0) = 3 ∧ memKey 0 0x1000 = 0x1000 ∧ bankHolds s true 0x1000 8 = false ∧
    recallNeeded s 0x1000 8 = [] ∧ ¬(0x1000 < 2 ^ 41 ∧ stackIn s (0x1000 / 2 ^ 36) = false) ∧ s.mem.cells.wf = true := by decide

theorem witness_ControlTransfer :
    let s := at0 0 { s := [(1, 0x80)], gateOp := 0x200_0000_0000 }
    Issues64 0 true 0 w64 s ∧ privOf (ctxGet s 0) < 2 ∧ ctxMemOk s 0 1 false 0x200_0000_0000 8 = true ∧
    poisoned s (memKey 0 0x200_0000_0000) 8 = false := by unfold Issues64 Issues; decide

theorem witness_Contexts :
    let s := at0 2 { s := [(1, 1)] }
    Issues64 2 true 0 w64 s ∧ Issues64 1 true 0 w64 s ∧ inPartition s 0 1 = true ∧ stateOf (ctxGet s 1) = 0 ∧
    (coreOf s 0).isSome = true ∧ (1 : Nat) < 128 := by unfold Issues64 Issues; decide

theorem witness_Tallies :
    Issues64 0 (decide (w64.sa.toNat < 16)) 0 w64 (at0 0 { t := [(1, 0x8000_0005)] }) ∧
    (getT (ctxGet (at0 0 { t := [(1, 0x8000_0005)] }) 0) 1).toNat.testBit 31 = true ∧
    (getT (ctxGet (at0 0 { t := [(1, 0x8000_0005)] }) 0) 1).toNat.testBit 30 = false := by unfold Issues64 Issues; decide

theorem witness_Waits :
    let s := { base with ctxs := [(0, { cs := 0x6000, wait := .either 5 1 2000 3 })] }
    s.phase = .running ∧ stateOf (ctxGet s 0) = 3 ∧ (tally s 5).toNat < 1 ∧ s.clk.bell.toNat < 2000 ∧ s.clk.refPresent = true := by decide

theorem witness_HandleBinding :
    Issues64 1 (decide (w64.sd.toNat < 16)) 0 w64 (at0 1 { s := [(2, 9)] }) ∧ holdsQueue (at0 1 {}) (partOf (ctxGet (at0 1 {}) 0)) 9 = true ∧
    holdsTally (at0 1 {}) (partOf (ctxGet (at0 1 {}) 0)) 9 = true ∧ ¬(holdsTally (at0 1 {}) 1 9 = true) := by
  unfold Issues64 Issues; decide

theorem witness_QueueInstructions :
    let s := at0 1 { q := [(1, 0x8000_0003)], s := [(1, 3), (2, 0x200_0000_0000)] }
    Issues64 0 (decide (w64.sa.toNat < 16)) 0 w64 s ∧ (getQ (ctxGet s 0) 1).toNat.testBit 31 = true ∧ holdsQueue s 0 3 = true ∧
    Issues128 1 0 w128 s ∧ s.mem.access = none ∧ (match ctxRead s 0 0x200_0000_0000 16 8 with | .ok v => v == 0 | _ => false) = true ∧
    bankHolds s false 0x200_0000_0000 16 = false := by unfold Issues64 Issues128 Issues; decide

/-- A context of operator code that posts to queue 3 through q1 an image in SRAM. -/
def poster : State := at0 1 { q := [(1, 0x8000_0003)], s := [(1, 0x200_0000_0000)] }

theorem witness_Posting :
    Issues 16 1 (postFormatOk false { w128 with q := 1 }) 0 false 0 poster ∧ (getQ (ctxGet poster 0) 1).toNat.testBit 31 = true ∧
    (match ctxRead poster 0 0x200_0000_0000 64 8 with | .ok v => v == 0 | _ => false) = true ∧ queueFull (queueGet poster 3) = false ∧ Quiet poster := by
  refine ⟨?_, ?_, ?_, ?_, quiet_of ?_⟩
  · unfold Issues; decide
  all_goals decide

theorem witness_TranslateAndInvalidate :
    Issues128 1 0 { w128 with sd := 4 } (at0 1 { s := [(1, 77)] }) ∧ entryIn (at0 1 {}) 0 77 = none := by
  unfold Issues128 Issues; decide

theorem witness_PowerInstructions :
    let s := at0 2 { s := [(1, 900)] }
    Issues64 1 true 0 w64 s ∧ Issues64 2 true 0 w64 s ∧ regionIn s 0 = true ∧
    (∀ i, i < 16 → (0xF : Nat).testBit i = true → holdsCluster s 0 i = true ∧ unitIn s (uid 2 i) = true) := by
  unfold Issues64 Issues; decide

theorem witness_ProtectionAndPartitions :
    let s := at0 2 { s := [(2, 0x200_0000_0000)] }
    Issues64 2 true 0 w64 s ∧ Quiet s ∧ (match ctxRead s 0 0x200_0000_0000 16 8 with | .ok v => v == 0 | _ => false) = true ∧ protOk 0 = true := by
  refine ⟨?_, quiet_of ?_, ?_, ?_⟩
  · unfold Issues64 Issues; decide
  all_goals decide

theorem witness_SparingAndPartialReset :
    let s := at0 2 { s := [(1, 0), (2, 0x0100_0008)] }
    Issues64 2 true 0 w64 s ∧ validUnit 0x0100_0008 = true ∧ (fptGet s 0x0100_0008).state = 1 := by
  unfold Issues64 Issues; decide

theorem witness_LedgerEntries :
    let s := { at0 1 { s := [(1, 7), (2, 0x200_0000_0000)] } with ldg := { base.ldg with entries := [(7, { state := 1, request := 7 })] } }
    Issues128 1 0 w128 s ∧ Quiet s ∧ (entryIn s 0 7).isSome = true ∧
    (match ctxRead s 0 0x200_0000_0000 64 8 with | .ok v => v == 0 | _ => false) = true := by
  refine ⟨?_, quiet_of ?_, ?_, ?_⟩
  · unfold Issues128 Issues; decide
  all_goals decide

/-- A LABORT of request 9, whose entry is ADMITTED. -/
def abortOp : Op := { launched 3 5 9 0 with request := 9 }

theorem witness_LedgerOperations :
    let s := { withOp abortOp with ldg := { base.ldg with entries := [(9, { state := 1, request := 9 })] } }
    Runs 3 5 7 abortOp s ∧ (entryOf s 9).part = abortOp.part ∧ abortOp.settled = false ∧ (entryOf s 9).state = 1 ∧
    ∀ y ∈ s.ops, y.request = abortOp.request → y.ticket ≠ 7 → y.phase = .recorded :=
  ⟨runs_of (by decide) (by decide), by decide⟩

theorem witness_LedgerOperations_lend :
    let o := { launched 3 4 9 0 with request := 9 }
    let s := { withOp o with ldg := { base.ldg with entries := [(9, { state := 4, request := 9 })] } }
    Runs 3 4 7 o s ∧ lendOk s o = true := ⟨runs_of (by decide) (by decide), by decide⟩

theorem witness_LedgerOperations_lswap :
    let o := launched 3 6 9 0
    let s := { withOp o with ldg := { base.ldg with mode := true } }
    Runs 3 6 7 o s ∧ lswapOk s o = true ∧ poisoned s 0 0 = false := ⟨runs_of (by decide) (by decide), by decide⟩

theorem witness_BatchSteps :
    let o := launched 3 3 9 0
    Runs 3 3 7 o (withOp o) ∧ batchOf (withOp o) o.part = none ∧ nextClass (withOp o) o.part = none :=
  ⟨runs_of (by decide) (by decide), by decide⟩

theorem witness_LedgerEventsAndRings :
    let e : LEntry := { state := 1, request := 9, deadline := 900 }
    let s := { base with ldg := { base.ldg with entries := [(9, e)], rings := [(0, { en := true, tail := 1, base := 0x1000 })] } }
    entryOf s 9 = e ∧ liveState e = true ∧ reached48 s 900 = true ∧ s.phase = .running ∧ (ringGet s 0).en = true ∧
    (ringGet s 0).head ≠ (ringGet s 0).tail ∧ (tget {} s.cxd.lds 0).state ≠ 1 ∧ ringBusy s 0 = false := by decide

theorem witness_PageOperations :
    let o := launched 4 6 5 (2 ^ 128 * 0x200_0000_1000 + 2 ^ 192 * 0x200_0000_0000)
    Runs 4 6 7 o (withOp o) ∧ pdigestOk (withOp o) o = true ∧ poisoned (withOp o) 0x200_0000_0000 1024 = false :=
  ⟨runs_of (by decide) (by decide), by decide⟩

theorem witness_IndexRequests :
    let o := { launched 4 4 5 (2 ^ 256 * 0x200_0000_1000 + 2 ^ 320 * 0x200_0000_0000) with request := 9 }
    let s := { withOp o with ldg := { base.ldg with entries := [(9, { state := 1, request := 9 })] } }
    Runs 4 4 7 o s ∧ ixWork s 7 = none ∧ plookOk s o = true ∧ plN o = 1 ∧ o.body.toNat.testBit 211 = false ∧
    shardOf s 0 = none ∧ ¬(ixDst o < 2 ^ 41 ∧ stackIn s (ixDst o / 2 ^ 36) = false) := ⟨runs_of (by decide) (by decide), by decide⟩

theorem witness_IndexShards :
    let s := { base with wlk := { base.wlk with shardS := [(0, 4)], shardBase := [(0, 1)] } }
    shardS s ≠ 0 ∧ wayOf s 5 = none ∧ (wayForClaim s 5).isSome = true ∧ Say.keeps s (wayAddr s 5 0) := by
  unfold Say.keeps; decide

theorem witness_ChecksFail :
    let o := launched 6 0 3 0
    Runs 6 0 7 o (withOp o) ∧ hmvOk (withOp o) o = false := ⟨runs_of (by decide) (by decide), by decide⟩

/-- An RCOPY in the first subarray of stack 0, whose map says open rows. -/
def rowOp : Op := launched 5 0 4 (2 ^ 192 * 1 + 2 ^ 256 * 1 + 2 ^ 140 * 2 + 2 ^ 167 * 3)

theorem witness_InBankOperations :
    let s := { withOp rowOp with mem := { base.mem with rowmap := [(0, 1)] } }
    Runs 5 0 7 rowOp s ∧ rowOpOk s rowOp = true :=
  ⟨runs_of (by decide) ⟨by decide, by decide, fun h => absurd rfl h⟩, by decide⟩

/-- An HADD of one element in hub 0's window. -/
def addOp : Op := launched 6 7 3 (2 ^ 320 * 0x500_0000_0000 + 2 ^ 256 * 0x500_0000_0040 + 2 ^ 192 * 0x500_0000_0080)

theorem witness_HubVectors :
    Runs 6 7 7 addOp (withOp addOp) ∧ hubUnitOk (withOp addOp) addOp 0 (softUnit 0) = true :=
  ⟨runs_of (by decide) (by decide), by decide⟩

theorem witness_HubMatrix :
    let o := launched 6 8 3 (2 ^ 320 * 0x200_0000_0000)
    Runs 6 8 7 o (withOp o) := runs_of (by decide) (by decide)

theorem witness_TileJobs :
    let o := launched 7 2 2 0
    Runs 7 2 7 o (withOp o) := runs_of (by decide) (by decide)

/-- An FCOPY of 64 bytes within the device. -/
def copyOp : Op := launched 8 0 1 (2 ^ 320 * 0x200_0000_0000 + 2 ^ 256 * 0x200_0000_1000 + 2 ^ 192 * 64)

theorem witness_FerryOperations :
    let s := withOp copyOp
    Runs 8 0 7 copyOp s ∧ Say.linked s ∧ copyOp.await = 0 ∧ fcopyOk s copyOp = true ∧ pagesIn s 0x200_0000_0000 64 = [] ∧
    (fcSrc s copyOp) = (none, 0x200_0000_0000) ∧ (fcDst s copyOp) = (none, 0x200_0000_1000) ∧ fcDfab copyOp = false :=
  ⟨runs_of (by decide) (by decide), fun _ h => absurd h (List.not_mem_nil), by decide⟩

theorem witness_QueuePairOperations :
    let o := launched 8 7 1 0
    let s := withOp o
    Say.qpRuns 7 o s 0 0 (qpGet s 0) ∧ (qpGet s 0).state = 0 ∧ (qpRoom s).isSome = true :=
  ⟨⟨runs_of (by decide) (by decide), by decide⟩, by decide⟩

theorem witness_QueuePairOperations_send :
    let o := launched 8 6 1 0
    let s := withOp o
    Runs 8 6 7 o s ∧ (∀ m ∈ s.qpe.msgs, m.ticket ≠ 7) ∧ (∀ x ∈ s.qpe.sendWait, x.2.1 ≠ 7) ∧ (qpGet s 0).state.toNat ≤ 1 :=
  ⟨runs_of (by decide) (by decide), by decide⟩

theorem witness_CaveAndIdentity :
    let o := launched 0xB 6 0xA (2 ^ 320 * 0x200_0000_0000 + 2 ^ 276 * 64)
    Runs 0xB 6 7 o (withOp o) ∧ idfrdOk (withOp o) o = true := ⟨runs_of (by decide) (by decide), by decide⟩

theorem witness_CaveAndIdentity_sync :
    let o := launched 9 4 6 0
    Runs 9 4 7 o (withOp o) ∧ csyncOk (withOp o) o = true ∧ (withOp o).fls.journal.length ≤ 1024 :=
  ⟨runs_of (by decide) (by decide), by decide⟩

theorem witness_LaunchAbortRecord :
    let o : Op := { launched 8 0 1 0 with phase := .ended }
    let s := { at0 2 { s := [(1, 7)] } with ops := [o] }
    Issues64 0 true 0 w64 s ∧ opGet s 7 = some o ∧ mayAbort (ctxGet s 0) 0 o = true ∧ Unshared s ∧ s.mem.selfRefresh = 0 ∧
    (∀ x ∈ s.ops.erase o, inBankOn x = false) := by
  refine ⟨?_, ?_, ?_, unshared_of ?_, ?_, ?_⟩
  · unfold Issues64 Issues; decide
  all_goals decide

theorem witness_LaunchAbortRecord_refused :
    let o : Op := { launched 8 0 1 0 with phase := .queued, trig := some 1, queue := 3 }
    let s := { withOp o with queues := [(3, { kind := 2 })] }
    headOf s 3 = some o ∧ opGet s o.ticket = some o ∧ launchHeld s o = false ∧ launchRefused s o = true := by decide

theorem witness_LaunchAbortRecord_launched :
    let o : Op := { copyOp with phase := .queued, trig := some 1, queue := 3 }
    let s := { withOp o with queues := [(3, { kind := 1 })] }
    headOf s 3 = some o ∧ opGet s o.ticket = some o ∧ launchHeld s o = false ∧ launchRefused s o = false ∧
    launchMoved s o = false ∧ launchWaits s o = false := by decide

theorem witness_StepEnds :
    opGet (withOp copyOp) 7 = some copyOp ∧ opLive (withOp copyOp) copyOp = true ∧ validUnit (uid 5 0) = true ∧
    unitIn (withOp copyOp) (uid 5 0) = true ∧ (withOp copyOp).ras.retry = true := by decide

theorem witness_Clock :
    base.phase ≠ .inReset ∧ base.clk.run = true ∧ base.clk.refPresent = true ∧ base.clk.locked = true ∧ regionIn base 74 = true ∧
    stewardAgent (at0 2 {}) (.core 0) = true := by decide

theorem witness_RegisterWindow :
    let s := at0 2 {}
    regsUp s = true ∧ agentWrites s (.core 0) (0x64_8000 + 8 * 5) = true ∧ regUnitOk s true (31 * 2 ^ 18 + 0x28) = true ∧
    agentWrites s (.core 0) (31 * 2 ^ 18 + 0x28) = true ∧ agentWrites s (.host 1) (31 * 2 ^ 18 + 0x28) = false := by decide

theorem witness_StewardAndSecurityRegisters :
    let s := { at0 2 {} with sec := { base.sec with keyBusy := some (5, false) } }
    stewardAgent s (.core 0) = true ∧ s.phase = .running ∧ keyInUse s 5 = false := by decide

theorem witness_PowerEventsAndWaves :
    let s := { base with pwr := { base.pwr with waves := 0 } }
    State.reset.phase = .inReset ∧ State.reset.pwr.perst = true ∧ State.reset.pwr.pwrfail = false ∧
    s.pwr.waves.toNat.testBit 0 = false ∧ 0 + 0 ≤ s.pwr.env.toNat := by decide

theorem witness_PowerAndHeat :
    base.phase = .running ∧ Die.controller ∉ base.pwr.throttled ∧ (heatPoints base .controller).1 ≤ 100 ∧
    (heatPoints base (.stack 0)).2.2.1 ≤ 105 := by decide

/-- A running device with an up port, its node number 5 and a READ for it. -/
def linkedUp : State :=
  { base with isf := { base.isf with nodeValid := true, node := 5, ports := [(0, { width := 16, up := true, credits := [100, 100, 100, 100] })] } }

/-- A READ of 64 bytes at an address, for node 5. -/
def readPkt : Packet := { off := 0x40, dst := 5, src := 6, op := 1, arg := 64 }

theorem witness_FabricRequests :
    Say.inAt 1 readPkt linkedUp (arrive linkedUp 0 0 (packetBytes readPkt).length) ∧
    (inRefused false (arrive linkedUp 0 0 (packetBytes readPkt).length) readPkt) = some 7 := by unfold Say.inAt; decide

theorem witness_FabricAnswers :
    let k : Packet := { dst := 5, src := 6, op := 4, tag := 3 }
    Say.inAt 4 k linkedUp (arrive linkedUp 0 3 (packetBytes k).length) ∧ Quiet linkedUp ∧
    outReq (arrive linkedUp 0 3 (packetBytes k).length) 3 = none :=
  ⟨by unfold Say.inAt; decide, quiet_of (by decide), by decide⟩

theorem witness_LinksAndResends :
    linkOn linkedUp = true ∧ (portGet linkedUp 0).up = true ∧ (portGet linkedUp 0).nakSent = false ∧ linkedUp.isf.heldPkts = [] ∧
    (portGet linkedUp 1).up = false ∧ unitIn linkedUp (uid 12 2) = true ∧ 16 ≤ portWidth linkedUp 2 := by decide

theorem witness_Membership :
    let k : Packet := { dst := 5, src := 6, op := 0xB, arg := 1, data := List.replicate 16 0 }
    Say.inAt 0xB k linkedUp (arrive linkedUp 0 0 (packetBytes k).length) ∧ k.arg.toNat = 1 ∧ k.data.length = 16 ∧ bf (ofLe k.data) 0 59 = 0 ∧
    slotsOf linkedUp k.src = [] := by unfold Say.inAt; decide

theorem witness_QueuePairData :
    let k : Packet := { dst := 5, src := 6, op := 0xC, data := List.replicate 47 0 }
    Say.inAt 0xC k linkedUp (arrive linkedUp 0 0 (packetBytes k).length) ∧ Quiet linkedUp ∧ heldBefore linkedUp k = false ∧
    k.data.length < 48 := ⟨by unfold Say.inAt; decide, quiet_of (by decide), by decide⟩

theorem witness_QueuePairEvents :
    let s := { base with qpe := { base.qpe with fetching := [(3, 900)], host := true } }
    s.phase = .running ∧ tget 0 s.qpe.needAck 3 = 0 ∧ (3, 900) ∈ s.qpe.fetching ∧ s.qpe.cached.length < 1024 ∧
    .qpRing 3 ∉ s.mem.works ∧ ∀ p ∈ s.qpe.parked, p.1 ≠ 3 := by decide

/-- A running device whose host link is up, with logical device 0 enabled. -/
def hosted : State :=
  { base with cxd := { base.cxd with up := true, memok := true, flit256 := true, viaSwitch := true, width := 5, rate := 2, lds := [(0, { state := 0 })] } }

theorem idle_hosted : Say.idle hosted := by
  refine ⟨rfl, rfl, rfl, fun c => ?_⟩
  show stateOf ({} : Ctx) ≠ 3
  decide

theorem witness_HostLinkAndDevices :
    hosted.phase = .running ∧ hosted.cxd.up = true ∧ Say.idle hosted ∧ (ldGet hosted 0).state = 0 ∧ ringBusy hosted 0 = false :=
  ⟨by decide, by decide, idle_hosted, by decide⟩

theorem witness_HostMemory :
    memServed hosted 0 = true ∧ hostRefused hosted 0 0x40 = some 7 ∧ dirFind hosted 0 1 = none := by decide

theorem witness_Extents :
    mbxOk hosted .fm = true ∧ mbxOk hosted (.ld 0) = true ∧ extentNamed hosted (.ld 0) .offered ⟨0, 0x20_0000⟩ = none ∧
    regionOk { base := 0, len := 2 ^ 28, block := 2 ^ 21 } = true ∧ regionOk { base := 1, len := 2 ^ 28, block := 2 ^ 21 } = false := by decide

/-- PMAP TAKE of one region for request 9, whose root table at 0 holds geometry 1, in a partition of no stack. -/
def takeOp : Op := { launched 4 2 5 (3 + 2 ^ 10 + (0x200_0000_0000 <<< 192)) with request := 9 }

/-- PMAP GIVE of the region whose word stands at the start of SRAM. -/
def giveOp : Op := { launched 4 2 5 (6 + (0x200_0000_0000 <<< 192)) with request := 9 }

/-- A region of one granule of stack 0, no page in it. -/
def aRegion : Region :=
  { part := 0, stack := 0, gran := 0, len := 1, slot := 0, sub := 0, heads := 1, vat := false, named := false }

/-- Request 9 ADMITTED, with one region taken and one operation. -/
def paging (o : Op) : State :=
  { withOp o with
    ldg := { base.ldg with entries := [(9, { state := 1, request := 9 })] }
    mem := { base.mem with cells := (11, 4) :: cells 0x200_0000_0000 ((leBytes 8 (regionWord aRegion)).map fun b => b.toNat) }
    wlk := { base.wlk with regions := [aRegion] }
    plan := { base.plan with part0 := { base.plan.part0 with stackSet := 0 } } }

theorem witness_PageMaps :
    Runs 4 2 7 takeOp (paging takeOp) ∧ walkWaits (paging takeOp) takeOp = false ∧ takeOk (paging takeOp) takeOp = true ∧
    pmCount takeOp = 1 ∧ takeRegions (paging takeOp) 0 1 false none (takeStacks (paging takeOp) takeOp) 1 = none :=
  ⟨runs_of (by decide) (by decide), by decide⟩

theorem witness_PageMaps_give :
    Runs 4 2 7 giveOp (paging giveOp) ∧ walkWaits (paging giveOp) giveOp = false ∧ giveOk (paging giveOp) giveOp = true ∧
    poisoned (paging giveOp) (pmA0 giveOp) 8 = false ∧ (paging giveOp).mem.cells.wf = true :=
  ⟨runs_of (by decide) (by decide), by decide⟩

theorem witness_Mailboxes :
    mbxOk base (.ld 0) = true ∧ mbxOk base .fm = false ∧ mbxOk hosted .fm = true ∧ (mbxGet hosted .fm).bg = none ∧
    hosted.phase ≠ .waitImage := by decide

theorem witness_SpdmAndSmbus :
    let s := { hosted with cxd := { hosted.cxd with spdmVersion := true, spdmAlgs := true }, sec := { base.sec with verified := true } }
    doeUp s = true ∧ s.sec.nopuf = false ∧ s.sec.verified = true ∧ sessionOf s 0 = none ∧ s.cxd.sessions.length < 4 ∧
    doeUp base = false ∧ linkOn base = true ∧ base.cxd.up = false := by decide

theorem witness_AgentsAndErrors :
    let s := { base with wlk := { base.wlk with low := [(0, 1)], period := [(0, 1000)] } }
    agentsRun s = true ∧ tget 0 s.wlk.period 0 ≠ 0 ∧ walkersIn s ≠ [] ∧ Quiet s ∧
    (tget 0 s.wlk.sweepAt 0).toNat + (tget 0 s.wlk.period 0).toNat ≤ s.clk.bell.toNat ∧ poolFree s 0 < (tget 0 s.wlk.low 0).toNat ∧
    evictNext (setKeeping (markCrossing s 0) 0 true) 0 = none :=
  ⟨by decide, by decide, by decide, quiet_of (by decide), by decide⟩

theorem witness_FlashEvents :
    let s := { base with fls := { base.fls with wbuf := [⟨3, 7, 9⟩], erasing := [5] } }
    (s.fls.wbuf.filter fun x => x.slot = 3) = [⟨3, 7, 9⟩] ∧ s.phase = .running ∧ Say.keeps s (mapAddr s 7) ∧ 5 ∈ s.fls.erasing := by
  unfold Say.keeps; decide

theorem witness_StorageStaysCanonical : base.MemOk ∧ (match step base with | .next _ => true | _ => false) = true := by
  refine ⟨by unfold State.MemOk; decide, by decide⟩

/-! ### The clauses of the statements, one state for each -/

/-- Request 9 in the ledger, ADMITTED, and a look-aside entry for its page. -/
def translating : State :=
  { at0 1 { s := [(1, 9), (2, 0x100105)] } with
    ldg := { base.ldg with entries := [(9, { state := 1, request := 9 })] }
    wlk := { base.wlk with la := [(9, [{ req := 9, g := 1, layer := 1, gt := 0x1000, pte := 0x5 }])] } }

theorem witness_TranslateAndInvalidate_held :
    Issues128 0 0 { w128 with sd := 4 } translating ∧ Issues128 0 0 w128 translating ∧ Issues128 1 0 w128 translating ∧
    (entryIn translating 0 9).isSome = true ∧ walkerOf translating 9 = some 9 ∧
    (0x100105 : Nat) / 2 ^ 20 % 256 = 1 ∧ (0x100105 : Nat) % 2 ^ 20 / 256 = 1 := by unfold Issues128 Issues; decide

/-- A batch step whose build waits, marked to be tried again, and one whose plan is done. -/
def building : State :=
  { withOp (launched 3 3 9 0) with ldg := { base.ldg with batch := [(0, some { ticket := 7, retry := true })] } }

theorem witness_BatchSteps_retry :
    Runs 3 3 7 (launched 3 3 9 0) building ∧ batchOf building 0 = some { ticket := 7, retry := true } ∧ nextClass building 0 = none :=
  ⟨runs_of (by decide) (by decide), by decide⟩

theorem witness_BatchSteps_complete :
    let b : Batch := { ticket := 7, cls := some 1, committed := some 900, wcet := 10 }
    let s := { withOp { launched 3 3 9 0 with phase := .committed } with ldg := { base.ldg with batch := [(0, some b)] } }
    s.phase = .running ∧ batchOf s 0 = some b ∧ (opGet s 7).isSome = true ∧ planDone s 0 b = true ∧ b.wcet < (s.clk.bell - 900).toNat := by decide

theorem witness_BatchSteps_resume :
    let b : Batch := { ticket := 7, blocked := true, pcount := 1 }
    let s := { withOp { launched 3 3 9 0 with phase := .committed } with ldg := { base.ldg with batch := [(0, some b)] } }
    s.phase = .running ∧ batchOf s 0 = some b ∧ (opGet s 7).isSome = true ∧ b.next < b.pcount ∧ Quiet s ∧ b.items = [] ∧
    opMemOk s 1 0 false b.plan 80 = true ∧ poisoned s b.plan 80 = false :=
  ⟨by decide, by decide, by decide, by decide, quiet_of (by decide), by decide⟩

/-- A packet of queue pair 3 that waits for its acknowledgement. -/
def waitingPkt : QpPkt := { qpn := 3, psn := 4, msn := 0, moff := 0, mlm1 := 1, data := [1, 2], port := some 0 }

/-- A running queue pair 3, resident, with a packet not acknowledged and an ACK owed. -/
def paired : State :=
  { linkedUp with qpe := { base.qpe with ctxs := [(3, { state := 1, rlimit := 3, una := 4, spsn := 5 })], cached := [3], pkts := [waitingPkt],
                                         needAck := [(3, 1)] } }

theorem witness_QueuePairEvents_timers :
    paired.phase = .running ∧ tget 0 paired.qpe.needAck 3 ≠ 0 ∧ qpWorn (qpGet paired 3) = false ∧
    (paired.qpe.pkts.filter fun x => x.qpn = 3 && x.psn = 4) = [waitingPkt] ∧ paired.qpe.shWait = [] ∧ Quiet paired ∧
    (qpGet paired 3).rcnt.toNat + 1 ≤ (qpGet paired 3).rlimit.toNat ∧ (qpGet paired 3).shen = false ∧
    Say.nextPort paired waitingPkt 0 := by
  refine ⟨by decide, by decide, by decide, by decide, by decide, quiet_of (by decide), by decide, by decide, ?_⟩
  refine And.intro (fun h => nomatch h) (And.intro ?_ fun _ _ _ => rfl)
  intro k i u hk hi hlt _
  have hk0 : k = 0 := by injection hk with h; exact h.symm
  have hu : (upPorts paired)[i]? = some u := hi
  have e : upPorts paired = [0] := by decide
  rw [e] at hu
  match i, hu with
  | 0, hu => simp at hu; omega
  | n + 1, hu => simp at hu

theorem witness_QueuePairEvents_retryLimit :
    let s := { paired with qpe := { paired.qpe with ctxs := [(3, { state := 1, una := 4, spsn := 5 })] } }
    Quiet s ∧ (qpGet s 3).rlimit.toNat < (qpGet s 3).rcnt.toNat + 1 := ⟨quiet_of (by decide), by decide⟩

theorem witness_QueuePairEvents_fetched :
    let s := { base with qpe := { base.qpe with fetching := [(3, 900)] } }
    (3, 900) ∈ s.qpe.fetching ∧ s.qpe.cached.length < 1024 ∧ .qpRing 3 ∉ s.mem.works ∧ .qpFetch 3 [] ∉ s.mem.works ∧ s.mem.access = none ∧
    s.qpe.host = false ∧ poisoned s (s.qpe.base.toNat * 64 + 320 * 3) 320 = false ∧ ∀ p ∈ s.qpe.parked, p.1 ≠ 3 := by decide

theorem witness_QueuePairEvents_slotNotOpen :
    let s := { base with qpe := { base.qpe with fetching := [(3, 900)], host := true, evicts := [(3, 1)] } }
    s.qpe.host = true ∧ ∀ pt, ¬Say.qpOpens s 3 (List.replicate 320 0) pt :=
  ⟨by decide, fun _ h => absurd h.2 (by decide)⟩

theorem witness_QueuePairEvents_pageWait :
    let k : Packet := { dst := 5, src := 6, op := 0xC }
    let s := { base with
      clk := { base.clk with bell := 20000 }
      qpe := { base.qpe with parked := [(3, .page 0 0 0, k), (3, .behind, k)], sendWait := [(3, 7, 0, 0, 0)] }
      ops := [launched 8 6 1 0] }
    pageOver s (.page 0 0 0) = true ∧ pageWaited s 0 = true ∧ pageWaited s 19000 = false ∧ (opGet s 7).isSome = true ∧
    ∀ m ∈ s.qpe.msgs, m.ticket ≠ 7 := by decide

theorem witness_QueuePairEvents_shaper :
    let s := { paired with qpe := { paired.qpe with ctxs := [(3, { state := 1, shen := true, shaper := 2, una := 4, spsn := 5 })],
                                                    shWait := [(2, 3, some 4)], shapeB := [(2, 20992)] } }
    s.qpe.shWait = [(2, 3, some waitingPkt.psn)] ∧ s.qpe.msgs = [] ∧ (qpGet s 3).shen = true ∧ (qpGet s 3).shaper.toNat = 2 ∧
    qpWorn (qpGet s 3) = false ∧
    (256 * (32 + ((48 + waitingPkt.data.length : Nat) : Int) + (tget 0 s.qpe.shapeOvhOn 2).toInt).toNat) ≤ tget 0 s.qpe.shapeB 2 := by decide

/-- Logical device 2 in a state, of a device behind a switch that steward code of context 0 runs. -/
def deviceIn (n : BitVec 2) (again : Bool) : State :=
  { at0 2 {} with cxd := { hosted.cxd with lds := [(2, { state := n, again := again, tbase := 5, tcount := 1 })] } }

theorem witness_HostLinkAndDevices_enable :
    (deviceIn 2 false).phase = .running ∧ stewardAgent (deviceIn 2 false) (.core 0) = true ∧ (ldGet (deviceIn 2 false) 2).state = 2 ∧
    (deviceIn 2 false).cxd.viaSwitch = true := by decide

theorem witness_HostLinkAndDevices_disable (n : BitVec 2) (h : n = 0 ∨ n = 3) :
    (ldGet (deviceIn n false) 2).state = n ∧ Say.idle (deviceIn n false) ∧ (n = 0 ∨ n = 3) := by
  refine ⟨by rcases h with rfl | rfl <;> decide, ⟨rfl, rfl, rfl, fun c => ?_⟩, h⟩
  by_cases hc : c = 0
  · subst hc; show stateOf ({ cs := _ } : Ctx) ≠ 3; decide
  · have : ctxGet (deviceIn n false) c = ({} : Ctx) := by
      show tget ({} : Ctx) [(0, _)] c = {}
      simp [tget, hc]
    rw [this]; decide

theorem witness_HostLinkAndDevices_disabled :
    (ldGet (deviceIn 1 false) 2).state = 1 ∧ (ldGet (deviceIn 1 true) 2).again = true ∧ ringBusy (deviceIn 1 true) 2 = false ∧
    (deviceIn 1 true).cxd.viaSwitch = true := by decide

theorem witness_HostLinkAndDevices_trained :
    let t : HostTraining := { rate := 2, width := 5, flit256 := true, viaSwitch := false }
    base.phase = .running ∧ trainingOk t = true ∧ base.cxd.up = false ∧ base.clk.refPresent = true ∧ unitIn base (uid 12 0) = true ∧
    t.width ≤ widthCode (portWidth base 0) ∧ (ldGet base 0).state = 2 := by decide

theorem witness_HostLinkAndDevices_ide :
    let s := { hosted with cxd := { hosted.cxd with ideKeys := [(1, 7)], sessions := [{ sid := 1, open_ := true }] } }
    s.cxd.ideKeys ≠ [] ∧ doeUp s = true ∧ (∃ x ∈ s.cxd.sessions, x.open_ = true) ∧ hostUp s = true ∧
    (s.cxd.ideStreams.countP fun x => sameKind x.2 .ioLink) < ideRoom .ioLink :=
  ⟨by decide, by decide, ⟨_, List.mem_singleton_self _, rfl⟩, by decide⟩

theorem witness_HostLinkAndDevices_resetWaits :
    let s := { deviceIn 1 false with mem := { base.mem with works := [.ring 2 .hostFail {}] } }
    s.phase = .running ∧ hostUp s = true ∧ (ldGet s 2).state = 1 ∧ (ldGet s 2).again = false ∧ s.mem.works = [.ring 2 .hostFail {}] ∧
    s.mem.waiting = [] ∧ s.cxd.accepted = [] := by decide

/-- Queue pair 3 of node 5, with keys in its slot and a packet not acknowledged. -/
def keyed (state rnrlimit : BitVec 3) : State :=
  { paired with qpe := { paired.qpe with
      ctxs := [(3, { state := state, rnrlimit := rnrlimit, rnode := 6, rqpn := 3, kvalid := 1, una := 4, spsn := 5 })] } }

/-- The header of a packet for queue pair 3. -/
def headerFor (psn msn aux : Nat) : Nat := qpHeader psn msn 0 0 3 3 0 1 aux 0

/-- A packet of a kind for queue pair 3, its tag as its slot's keys make it. -/
def sealed (s : State) (kind : Word) (psn msn aux : Nat) : Packet :=
  { dst := 5, src := 6, vc := 3, op := 0xC, arg := kind, tag := 1, len := 48,
    data := leBytes 32 (headerFor psn msn aux) ++ gcmTag (qpKey (qpGet s 3) (hPhase (headerFor psn msn aux)))
      (qpNonce (qpGet s 3) (hPhase (headerFor psn msn aux)) (hTxc (headerFor psn msn aux)))
      (qpAad (headerFor psn msn aux) 6 5 kind.toNat) [] }

theorem sealed_opens (s : State) (kind : Word) (psn msn aux : Nat) (h : headerFor psn msn aux % 2 ^ 256 = headerFor psn msn aux)
    (hv : (qpGet s 3).kvalid.toNat.testBit (hPhase (headerFor psn msn aux)) = true) :
    qpHdr (sealed s kind psn msn aux) = headerFor psn msn aux ∧ (sealed s kind psn msn aux).data.length = 48 ∧
    qpOpen s 3 (sealed s kind psn msn aux) = some [] :=
  qpOpen_tag s 3 (sealed s kind psn msn aux) _ _ (leBytes_length 32 _) ((ofLe_leBytes 32 _).trans h) rfl hv

theorem sealed_in (s : State) (kind : Word) (psn msn aux : Nat) (h : headerFor psn msn aux % 2 ^ 256 = headerFor psn msn aux)
    (hv : (qpGet s 3).kvalid.toNat.testBit (hPhase (headerFor psn msn aux)) = true)
    (hs : fabricUp s = true ∧ ownNode s = 5 ∧ bf (headerFor psn msn aux) 0 18 = 0 ∧ hDqpn (headerFor psn msn aux) = 3 ∧
      (qpGet s 3).state ≠ 0 ∧ qpResident s 3 = true ∧ s.qpe.parked = [] ∧ s.mem.waiting = []) (hq : Quiet s) :
    Say.qpIn kind.toNat (sealed s kind psn msn aux) s
      (arrive s 3 1 (packetBytes (sealed s kind psn msn aux)).length) 3 (qpGet s 3) := by
  obtain ⟨e, l, -⟩ := sealed_opens s kind psn msn aux h hv
  obtain ⟨up, own, r, d, st, res, pk, wt⟩ := hs
  refine ⟨⟨up, own.symm, rfl, rfl, by rw [l]; decide, rfl⟩, rfl, by rw [l], by rw [e]; exact r, by rw [e]; exact d.symm, rfl, st, res, ?_, ?_, hq⟩
  · rw [pk]; intro p hp; cases hp
  · unfold heldBefore; rw [wt]; rfl

theorem witness_QueuePairEvents_ack :
    let s := keyed 1 0
    let k := sealed s 1 5 0 0
    Say.qpIn 1 k s (arrive s 3 1 (packetBytes k).length) 3 (qpGet s 3) ∧ qpOpen s 3 k = some [] ∧
    newer 32 5 (qpGet s 3).spsn.toNat = false ∧ newer 32 5 (qpGet s 3).una.toNat = true ∧ s.qpe.msgs = [] ∧ s.qpe.shWait = [] :=
  ⟨sealed_in _ 1 5 0 0 (by decide) (by decide) (by decide) (quiet_of (by decide)), (sealed_opens _ 1 5 0 0 (by decide) (by decide)).2.2, by decide⟩

theorem witness_QueuePairEvents_rnr (l : BitVec 3) (h : l = 0 ∨ l = 7) :
    let s := keyed 1 l
    let k := sealed s 2 4 0 0x114
    Say.qpIn 2 k s (arrive s 3 1 (packetBytes k).length) 3 (qpGet s 3) ∧ qpOpen s 3 k = some [] ∧ bareRnr (headerFor 4 0 0x114) = false ∧
    (s.qpe.pkts.filter fun q => q.qpn.toNat = 3 && q.psn = hPsn (headerFor 4 0 0x114)) = [waitingPkt] ∧ (qpGet s 3).rnrlimit = l := by
  rcases h with rfl | rfl <;>
    exact ⟨sealed_in _ 2 4 0 0x114 (by decide) (by decide) (by decide) (quiet_of (by decide)),
      (sealed_opens _ 2 4 0 0x114 (by decide) (by decide)).2.2, by decide⟩

theorem witness_QueuePairEvents_nak (n : BitVec 3) (h : n = 1 ∨ n = 4) :
    let s := keyed n 0
    let k := sealed s 3 4 0 12
    Say.qpIn 3 k s (arrive s 3 1 (packetBytes k).length) 3 (qpGet s 3) ∧ qpOpen s 3 k = some [] ∧ bf (hAux (headerFor 4 0 12)) 0 8 = 12 ∧
    (qpGet s 3).state = n := by
  rcases h with rfl | rfl <;>
    exact ⟨sealed_in _ 3 4 0 12 (by decide) (by decide) (by decide) (quiet_of (by decide)),
      (sealed_opens _ 3 4 0 12 (by decide) (by decide)).2.2, by decide⟩

theorem witness_QueuePairEvents_cancel :
    let s := keyed 1 0
    let k := sealed s 4 4 0 0
    Say.qpIn 4 k s (arrive s 3 1 (packetBytes k).length) 3 (qpGet s 3) ∧ qpOpen s 3 k = some [] ∧
    (hMsn (headerFor 4 0 0) - (qpGet s 3).rmsn).toNat < 2 ^ 23 ∧ rxFind s 3 (hMsn (headerFor 4 0 0)) = none ∧
    qpPosted (qpGet s 3) ≤ (hMsn (headerFor 4 0 0) - (qpGet s 3).rmsn).toNat ∧ ∀ x ∈ s.qpe.rx, x.qpn.toNat ≠ 3 :=
  ⟨sealed_in _ 4 4 0 0 (by decide) (by decide) (by decide) (quiet_of (by decide)), (sealed_opens _ 4 4 0 0 (by decide) (by decide)).2.2, by decide⟩

theorem witness_QueuePairData_flushed :
    let s := keyed 4 0
    let k := sealed s 0 0 0 0
    Say.qpIn 0 k s (arrive s 3 1 (packetBytes k).length) 3 (qpGet s 3) ∧ qpOpen s 3 k = some [] ∧ (qpGet s 3).state = 4 ∧
    qpWorn (qpGet s 3) = false :=
  ⟨sealed_in _ 0 0 0 0 (by decide) (by decide) (by decide) (quiet_of (by decide)), (sealed_opens _ 0 0 0 0 (by decide) (by decide)).2.2, by decide⟩

theorem witness_PowerEventsAndWaves_boot :
    let x : BootInput := { keelOk := true, pufOk := true, coresFailed := [], code := 1, nominalMv := [] }
    State.reset.phase = .inReset ∧ State.reset.pwr.perst = true ∧ State.reset.pwr.pwrfail = false ∧ x.keelOk = true ∧ x.coresFailed = [] ∧
    (∀ r ∈ State.reset.sec.factory ++ State.reset.sec.halfA ++ State.reset.sec.halfB, r.kind ≠ 1) ∧ base.phase ≠ .inReset ∧
    stageSet base = false ∧ base.pwr.pwrfail = false := by decide

theorem witness_PowerEventsAndWaves_failed :
    let s := { base with pwr := { base.pwr with waves := 0 }, ras := { base.ras with auto := false }, units := { base.units with tileUp := 1 } }
    inHubGroup 0 (uid 9 0) = true ∧ (fptGet s (uid 9 0)).state ≠ 2 ∧ s.ras.auto = false ∧ (∀ x ∈ s.ras.failed, x.1 ≠ uid 9 0) ∧
    s.units.tileUp.toNat.testBit 1 = false ∧ (∀ k, k < 1 → s.units.tileUp.toNat.testBit k = true) :=
  ⟨by decide, by decide, by decide, fun _ h => absurd h List.not_mem_nil, by decide, fun k h => by
    obtain rfl : k = 0 := by omega
    decide⟩

theorem witness_PowerAndHeat_held :
    let s := { base with pwr := { base.pwr with throttled := [.controller], tripped := [.stack 0], below := 10 } }
    Die.controller ∈ s.pwr.throttled ∧ Die.stack 0 ∈ s.pwr.tripped ∧ Die.stack 0 ∉ s.pwr.throttled ∧ (90 : Int) ≤ (heatPoints s .controller).2.1 ∧
    (90 : Int) ≤ (heatPoints s (.stack 0)).2.2.2 := by decide

theorem witness_LinksAndResends_flits :
    let s := { linkedUp with isf := { linkedUp.isf with ports := [(0, { width := 16, up := true, credits := [9, 9, 9, 9], rxUnacked := 3 })] } }
    linkOn s = true ∧ (portGet s 0).up = true ∧ (portGet s 0).rxUnacked ≠ 0 ∧ s.isf.heldPkts = [] ∧ (portGet s 0).nakSeq ≠ (5 : BitVec 10) + 1 := by
  decide

/-- A request to node 6 that waits, and one of its INVALs. -/
def asking (owner : Owner) (resend : Option Bool) : State :=
  { linkedUp with
    ops := [{ launched 8 4 1 0 with await := 1 }]
    isf := { linkedUp.isf with out := [{ pkt := { pkt := { dst := 6, src := 5, tag := 3 } }, sent := 0, owner := owner, ups := 1, resend := resend }] } }

theorem witness_LinksAndResends_lost :
    let s := { asking (.inval 7) none with clk := { base.clk with bell := BitVec.ofNat 64 (deadBound base) } }
    (outReq s 3).isSome = true ∧ linkOn s = true ∧ (opGet s 7).isSome = true ∧ s.isf.deadSeen = [] ∧ deadBound s ≤ s.clk.bell.toNat := by decide

theorem witness_LinksAndResends_resend :
    (outReq (asking (.reduce 7) (some false)) 3).isSome = true ∧ (6 : Node) ≠ ownNode (asking (.reduce 7) (some false)) ∧
    (outReq (asking (.inval 7) (some true)) 3).isSome = true := by decide

theorem witness_LinksAndResends_store :
    let w : LStore := { block := 6 * 2 ^ 38 + 1, at_ := 64, bytes := [some 1], poison := false, ld := 0, dpa := 0 }
    let s := { linkedUp with isf := { linkedUp.isf with lstores := [w] } }
    s.phase = .running ∧ (s.isf.lstores.filter fun y => y.block = 6 * 2 ^ 38 + 1) = [w] ∧ w.at_ + 1 ≤ 4096 ∧
    excluded s (BitVec.ofNat 14 (w.block / 2 ^ 38)) = false := by decide

theorem witness_FabricAnswers_waited :
    let k : Packet := { dst := 5, src := 6, op := 4, tag := 3 }
    let s := asking (.inval 7) none
    Say.inAt 4 k s (arrive s 0 3 (packetBytes k).length) ∧ Quiet s ∧ (outReq (arrive s 0 3 (packetBytes k).length) 3).isSome = true ∧
    (opGet s 7).isSome = true := ⟨by unfold Say.inAt; decide, quiet_of (by decide), by decide⟩

/-- Node 5 in slot 5 and node 6 in slot 6 of the composition map, both members. -/
def memberUp : State :=
  { linkedUp with isf := { linkedUp.isf with
      nodeSlot := 5, map := { linkedUp.isf.map with reach := [(5, 0x8005), (6, 0x8006)] }, memb := { linkedUp.isf.memb with mode := true, members := 0x60 } } }

theorem witness_Membership_member :
    let k : Packet := { dst := 5, src := 6, op := 0xB, arg := 1, data := List.replicate 16 0 }
    Say.inAt 0xB k memberUp (arrive memberUp 0 0 (packetBytes k).length) ∧ membOn memberUp = true ∧
    (slotsOf memberUp k.src).head? = some 6 := by unfold Say.inAt; decide

/-- `hosted` with its own node in slot 0 of the map and one extent of logical device 0 there. -/
def serving (x : ExtState) (dir : List DirEntry) (recalls : List Recall) : State :=
  { hosted with
    sec := { hosted.sec with prot := [(0, grantAll ||| 1 <<< 54)] }
    isf := { hosted.isf with map := { hosted.isf.map with reach := [(0, 0x8000)] } }
    cxd := { hosted.cxd with
      extents := [{ base := 0, len := 2 ^ 28, ld := 0, state := x }], dir := dir, recalls := recalls, dirN := 8, dirBase := 0x100000 } }

theorem witness_HostMemory_served :
    let s := serving .allocated [] []
    memServed s 0 = true ∧ hostRefused s 0 0x40 = none ∧ dpaLocal s 0x40 = some 0x40 ∧ bankBusy s 0x40 64 = false ∧
    bankHolds s true 0x40 64 = false ∧ s.cxd.flit256 = true ∧ s.cxd.dirN ≠ 0 ∧ s.cxd.dir = [] ∧ s.cxd.recalls = [] ∧
    ∀ e ∈ s.cxd.extents, e.state ≠ .revoking := by decide

theorem witness_HostMemory_recalled :
    let s := serving .allocated [⟨4, 1, 0, true⟩] [⟨1, 0, 0⟩]
    s.cxd.recalls = [⟨1, 0, 0⟩] ∧ s.cxd.dir = [⟨4, 1, 0, true⟩] ∧ holderUp s 0 = true ∧ dpaLocal s 64 = some 64 ∧
    s.clk.bell.toNat < 0 + bellUs s s.cxd.biUs.toNat := by decide

theorem witness_HostMemory_apart : Say.apart (64, 64) (0x100000 * 64 + 8 * 4, 8) := by unfold Say.apart; decide

theorem witness_Extents_answers :
    let s := serving .offered [] []
    let x : DpaRange := ⟨0, 2 ^ 28⟩
    mbxOk s (.ld 0) = true ∧ (extentNamed s (.ld 0) .offered x).isSome = true ∧ rangeOfExtent ⟨0, 2 ^ 28, 0, .offered⟩ = x ∧
    extentBusy (serving .revoking [] []) ⟨0, 2 ^ 28, 0, .revoking⟩ = false := by decide

theorem witness_Extents_offer :
    let s := { hosted with cxd := { hosted.cxd with regions := [{ base := 0, len := 2 ^ 28, block := 2 ^ 21 }] } }
    addOk s 0 0 (2 ^ 21) (2 ^ 21) = true ∧ addOk s 0 0 1 (2 ^ 21) = false := by decide

theorem witness_Mailboxes_image :
    let s := { hosted with phase := .waitImage, sec := { hosted.sec with imageSrc := 1 } }
    mbxOk s .fm = true ∧ (mbxGet s .fm).bg = none ∧ s.phase = .waitImage ∧ s.sec.imageSrc ≠ 0 ∧
    fwPart s (.full [1]) = some ([1], true) ∧ fwPart s (.last 1 [1]) = none := by decide

theorem witness_Mailboxes_poison :
    ownLine (serving .allocated [] []) (.ld 0) 0x40 = true ∧ ownLine (serving .allocated [] []) .fm 0x40 = false ∧
    lineWaits (serving .allocated [] []) 1 = false := by decide

theorem witness_FlashEvents_programmed :
    let s := { base with fls := { base.fls with wbuf := [⟨3, 7, 9⟩] } }
    placeTakes s 9 = false ∧ redirect s ⟨3, 7, 9⟩ = s ∧ (∀ w ∈ s.fls.wbuf, w.slot ≠ 4) := by decide

theorem witness_FlashEvents_due :
    memService base = true ∧ base.clk.refPresent = true ∧ base.fls.pfReady = false ∧ base.fls.journal.length < 1024 ∧
    writeJournalGranule base = none ∧ 74 ∉ base.clk.slow := by decide

theorem witness_LevelsAndPredicates_read :
    Issues64 0 (decide (({ w64 with imm := 4 } : Ins64).imm.toNat < 12)) 0 { w64 with imm := 4 } (at0 0 {}) ∧
    privOf (ctxGet (at0 0 {}) 0) = 0 := by unfold Issues64 Issues; decide

/-- A ring of host records with one record to take. -/
def ringed : State := { base with ldg := { base.ldg with rings := [(0, { en := true, tail := 1, base := 0x2000_0000, host := true })] } }

theorem witness_LedgerEventsAndRings_records :
    (ringGet ringed 0).en = true ∧ (ringGet ringed 0).head ≠ (ringGet ringed 0).tail ∧ ringBusy ringed 0 = false ∧
    ringFails ringed (ringGet ringed 0) 0x200_0000_0000 .hostFail = true ∧ ringFails ringed (ringGet ringed 0) 0x200_0000_0000 .hostPoison = false ∧
    ringBytes ringed (ringGet ringed 0) 0x200_0000_0000 .hostPoison = some none ∧
    bf 9 0 16 = 9 ∧ hdrResvBits 9 = false ∧ hdrResvBits (2 ^ 60) = true := by decide

theorem witness_LedgerEventsAndRings_tenant : Say.tenant { base with ctxs := [(0, { cs := 0x4000 })] } (.core 0) 0 ∧ ∀ c, ¬Say.tenant base (.host 0) c := by
  constructor
  · unfold Say.tenant; decide
  · intro c h; cases h.1

/-- A page that returns to the start of stack 0, and its request's enrolment. -/
def aPage : RetPage := ⟨0x200_0000_0400, 0, 0, 0, 0x200_0000_0800⟩
def anEnrol : Enrol := ⟨9, 0, 5, 0, 1, [aPage]⟩

/-- Group 1 with one sealed layer of a kind, its records and tables at the start of SRAM, and one region taken. -/
def grouped (kind : Nat) (o : Op) : State :=
  { withOp o with
    mem := { base.mem with
      cells := cells 0x200_0000_0010 ((leBytes 16 (mkRec 0x200_0000_0400 false 0 0 1)).map fun b => b.toNat) ++
      cells 0x200_0000_0400 ((leBytes 64 (mkHeader 0 1 0 1 2)).map fun b => b.toNat) ++
      cells 0x200_0000_0440 ((leBytes 16 (mkPte kind false 0 0 1 0)).map fun b => b.toNat) ++
      cells 0x200_0000_0800 ((leBytes 16 (2 ^ 32 * PK.peer)).map fun b => b.toNat) }
    wlk := { base.wlk with
      regions := [aRegion], poolBase := [(0, 0x8_0000)], kcount := [(0, 1)], repair := [(0, [(1, 0)])],
      enrolled := [(0, [anEnrol])] } }

/-- CREAD of layer 0 of group 1 into the region. -/
def creadOp : Op := launched 9 0 6 (regionWord aRegion * 2 ^ 32 + 2 ^ 104)

set_option maxRecDepth 8000 in
theorem witness_CaveAndIdentity_read :
    Runs 9 0 7 creadOp (grouped PK.cave creadOp) ∧ creadOp.settled = false ∧
    recordPage (grouped PK.cave creadOp) creadOp = some (0x200_0000_0400, 0) ∧
    creadRegion (grouped PK.cave creadOp) creadOp 0 = some aRegion ∧ peKind (getPte (grouped PK.cave creadOp) 0x200_0000_0400 0) = 3 ∧
    peKind (getPte (grouped PK.dram creadOp) 0x200_0000_0400 0) ≠ 3 :=
  ⟨runs_of (by decide) (by decide), by decide⟩

theorem witness_AgentsAndErrors_page :
    let s := { grouped PK.transit creadOp with ops := [] }
    agentsRun s = true ∧ tget [] s.wlk.enrolled 0 = [anEnrol] ∧ layerPages anEnrol = [aPage] ∧ stillReturning s 0 anEnrol aPage = true ∧
    retKind (memNum s aPage.record 16) = PK.peer ∧ (s.wlk.regions.find? fun z => z.stack = aPage.stack && z.gran = aPage.gran) = some aRegion ∧
    linkRuns s aPage.stack = true ∧ linkRuns { s with clk := { s.clk with slow := [75] } } aPage.stack = false := by decide

theorem witness_AgentsAndErrors_repair :
    let s := { grouped PK.dram creadOp with ops := [] }
    Quiet s ∧ agentsRun s = true ∧ tget [] s.wlk.repair 0 = [(1, 0)] ∧ tget true s.ras.repairEn 0 = true ∧
    rcGt (getRec s 0 1) = 0x200_0000_0400 ∧ peKind (getPte s 0x200_0000_0400 0) = PK.dram ∧ peCv (getPte s 0x200_0000_0400 0) = false :=
  ⟨quiet_of (by decide), by decide⟩

theorem witness_HostLinkAndDevices_aborts :
    let o : Op := { launched 8 0 1 0 with ld := 2, phase := .queued }
    let s := { deviceIn 0 false with ops := [o], ldg := { base.ldg with entries := [(9, { state := 1, request := 9, ld := 2 })] } }
    (ldGet s 2).state = 0 ∧ opGet s 7 = some o ∧ s.isf.out = [] ∧ s.qpe.ctxs = [] ∧ s.ldg.spilled = [] ∧ (entryOf s 9).state = 1 := by decide

theorem witness_HostMemory_lineBack :
    let s := serving .allocated [⟨4, 1, 0, true⟩] [⟨1, 0, 0⟩]
    bankHolds s true 64 64 = false ∧ recallNeeded { s with cxd := { s.cxd with dir := [] } } 64 64 = [] ∧
    lineWaits { s with mem := { s.mem with waiting := [.inject 1] } } 1 = true := by decide

theorem witness_Mailboxes_discarded :
    let s := { base with phase := .waitImage, sec := { base.sec with imageSrc := 2, arrived := [[1]] } }
    s.phase = .waitImage ∧ s.sec.imageSrc ≠ 0 ∧ s.sec.arrived ≠ [] ∧ fmOpcode 0x5600 = true ∧ fmOpcode 0x5700 = false ∧
    0x5700 ∉ mbxOpcodes := by decide

/-- A flash channel in service, whose first block of target 0 takes programs. -/
def flashed : State := { base with fls := { base.fls with ch := [(0, { en := true })] } }

theorem witness_FlashEvents_takes :
    placeTakes flashed 9 = true ∧ Say.keeps flashed (mapAddr flashed 7) ∧
    (({ flashed with fls := { flashed.fls with grans := [(9, { lgran := 7, seq := 0, kind := 0, data := [] })] } } : State).fls.grans.find?
      fun x => x.1 = 9) = some (9, { lgran := 7, seq := 0, kind := 0, data := [] }) ∧
    granLive base (9, { lgran := 7, seq := 0, kind := 0, data := [] }) = false := by unfold Say.keeps; decide

/-- Request 9 with a vat of one layer at position 0, some of its rows filled, and one operation. -/
def vatted (fill : Nat) (o : Op) : State :=
  { withOp o with
    ldg := { base.ldg with entries := [(9, { state := 1, request := 9, root := 0x2000_0001 })] }
    mem := { base.mem with
      rowmap := [(0, 1)]
      cells := cells 0x200_0000_0400 ((leBytes 64 (mkHeader 0 1 0 0 1)).map fun b => b.toNat) ++
        cells 0x200_0000_0440 ((leBytes 16 (mkPte PK.vat false 0 (fill * 2 ^ 87) 1 0)).map fun b => b.toNat) ++
        cells 0x200_0000_1000 ((leBytes 16 (4 * 2 ^ 77)).map fun b => b.toNat) ++
        cells 0x200_0000_1040 ((leBytes 8 0x200_0000_0401).map fun b => b.toNat) } }

/-- PAPPEND of one row at position 0 from the window of hub 0, and PPRESS of the full page into stack 0. -/
def appendOp : Op := { launched 4 7 5 (2 ^ 64 * 0x500_0000_0000) with request := 9 }
def pressOp : Op := { launched 4 8 5 (2 ^ 81 * 2) with request := 9 }

set_option maxRecDepth 8000 in
theorem witness_PageOperations_append :
    Runs 4 7 7 appendOp (vatted 0 appendOp) ∧ earlierAppend (vatted 0 appendOp) appendOp = false ∧
    pappendOk (vatted 0 appendOp) appendOp = true ∧ (activeEntry (vatted 0 appendOp) appendOp).isSome = true ∧
    Say.keeps (vatted 0 appendOp) 0x200_0000_0440 ∧ Say.apart (0, geRow 0) (0x200_0000_0440, 16) :=
  ⟨runs_of (by decide) (by decide), by decide, by decide, by decide, by unfold Say.keeps; decide, by unfold Say.apart; decide⟩

set_option maxRecDepth 8000 in
theorem witness_PageOperations_press :
    Runs 4 8 7 pressOp (vatted 256 pressOp) ∧ ppressOk (vatted 256 pressOp) pressOp = true ∧
    poisoned (vatted 256 pressOp) 0 (256 * geRow 0) = false :=
  ⟨runs_of (by decide) (by decide), by decide, by decide⟩

end Sys2Proof.Tests
end

section
/-! PROOF. The issue of an instruction that is well-formed, and of one whose fields are not as its format has them (R60, R61,
R85). -/
namespace Sys2Proof.Machine

/-- A 64-bit instruction whose conditions hold answers what its effect and the end of the instruction leave. -/
theorem issue64_effect {level : Nat} {ok : Bool} {c : CtxId} {w : Ins64} {s : State} (h : Issues64 level ok c w s)
    (eff : State → After) : issue64 level ok c w eff s = .next (finish c 8 (eff (startIssue s c))) :=
  congrArg _ (issue_effect h eff)

/-- The format is checked before the predicate and the level: an instruction that may be fetched and fails it raises ILLEGAL. -/
theorem issue_badFormat {n : Nat} {c : CtxId} {s : State} (hc : canIssue s c = true) (ha : (ctxGet s c).pc.toNat % 8 = 0)
    (hf : fetchOk s c n = true) (hp : poisoned s (memKey (c / 8) (ctxGet s c).pc.toNat) n = false)
    (level : Nat) (pred : BitVec 3) (pneg : Bool) (eff : State → After) :
    issue n level false pred pneg c eff s = takeException (startIssue s c) c Cause.illegal none := by
  unfold issue
  simp [hc, ha, fetchOk_startIssue, hf, poisoned_startIssue, hp]

end Sys2Proof.Machine
end

section
/-! PROOF. QBIND and TBIND: the handle word each makes, and the two ends of a binding (R57, R58). -/
namespace Sys2Proof.Machine

/-! ### What a binding reads of the state and leaves in the context -/

theorem holdsQueue_startIssue (s : State) (c : CtxId) (p : Part) (i : Nat) :
    holdsQueue (startIssue s c) p i = holdsQueue s p i := by rw [startIssue_rest]; rfl

theorem holdsTally_startIssue (s : State) (c : CtxId) (p : Part) (i : Nat) :
    holdsTally (startIssue s c) p i = holdsTally s p i := by rw [startIssue_rest]; rfl

theorem queueGet_startIssue (s : State) (c : CtxId) (q : Nat) : queueGet (startIssue s c) q = queueGet s q := by
  rw [startIssue_rest]; rfl

/-- A status written after a change of the context, and the pc moved on, are one change of the context. -/
theorem advance_statusTo_ctxSet (s : State) (c : CtxId) (y : Ctx) (i : Nat) (st : Byte) (n : Nat) :
    advance (statusTo (ctxSet s c y) c i st) c n =
      ctxSet s c { setS y i (st.setWidth 64) with pc := y.pc + BitVec.ofNat 64 n } := by
  simp [advance, statusTo, regSet]

/-! ### Handle words (R57) -/

/-- The word of a handle bound to a queue: the bound bit, the queue's kind, its number. -/
def queueBinding (kind : Byte) (n : Nat) : W32 := BitVec.ofNat 32 (2 ^ 31 + kind.toNat * 2 ^ 16 + n)

/-- The word of a handle bound to a tally: the bound bit, the read-only mark of imm[0], the tally's number. -/
def tallyBinding (imm : BitVec 28) (n : Nat) : W32 := BitVec.ofNat 32 (2 ^ 31 + imm.toNat % 2 * 2 ^ 30 + n)

theorem queueBinding_toNat (kind : Byte) {n : Nat} (h : n < 1024) :
    (queueBinding kind n).toNat = 2 ^ 31 + kind.toNat * 2 ^ 16 + n := by
  unfold queueBinding
  rw [BitVec.toNat_ofNat, Nat.mod_eq_of_lt]
  omega

theorem tallyBinding_toNat (imm : BitVec 28) {n : Nat} (h : n < 4096) :
    (tallyBinding imm n).toNat = 2 ^ 31 + imm.toNat % 2 * 2 ^ 30 + n := by
  unfold tallyBinding
  rw [BitVec.toNat_ofNat, Nat.mod_eq_of_lt]
  omega

theorem queueBinding_fields (kind : Byte) {n : Nat} (h : n < 1024) :
    (queueBinding kind n).toNat % 1024 = n ∧ (queueBinding kind n).toNat.testBit 31 = true ∧
    getF (queueBinding kind n) 16 8 = kind.toNat := by
  rw [getF, bf, queueBinding_toNat kind h, Nat.shiftRight_eq_div_pow, Nat.testBit_eq_decide_div_mod_eq, decide_eq_true_iff]
  omega

theorem tallyBinding_fields (imm : BitVec 28) {n : Nat} (h : n < 4096) :
    (tallyBinding imm n).toNat % 4096 = n ∧ (tallyBinding imm n).toNat.testBit 31 = true ∧
    (tallyBinding imm n).toNat.testBit 30 = imm.toNat.testBit 0 := by
  rw [tallyBinding_toNat imm h]
  simp only [Nat.testBit_eq_decide_div_mod_eq, decide_eq_true_iff, decide_eq_decide]
  omega

/-! ### The two ends of a binding (R58) -/

section
variable {c : CtxId} {w : Ins64} {s : State} {x : Ctx} {n : Nat} (hx : x = ctxGet s c) (hn : n = (getS x w.sb.toNat).toNat)
  (h : Issues64 1 (narrow 4 w.sd) c w s)
include hx hn h

/-- QBIND binds the handle and completes where the queue is in the partition's quota; any other number gives PROTECT. -/
theorem exec_qbind : exec (.qbind c w) s = .next (ctxSet (startIssue s c) c
    (if n < 1024 ∧ holdsQueue s (partOf x) n = true then
      { setS { runCtx x with q := tset 0 x.q w.sd.toNat (queueBinding (queueGet s n).kind n) } w.sa.toNat 0 with pc := x.pc + 8 }
    else { setS (runCtx x) w.sa.toNat 7 with pc := x.pc + 8 })) := by
  subst hn hx
  change issue64 1 _ c w _ s = _
  rw [issue64_effect h]
  simp only [startIssue_ctxGet, getS_runCtx, partOf_runCtx, runCtx_q, holdsQueue_startIssue, queueGet_startIssue, Bool.and_eq_true,
    decide_eq_true_eq]
  split
  · simp [finish, advance_statusTo_ctxSet, queueBinding]
  · exact congrArg _ (advance_regSet s c _ _ 8)

/-- TBIND binds the handle and completes where the tally is in the partition's quota; any other number gives PROTECT. -/
theorem exec_tbind : exec (.tbind c w) s = .next (ctxSet (startIssue s c) c
    (if n < 4096 ∧ holdsTally s (partOf x) n = true then
      { setS { runCtx x with t := tset 0 x.t w.sd.toNat (tallyBinding w.imm n) } w.sa.toNat 0 with pc := x.pc + 8 }
    else { setS (runCtx x) w.sa.toNat 7 with pc := x.pc + 8 })) := by
  subst hn hx
  change issue64 1 _ c w _ s = _
  rw [issue64_effect h]
  simp only [startIssue_ctxGet, getS_runCtx, partOf_runCtx, runCtx_t, holdsTally_startIssue, Bool.and_eq_true, decide_eq_true_eq]
  split
  · simp [finish, advance_statusTo_ctxSet, tallyBinding]
  · exact congrArg _ (advance_regSet s c _ _ 8)

end

/-- Settles O15: each instruction binds a number of its partition's quota, with the fields of its handle word, and refuses any
other. -/
theorem handleBinding : Obligations.HandleBinding := by
  unfold Obligations.HandleBinding
  intro c w s x n hx hn h
  rw [exec_qbind hx hn h, exec_tbind hx hn h]
  refine ⟨fun hlt hq => ?_, fun hlt ht => ?_, fun out => ?_, fun out => ?_⟩
  · rw [if_pos ⟨hlt, hq⟩]
    exact ⟨_, rfl, queueBinding_fields _ hlt⟩
  · rw [if_pos ⟨hlt, ht⟩]
    exact ⟨_, rfl, tallyBinding_fields _ hlt⟩
  · rw [if_neg (by grind)]
  · rw [if_neg (by grind)]

end Sys2Proof.Machine
end

section
/-! PROOF. PXLATE into an odd register pair: its format asks more than the zero post fields of the other synchronous 128-bit
instructions (R142, log entry 94). -/
namespace Sys2Proof.Machine

/-- The format that `Say.rows128` gives the synchronous 128-bit instructions: the length bit set, every post field zero (R86). -/
def postFieldsZero (w : Ins128) : Bool :=
  w.len && decide (w.resv = 0 ∧ w.ord = false ∧ w.whn = 0 ∧ w.tl = 0 ∧ w.tc = 0 ∧ w.q = 0)

theorem pxlate_mem_rows128 : (Instr.pxlate, 0, postFieldsZero) ∈ Say.rows128 :=
  List.mem_append_left _ (List.mem_map.2 ⟨(.pxlate, 0), by simp, rfl⟩)

/-- PXLATE into an odd register pair raises ILLEGAL, whatever its predicate. -/
theorem exec_pxlate_odd {c : CtxId} {w : Ins128} {s : State} (hd : w.sd.toNat % 2 = 1) (hc : canIssue s c = true)
    (ha : (ctxGet s c).pc.toNat % 8 = 0) (hf : fetchOk s c 16 = true)
    (hp : poisoned s (memKey (c / 8) (ctxGet s c).pc.toNat) 16 = false) :
    exec (.pxlate c w) s = .next (takeException (startIssue s c) c 1 none) := by
  change execPxlate c w s = _
  unfold execPxlate
  simp only [hd, Nat.one_ne_zero, decide_false, Bool.and_false]
  rw [issue_badFormat hc ha hf hp]

/-- A device that runs, with every address granted, and context 0 READY at tenant level with its pc at 0. -/
def tenantAtZero : State :=
  { State.reset with
    phase := .running
    plan := { State.reset.plan with code := 1 }
    mem := { State.reset.mem with ready := 0xFFFF_FFFF }
    pwr := { State.reset.pwr with waves := 0xFF }
    units := { State.reset.units with gated := 0, tileUp := 0x3FFFF }
    clk := { State.reset.clk with locked := true, refPresent := true, run := true }
    sec := { State.reset.sec with prot := [(0, BitVec.ofNat 128 (40 * 2 ^ 70 + 2 * 2 ^ 52 + 2 ^ 44))] }
    ctxs := [(0, { cs := 0x2000 })] }

/-- PXLATE of the pair s3, s4, with no post field and the negated p0 as its predicate. -/
def oddPxlate : Ins128 :=
  { imm64 := 0, resv := 0, ord := false, whn := 0, tl := 0, tc := 0, q := 0, sc := 0, sb := 2, sa := 1, sd := 3, pneg := true,
    pred := 0, len := true }

theorem tenantAtZero_fetches :
    canIssue tenantAtZero 0 = true ∧ (ctxGet tenantAtZero (0 : CtxId)).pc = 0 ∧ fetchOk tenantAtZero (0 : CtxId) 16 = true ∧
    poisoned tenantAtZero (memKey ((0 : CtxId) / 8) (ctxGet tenantAtZero (0 : CtxId)).pc.toNat) 16 = false := by decide

/-- ILLEGAL enters the handler at entry 1 of a table at 0. -/
theorem tenantAtZero_illegal_pc :
    (ctxGet (takeException (startIssue tenantAtZero 0) (0 : CtxId) 1 none) (0 : CtxId)).pc = 64 := by decide

/-- Refutes O7: its rows give PXLATE the format of every synchronous 128-bit instruction, but PXLATE also asks an even sd. With
s3 as its destination and a false predicate the statement has it move the pc to 16; it raises ILLEGAL, and the pc is the
handler's 64. -/
theorem not_levelsAndPredicates : ¬ Obligations.LevelsAndPredicates := by
  unfold Obligations.LevelsAndPredicates
  rintro ⟨-, -, -, rows⟩
  obtain ⟨hc, hpc, hf, hp⟩ := tenantAtZero_fetches
  have ha : (ctxGet tenantAtZero (0 : CtxId)).pc.toNat % 8 = 0 := by rw [hpc]; rfl
  obtain ⟨-, skips, -⟩ := rows 0 oddPxlate tenantAtZero _ pxlate_mem_rows128 hc ha hf hp
  have moved := skips rfl rfl
  rw [exec_pxlate_odd rfl hc ha hf hp] at moved
  injection moved with same
  have pcs := congrArg (fun t => (ctxGet t (0 : CtxId)).pc) same
  simp only [tenantAtZero_illegal_pc, ctxGet_ctxSet_same, hpc] at pcs
  exact absurd pcs (by decide)

end Sys2Proof.Machine
end
